-- ==== Sys2Proof/Word.lean ====
section
/-! DEFINITION. The word types of the KS-60 and its plainest identities (spec/00_scope.md section 4.4).
Bit vectors stand only where the manual counts modulo a power of two or carries a value as bits on a port. -/

namespace Sys2Proof

/-- One byte of a frame, a record slot or a code field (R192). -/
abbrev Byte := BitVec 8
/-- A two-byte field of a frame (R192). -/
abbrev Word16 := BitVec 16
/-- A value of the minute counter, 0 to 65535, counted modulo 65536 (R1). -/
abbrev Minute := BitVec 16
/-- Credential number, 0 to 16,777,215; 0 names no credential (section 4.4). -/
abbrev CredNo := BitVec 24
/-- Bike tag; 0 for no bike (section 4.4). -/
abbrev BikeTag := BitVec 32
/-- Ride number, 1 to 65535; 0 for no ride (section 4.4). -/
abbrev RideNo := BitVec 16
/-- Dock index 0 to 59: A1 to A30 are 0 to 29, B1 to B30 are 30 to 59 (section 4.2). -/
abbrev DockIx := Fin 60
/-- A dock address on its line, less one: addresses 1 to 30 are 0 to 29 (section 4.2). -/
abbrev Addr := Fin 30

/-- The two SPI target ports (R171). -/
inductive Port where
  | n | k
  deriving DecidableEq, Repr

/-- The two dock lines. -/
inductive Line where
  | a | b
  deriving DecidableEq, Repr

end Sys2Proof
end

