-- ==== Sys2Proof/Config.lean ====
section
/-! DEFINITION. Fixed figures of the part and the values the manual leaves open. An open value is an opaque
constant: nothing can be proved of it, so a statement that reaches one holds for every value. -/

namespace Sys2Proof.Config

/-- Record slots in the pool (R142). -/
abbrev slotCount : Nat := 384
/-- Credential entries the table can hold (R20). -/
abbrev credCapacity : Nat := 2048
/-- Rides the table can hold (R64). -/
abbrev rideCapacity : Nat := 256
/-- Entries the presentation queue can hold (R41). -/
abbrev queueCapacity : Nat := 24
/-- Free count below which STORE_LOW is latched (R145). -/
abbrev storeLowMark : Nat := 16
/-- Posted records the Port K list can hold (R147). -/
abbrev listKCapacity : Nat := 32
/-- Held limit of a port: 16 for Port N, 4 for Port K (R150). -/
def heldLimit : Port → Nat
  | .n => 16
  | .k => 4
/-- Consecutive failed turns that lose a link (R124). -/
abbrev lostAt : Nat := 3
/-- BUSY replies in a row that count as a failed turn (R123). -/
abbrev busyLimit : Nat := 8
/-- Relatch attempts that jam a latch (R73). -/
abbrev relatchLimit : Nat := 3
/-- Largest mismatch count of a dock (R62). -/
abbrev mismatchMax : Nat := 15
/-- Seconds in an error period (R127). -/
abbrev errorPeriod : Nat := 8
/-- Largest value of the quiet timer (R114). -/
abbrev quietTimerMax : Nat := 3600
/-- Break time and recovery time in character times (R130). -/
abbrev breakTimeChars : Nat := 96
abbrev recoveryChars : Nat := 12
/-- The fill value shifted out (R192). -/
def fill : Byte := 0x00#8
/-- The COLLECT code (R192). -/
def collectCode : Byte := 0xA5#8
/-- Multiplier of the check word (R8). -/
abbrev checkMultiplier : Nat := 40503

/-- OPEN VALUE (log 9): whether the AUTH_BURST notice of a CHECK_MISMATCH decision takes its slot before the
decision record does. R59 and R63 put both in one event and give no order between them. -/
opaque burstNoticeFirst : Bool

/-- OPEN VALUE (log 10): the bike presence that R135 compares a reply with, at a dock record that holds no tag and
whose state does not say whether a bike stands there. The arguments are whether the state is FAULTED (else it is
UNKNOWN) and the docked-since minute, the fields of the record that could tell. -/
opaque untaggedPresence : Bool → Minute → Bool

/-- OPEN VALUE (log 11): the request code answered, for a frame that ended within its first byte (R172, R192).
The argument is the bits that were received. -/
opaque partialFrameCode : List Bool → Byte

end Sys2Proof.Config
end

