-- ==== Sys2Proof/Syntax.lean ====
section
/-! DEFINITION. The commands of the KS-60: one constructor of Instr for each row of spec/opcode_table.json,
with the operands the row's rule gives. A port request carries its body fields as the frame carries them
(R192), so that every value a processor can send is an operand; an event of the part or of a line carries
the line, the ride or the reply that it is about. -/

namespace Sys2Proof

/-- The four fields of a token (section 1.3). -/
structure Token where
  cred    : CredNo
  counter : Word16
  issue   : Minute
  tag     : BitVec 32
  deriving DecidableEq, Repr

/-- A token reported in a STATUS reply, with the node's token sequence (R118). -/
structure TokenRead where
  seq   : Byte
  token : Token
  deriving DecidableEq, Repr

/-- Latch condition of a STATUS reply (R118): LOCKED, OPEN or JAMMED. -/
inductive Latch where
  | locked | unlatched | jammed
  deriving DecidableEq, Repr

/-- The fields of a STATUS reply (R118). -/
structure StatusReply where
  bike        : Bool
  tag         : BikeTag
  latch       : Latch
  readerFault : Bool
  powerLow    : Bool
  token       : Option TokenRead
  deriving DecidableEq, Repr

/-- The steps of the part (spec/opcode_table.json), each whole and indivisible. -/
inductive Instr where
  /-- Power-on or pin reset (R185); the operands say which select lines are asserted when the reset ends. -/
  | powerOnOrPinReset (selN selK : Bool)
  /-- The second tick (R1). -/
  | secondTick
  /-- The second tick that takes the second counter past 59 (R1). -/
  | minuteRollover
  /-- CLOCK SET (R3): minute and second. -/
  | clockSet (p : Port) (minute : Word16) (second : Byte)
  /-- CLASS SET (R6): class number, I, U, P, C, B, K, V, may-release-held. -/
  | classSet (p : Port) (cls incl unit : Byte) (price cap minBal : Word16) (limit : Byte) (life : Word16)
      (held : Byte)
  /-- CRED LOAD (R24): number, state, class, secret, last accepted counter, balance, overdraft limit, keep-local. -/
  | credLoad (p : Port) (cred : CredNo) (state cls : Byte) (secret : BitVec 32)
      (counter balance overdraft : Word16) (keep : Byte)
  /-- CRED STATE (R26). -/
  | credState (p : Port) (cred : CredNo) (state : Byte)
  /-- CRED BALANCE (R27): mode 0 SET or 1 ADD, signed amount. -/
  | credBalance (p : Port) (cred : CredNo) (mode : Byte) (amount : Word16)
  /-- CRED REMOVE (R30). -/
  | credRemove (p : Port) (cred : CredNo)
  /-- READ CRED (R31). -/
  | readCred (p : Port) (cred : CredNo)
  /-- SWEEP OPEN (R34). -/
  | sweepOpen (p : Port) (number : Byte)
  /-- SWEEP CLOSE (R35). -/
  | sweepClose (p : Port) (number : Byte)
  /-- The sweep idle timer reaching its limit (R38). -/
  | sweepIdleExpiry
  /-- STATION SET (R187): setting code, line code, value. -/
  | stationSet (p : Port) (setting line : Byte) (value : Word16)
  /-- KIND SET (R154): kind code, level. -/
  | kindSet (p : Port) (kind level : Byte)
  /-- DOCK FIT (R88): line code, list of addresses. -/
  | dockFit (p : Port) (line : Byte) (addrs : List Byte)
  /-- RIDE CLOSE (R82): bike tag, end minute. -/
  | rideClose (p : Port) (tag : BikeTag) (endMinute : Minute)
  /-- LINE RESTART (R133): line code. -/
  | lineRestart (p : Port) (line : Byte)
  /-- TOKEN PRESENT (R46): the token and the preferred dock, FFh for none named. -/
  | tokenPresent (p : Port) (token : Token) (preferred : Byte)
  /-- DOCK HOLD (R102): dock index. -/
  | dockHold (p : Port) (dock : Byte)
  /-- DOCK FREE (R103): dock index. -/
  | dockFree (p : Port) (dock : Byte)
  /-- READ DOCK (R104): dock index. -/
  | readDock (p : Port) (dock : Byte)
  /-- RIDE CANCEL (R77): ride number. -/
  | rideCancel (p : Port) (ride : RideNo)
  /-- READ RIDE (R85): selector 0 ride number or 1 bike tag, and the value. -/
  | readRide (p : Port) (selector : Byte) (value : BitVec 32)
  /-- TAKE (R150). -/
  | take (p : Port)
  /-- GIVE BACK (R151): slot number. -/
  | giveBack (p : Port) (slot : Word16)
  /-- READ STATION (R178). -/
  | readStation (p : Port)
  /-- MASK SET (R181): event set. -/
  | maskSet (p : Port) (events : Byte)
  /-- MASK CLEAR (R181): event set. -/
  | maskClear (p : Port) (events : Byte)
  /-- EVENT CLEAR (R180): event set. -/
  | eventClear (p : Port) (events : Byte)
  /-- PORT CLEAR (R183). -/
  | portClear (p : Port)
  /-- COLLECT (R175): how many whole bytes the processor shifts after the COLLECT code. -/
  | collect (p : Port) (bytes : Nat)
  /-- A request frame refused BAD_FRAME (R173): its whole bytes, and the bits of a last partial byte. -/
  | badFrame (p : Port) (bytes : List Byte) (tail : List Bool)
  /-- AU decides the head of the presentation queue (R48). -/
  | admissionDecision
  /-- The queue wait limit of the QUEUED ride of this number expires (R112). -/
  | queueWaitExpiry (ride : RideNo)
  /-- The take-up window of the RELEASING ride of this number expires (R71). -/
  | takeUpWindowExpiry (ride : RideNo)
  /-- A turn starts at the polling position (R120). -/
  | turnStart (l : Line)
  /-- The last character of the command frame has been sent (R120). -/
  | commandDelivered (l : Line)
  /-- A good STATUS reply from the dock whose turn it is (R122). -/
  | statusReply (l : Line) (r : StatusReply)
  /-- A good BUSY reply from the dock whose turn it is (R123). -/
  | busyReply (l : Line)
  /-- A reply received whole and judged bad (R121): its marked character and the characters after it. -/
  | badReply (l : Line) (marked : Byte) (rest : List Byte)
  /-- A gap of more than 2 character times within a reply (R121). -/
  | replyGapTimeout (l : Line)
  /-- The reply window expires with no marked character (R121). -/
  | replyWindowExpiry (l : Line)
  /-- The eighth second tick of an error period (R127). -/
  | errorPeriodBoundary (l : Line)
  /-- 96 character times at the break level have passed (R130). -/
  | breakTimeEnd (l : Line)
  /-- The recovery time has passed (R131). -/
  | recoveryEnd (l : Line)
  /-- The quiet timer has reached the quiet delay (R135). -/
  | quietEntry (l : Line)
  /-- The quiet interval has expired (R136). -/
  | quietIntervalExpiry (l : Line)
  /-- A WAKE character is received (R137). -/
  | wake (l : Line)
  /-- A marked character is received (R121): its value. -/
  | replyStart (l : Line) (marked : Byte)
  /-- A port's select line is asserted (R172). -/
  | transactionStart (p : Port)
  /-- A port's select line is released with no byte shifted (R172). -/
  | emptyTransactionEnd (p : Port)
  deriving DecidableEq, Repr

end Sys2Proof
end

