-- ==== Sys2Proof/Machine/State.lean ====
section
/-! DEFINITION. The state of the KS-60 as plain data, and the state right after power-on or pin reset. Each field
cites the rule that names it; INVENTORY.md lists them with their reset values. -/

namespace Sys2Proof.Machine

/-! ## Class table and credential table -/

/-- One class record, with the reset values of R5. -/
structure ClassRec where
  incl     : Nat := 0
  unit     : Nat := 1
  price    : Nat := 0
  cap      : Nat := 0
  minBal   : Int := 0
  limit    : Nat := 1
  life     : Nat := 10
  mayHeld  : Bool := false
  deriving DecidableEq, Repr

/-- State of a credential entry (R21). -/
inductive CredState where
  | active | suspended | revoked | lapsed
  deriving DecidableEq, Repr

/-- A credential entry (R20). -/
structure Cred where
  number    : CredNo
  state     : CredState
  cls       : Fin 4
  secret    : BitVec 32
  counter   : Word16
  balance   : Int
  overdraft : Nat
  openRides : Nat
  mark      : Byte
  deriving DecidableEq, Repr

/-- A running timer that counts second ticks toward a limit fixed at its start (R2). -/
structure Timer where
  elapsed : Nat
  limit   : Nat
  deriving DecidableEq, Repr

/-- The sweep state (R32). -/
structure Sweep where
  openNo     : Byte := 0#8
  lastClosed : Byte := 0#8
  idle       : Option Timer := none
  deriving DecidableEq, Repr

/-! ## Presentations -/

/-- Where a presentation came from: a dock with the node sequence, or the kiosk with its preferred dock (R41). -/
inductive Origin where
  | dock (d : DockIx) (seq : Byte)
  | kiosk (preferred : Option DockIx)
  deriving DecidableEq, Repr

/-- An entry of the presentation queue (R41). -/
structure Presentation where
  origin : Origin
  token  : Token
  deriving DecidableEq, Repr

/-- The reason of a decision (R48, R163), in the order of section 12.4. -/
inductive Reason where
  | admitted | clockUnset | unknownCredential | checkMismatch | counterStale | counterFar | tokenExpired | tokenEarly
  | suspended | revoked | lapsed | noBike | dockBusy | dockHeld | dockFaulted | noDockFree | rideLimit | balanceLow
  | storeFull
  deriving DecidableEq, Repr

/-! ## Rides -/

/-- Ride states (R64): QUEUED, RELEASING, RELATCHING, OPEN. -/
inductive RideState where
  | queued | releasing | relatching | opened
  deriving DecidableEq, Repr

/-- Ride source (R57). -/
inductive RideSource where
  | dock | kiosk
  deriving DecidableEq, Repr

/-- How far OPEN has come for a QUEUED ride: the acknowledgement of R68 needs an OPEN delivered for this ride. -/
inductive OpenProgress where
  /-- no turn has carried OPEN for this ride and delivered it -/
  | notSent
  /-- the turn in flight carries OPEN for this ride -/
  | inFlight
  /-- a turn delivered OPEN for this ride (R120) -/
  | delivered
  deriving DecidableEq, Repr

/-- A ride record (R64). waitLeft and windowLeft are the seconds left of the two windows of R112 and R68. -/
structure Ride where
  number     : RideNo
  cred       : CredNo
  cls        : Fin 4
  dock       : DockIx
  tag        : BikeTag
  state      : RideState
  admMinute  : Minute
  admSecond  : Fin 60
  release    : Option Minute
  takeUp     : Option Minute
  late       : Bool
  slot       : Nat
  source     : RideSource
  waitLeft   : Option Nat
  windowLeft : Option Nat
  progress   : OpenProgress
  deriving DecidableEq, Repr

/-- An entry of the release queue (R105). -/
structure QEntry where
  dock    : DockIx
  ride    : RideNo
  granted : Bool
  deriving DecidableEq, Repr

/-! ## Docks -/

/-- Fault reason (R86). -/
inductive FaultReason where
  | jammed | reader
  deriving DecidableEq, Repr

/-- Dock states (R86); the fault reason is present exactly when the state is FAULTED, so it is part of it. -/
inductive DockState where
  | unfitted | unknown | empty | docked | queued | releasing | relatching
  | faulted (reason : FaultReason)
  deriving DecidableEq, Repr

/-- Link status (R87). -/
inductive Link where
  | unknown | online | lost
  deriving DecidableEq, Repr

/-- Origin of a hold (R86). -/
inductive HoldOrigin where
  | n | k | auto
  deriving DecidableEq, Repr

/-- SHOW indication codes (R60). -/
inductive ShowCode where
  | accept | wait | refuse
  deriving DecidableEq, Repr

/-- Pending command of a dock (R86). A turn whose dock has none carries POLL (R120). -/
inductive Pending where
  | none
  | openCmd
  | closeCmd
  | showCmd (code : ShowCode) (seq : Byte)
  deriving DecidableEq, Repr

/-- A dock record, with the reset values of R86. A dock is fitted exactly when its state is not UNFITTED. -/
structure Dock where
  state    : DockState := .unfitted
  link     : Link := .unknown
  tag      : BikeTag := 0#32
  since    : Minute := 0#16
  hold     : Option HoldOrigin := none
  pending  : Pending := .none
  failed   : Nat := 0
  busy     : Nat := 0
  ack      : Byte := 0#8
  relatch  : Nat := 0
  mismatch : Nat := 0
  powerLow : Bool := false
  deriving DecidableEq, Repr

/-! ## Dock lines -/

/-- Line states (R115). -/
inductive LineState where
  | disabled | brk | running | quiet
  deriving DecidableEq, Repr

/-- Line rates (R114), in bit/s. -/
inductive Rate where
  | r19200 | r38400 | r57600 | r115200
  deriving DecidableEq, Repr

/-- Break causes (R130). -/
inductive BreakCause where
  | fit | request | errors | rate
  deriving DecidableEq, Repr

/-- Progress of a turn: frame being sent, reply window open, or a reply begun with this marked character (R121). -/
inductive TurnPhase where
  | sending
  | awaiting
  | receiving (marked : Byte)
  deriving DecidableEq, Repr

/-- The turn in flight (R114, R120): dock address, command fixed at the start (none is sent as POLL), the
acknowledgement the frame carries, and the reply window in force at the start. -/
structure Turn where
  addr   : Addr
  cmd    : Pending
  ack    : Byte
  window : Nat
  phase  : TurnPhase
  deriving DecidableEq, Repr

/-- Break timer (R114): stopped, measuring the break time, or measuring the recovery time (R130). -/
inductive BreakTimer where
  | stopped | breakTime | recovery
  deriving DecidableEq, Repr

/-- A line controller, with the reset values of R114. quietDue and roundOwed are the model's own: a tick has
brought the quiet timer to the delay (R135); a quiet interval expired during a round (R136). -/
structure LineCtl where
  state         : LineState := .disabled
  rate          : Rate := .r38400
  roundOn       : Bool := false
  pos           : Option Addr := none
  turn          : Option Turn := none
  errors        : Nat := 0
  errTimer      : Option Nat := none
  quietTimer    : Nat := 0
  quietInterval : Option Timer := none
  breakTimer    : BreakTimer := .stopped
  breakCause    : Option BreakCause := none
  quietDue      : Bool := false
  roundOwed     : Bool := false
  deriving DecidableEq, Repr

/-! ## Records (chapter 9) -/

/-- The sixteen kinds of record posted to Port N, in the order of R153. -/
inductive Kind where
  | nodeLost | nodeBack | latchJam | unauthRemoval | rideStarted | authBurst | lineDegraded | lineRestarted
  | sweepDone | sweepAbandoned | readerFault | nodePowerLow
  | closedHere | closedRemote | agedOut | foreignReturn
  deriving DecidableEq, Repr

/-- Subject of a notice (R165). -/
inductive Subject where
  | dock (d : DockIx)
  | line (l : Line)
  | none
  deriving DecidableEq, Repr

/-- Ride effect of NODE_LOST (R166). -/
inductive RideEffect where
  | cancelled | toRelatching | unchanged
  deriving DecidableEq, Repr

/-- Reply kind of NODE_BACK (R166). -/
inductive ReplyKind where
  | status | busy
  deriving DecidableEq, Repr

/-- Cause of LATCH_JAM (R167). -/
inductive JamCause where
  | node | relatch
  deriving DecidableEq, Repr

/-- Cause of an abandoned sweep (R37). -/
inductive AbandonCause where
  | idle | reopen | portClear
  deriving DecidableEq, Repr

/-- Kind-specific fields of each notice kind (R166 to R170). -/
inductive NoticeBody where
  | nodeLost (ride : Option (RideNo × RideEffect))
  | nodeBack (reply : ReplyKind)
  | latchJam (tag : BikeTag) (cause : JamCause) (ride : Option RideNo)
  | unauthRemoval (tag : BikeTag) (ride : Option RideNo)
  | rideStarted (ride : RideNo) (cred : CredNo) (late : Bool)
  | authBurst (count : Nat) (cred : CredNo) (origin : Option HoldOrigin)
  | lineDegraded (errors threshold : Nat)
  | lineRestarted (cause : Option BreakCause) (rate : Rate)
  | sweepDone (number : Byte) (kept lapsed deleted : Nat)
  | sweepAbandoned (number : Byte) (cause : AbandonCause) (newNo : Option Byte)
  | readerFault (tag : BikeTag)
  | nodePowerLow
  deriving DecidableEq, Repr

/-- A trip record (R159); an absent field is none. -/
structure Trip where
  ride      : Option RideNo
  cred      : CredNo
  tag       : BikeTag
  releaseAt : Option DockIx
  returnAt  : Option DockIx
  release   : Option Minute
  endMinute : Minute
  duration  : Option Nat
  charge    : Nat
  shortfall : Nat
  balance   : Option Int
  clockStep : Bool
  capped    : Bool
  late      : Bool
  quick     : Bool
  deriving DecidableEq, Repr

/-- The trip record kinds (R158). -/
inductive TripKind where
  | closedHere | closedRemote | agedOut | foreignReturn
  deriving DecidableEq, Repr

/-- Outcomes of an outcome record (R164). -/
inductive RideOutcome where
  | taken | notTaken | queueTimeout | cancelledPort | cancelledCredential | latchFault | dockLost
  deriving DecidableEq, Repr

/-- Contents of a record (R158). -/
inductive Body where
  | trip (kind : TripKind) (t : Trip)
  | notice (subject : Subject) (minute : Minute) (second : Fin 60) (b : NoticeBody)
  | decision (source : Option DockIx) (cred : CredNo) (reason : Reason) (ride : Option RideNo)
      (dock : Option DockIx)
  | outcome (ride : RideNo) (cred : CredNo) (dock : DockIx) (o : RideOutcome)
  deriving DecidableEq, Repr

/-- A record in a slot (R158): a Port N record has a level 1 to 3 and the clock-set flag, a Port K record has
neither (level 0, flag clear). -/
structure Record where
  level    : Nat
  clockSet : Bool
  body     : Body
  deriving DecidableEq, Repr

/-- A slot that is posted or held, with the record in it (R142). -/
structure Posted where
  slot   : Nat
  record : Record
  deriving DecidableEq, Repr

/-! ## Ports -/

/-- Status codes (R176). -/
inductive Status where
  | ok | clamped | noResponse | wrongPort | badFrame | badValue | notFound | full | holdOff | limit | badState | empty
  deriving DecidableEq, Repr

/-- What READ CRED returns: every field of the entry except the secret (R31). -/
structure CredReport where
  number    : CredNo
  state     : CredState
  cls       : Fin 4
  counter   : Word16
  balance   : Int
  overdraft : Nat
  openRides : Nat
  mark      : Byte
  deriving DecidableEq, Repr

/-- What READ STATION returns (R178). -/
structure StationReport where
  minute     : Minute
  second     : Fin 60
  clockSet   : Bool
  freeCount  : Nat
  rides      : Nat
  creds      : Nat
  queued     : Nat
  holdOff    : Bool
  releaseQ   : Nat
  grantedQ   : Nat
  grants     : Nat
  budget     : Nat
  lineA      : LineState
  lineB      : LineState
  openSweep  : Byte
  lastClosed : Byte
  posted     : Nat
  held       : Nat
  deriving DecidableEq, Repr

/-- Fields of a response (R174), as the rule of each request gives them. -/
inductive Fields where
  | none
  | cred (r : CredReport)
  | sweepCounts (kept lapsed deleted : Nat)
  | setting (name : Byte) (line : Option Line) (value : Nat) (low : Option Nat)
  | level (l : Nat)
  | rideClosed (ride : RideNo) (charge shortfall : Nat) (balance : Int)
  | dock (d : Dock) (ride : Option RideNo) (grant : Bool)
  | ride (r : Ride)
  | taken (slot : Nat) (record : Record)
  | station (r : StationReport)
  | events (present : Byte)
  | eventMasks (present masks : Byte)
  deriving DecidableEq, Repr

/-- A response: the request code answered, as received, the status and the fields (R174, R192). -/
structure Response where
  code   : Byte
  status : Status
  fields : Fields
  deriving DecidableEq, Repr

/-- Transaction in progress of a port (R171, R172). -/
inductive Transaction where
  /-- select released: no transaction -/
  | idle
  /-- select was found asserted at the end of a reset: no transaction until it is released (R185) -/
  | ignored
  /-- a transaction began while these events were present and masked (R175) -/
  | started (present masks : Byte)
  deriving DecidableEq, Repr

/-- A port (R171). Event sets use the bit map of R192. dataOut is the model's record of the data-out pin: the
bytes shifted out in the port's last ended transaction, or none yet in the one in progress. -/
structure PortState where
  held    : Option Response := none
  latched : Byte := 0#8
  masks   : Byte
  taken   : List Posted := []
  trans   : Transaction := .idle
  dataOut : List Byte := []
  deriving DecidableEq, Repr

/-! ## Settings -/

/-- The station settings, with the reset values of R186. -/
structure Settings where
  lookAhead     : Nat := 64
  skew          : Nat := 2
  takeUpWindow  : Nat := 20
  waitLimit     : Nat := 45
  budget        : Nat := 4
  high          : Nat := 16
  low           : Nat := 8
  idleLimit     : Nat := 600
  burst         : Nat := 5
  quietA        : Bool := false
  quietB        : Bool := false
  quietDelay    : Nat := 300
  quietInterval : Nat := 2
  replyWindow   : Nat := 6
  errThreshold  : Nat := 12
  rateA         : Rate := .r38400
  rateB         : Rate := .r38400
  deriving DecidableEq, Repr

/-! ## The state -/

/-- The state of the part, and the queue of the commands that wait. -/
structure State where
  /-- minute counter (R1) -/
  minute   : Minute
  /-- second counter, 0 to 59 (R1) -/
  second   : Fin 60
  /-- clock-set flag (R4) -/
  clockSet : Bool
  /-- class table (R5) -/
  classes  : Vector ClassRec 4
  /-- credential entries, in ascending order of number (R20) -/
  creds    : List Cred
  /-- sweep state (R32) -/
  sweep    : Sweep
  /-- presentation queue, head first (R41) -/
  queue    : List Presentation
  /-- hold-off (R43) -/
  holdOff  : Bool
  /-- ride records, in ascending order of ride number (R64) -/
  rides    : List Ride
  /-- ride number counter, 1 to 65535 (R65) -/
  nextRide : RideNo
  /-- dock records (R86) -/
  docks    : Vector Dock 60
  /-- release queue, oldest first (R105) -/
  releaseQ : List QEntry
  /-- grant set: docks that hold a grant (R107), each once -/
  grants   : List DockIx
  /-- line controllers (R114) -/
  lineA    : LineCtl
  lineB    : LineCtl
  /-- free list of slot numbers, head first (R144) -/
  free     : List Nat
  /-- Port N post list, head first (R146) -/
  listN    : List Posted
  /-- Port K post list, head first (R147) -/
  listK    : List Posted
  /-- notice kind table: the level of each kind in the order of R153 -/
  levels   : Vector (Fin 4) 16
  /-- station settings (R186) -/
  settings : Settings
  /-- ports (R171) -/
  portN    : PortState
  portK    : PortState
  /-- the commands that wait, first in first out; the model's own -/
  pending  : List Instr
  deriving DecidableEq, Repr

/-- Levels of the notice kind table after reset, in the order of Kind (R153). -/
def resetLevels : Vector (Fin 4) 16 :=
  #v[2, 1, 3, 3, 1, 2, 2, 1, 1, 2, 2, 1, 1, 1, 1, 1]

/-- The part right after power-on or pin reset (R185 and the rule cited at each field). -/
def State.reset : State where
  minute   := 0#16
  second   := 0
  clockSet := false
  classes  := Vector.replicate 4 {}
  creds    := []
  sweep    := {}
  queue    := []
  holdOff  := false
  rides    := []
  nextRide := 1#16
  docks    := Vector.replicate 60 {}
  releaseQ := []
  grants   := []
  lineA    := {}
  lineB    := {}
  free     := List.range Config.slotCount
  listN    := []
  listK    := []
  levels   := resetLevels
  settings := {}
  portN    := { masks := 0x3F#8 }
  portK    := { masks := 0x0F#8 }
  pending  := []

/-! ## Reasons a step can stop -/

/-- Faults. The manual names no condition that stops the part, so no meaning raises one and the type is empty. -/
inductive Fault where
  deriving DecidableEq, Repr

/-- Refusals. -/
inductive Refusal where
  /-- Raised by exec's own arm for a command that has no meaning yet; safe, since the model then stops. No arm
  raises it now. -/
  | notModelled (mnemonic : String)
  deriving DecidableEq, Repr

/-- The outcome of a step of this machine. -/
abbrev Outcome := Host.Outcome State Fault Refusal

end Sys2Proof.Machine
end

