-- ==== Sys2Proof/Machine/Ops.lean ====
section
/-! DEFINITION. Named operations over the tables of the part: docks, lines, ports, credentials and rides. Every
meaning reads and writes the state through these. -/

namespace Sys2Proof.Machine

/-! ## Docks and their indices (section 4.2) -/

/-- The line of a dock index. -/
def lineOf (d : DockIx) : Line := if d.val < 30 then .a else .b

/-- The address of a dock index on its line, less one. -/
def addrOf (d : DockIx) : Addr := ⟨d.val % 30, Nat.mod_lt _ (by decide)⟩

/-- The dock index of an address of a line. -/
def dockIx (l : Line) (a : Addr) : DockIx :=
  match l with
  | .a => ⟨a.val, Nat.lt_trans a.isLt (by decide)⟩
  | .b => ⟨a.val + 30, by have := a.isLt; omega⟩

def State.dock (s : State) (d : DockIx) : Dock := s.docks.get d

def State.setDock (s : State) (d : DockIx) (x : Dock) : State := { s with docks := s.docks.set d.val x d.isLt }

/-- Change one dock record. -/
def State.updDock (s : State) (d : DockIx) (f : Dock → Dock) : State := s.setDock d (f (s.dock d))

/-- Change every dock record. -/
def State.mapDocks (s : State) (f : DockIx → Dock → Dock) : State :=
  { s with docks := Vector.ofFn (fun d => f d (s.docks.get d)) }

/-- A dock is fitted exactly when its state is not UNFITTED (R86). -/
def State.fitted (s : State) (d : DockIx) : Bool := decide ((s.dock d).state ≠ .unfitted)

/-! ## Lines -/

def State.line (s : State) : Line → LineCtl
  | .a => s.lineA
  | .b => s.lineB

def State.setLine (s : State) (l : Line) (c : LineCtl) : State :=
  match l with
  | .a => { s with lineA := c }
  | .b => { s with lineB := c }

/-- Change one line controller. -/
def State.updLine (s : State) (l : Line) (f : LineCtl → LineCtl) : State := s.setLine l (f (s.line l))

/-- The rate setting of a line (R186). -/
def Settings.rate (t : Settings) : Line → Rate
  | .a => t.rateA
  | .b => t.rateB

/-- The quiet enable setting of a line (R186). -/
def Settings.quiet (t : Settings) : Line → Bool
  | .a => t.quietA
  | .b => t.quietB

/-! ## Ports -/

def State.port (s : State) : Port → PortState
  | .n => s.portN
  | .k => s.portK

def State.setPort (s : State) (p : Port) (x : PortState) : State :=
  match p with
  | .n => { s with portN := x }
  | .k => { s with portK := x }

/-- Change one port's items. -/
def State.updPort (s : State) (p : Port) (f : PortState → PortState) : State := s.setPort p (f (s.port p))

/-- A port's post list. -/
def State.postList (s : State) : Port → List Posted
  | .n => s.listN
  | .k => s.listK

/-! ## Credential entries (R20): kept in ascending order of number -/

/-- Insert an entry in order, replacing the entry of the same number. -/
def insertCred (e : Cred) : List Cred → List Cred
  | [] => [e]
  | x :: xs =>
    if e.number < x.number then e :: x :: xs
    else if e.number = x.number then e :: xs
    else x :: insertCred e xs

def State.findCred (s : State) (c : CredNo) : Option Cred := s.creds.find? (fun e => decide (e.number = c))

def State.putCred (s : State) (e : Cred) : State := { s with creds := insertCred e s.creds }

def State.dropCred (s : State) (c : CredNo) : State :=
  { s with creds := s.creds.filter (fun e => decide (e.number ≠ c)) }

/-- Change the entry of a number, if there is one. -/
def State.updCred (s : State) (c : CredNo) (f : Cred → Cred) : State :=
  { s with creds := s.creds.map (fun e => if e.number = c then f e else e) }

/-- The class record named by an entry (R7). -/
def State.classOf (s : State) (e : Cred) : ClassRec := s.classes.get e.cls

/-! ## Rides (R64): kept in ascending order of number -/

/-- Insert a ride in order, replacing the ride of the same number. -/
def insertRide (r : Ride) : List Ride → List Ride
  | [] => [r]
  | x :: xs =>
    if r.number < x.number then r :: x :: xs
    else if r.number = x.number then r :: xs
    else x :: insertRide r xs

def State.findRide (s : State) (n : RideNo) : Option Ride := s.rides.find? (fun r => decide (r.number = n))

/-- The ride that holds a bike tag (R64). -/
def State.rideOfTag (s : State) (t : BikeTag) : Option Ride := s.rides.find? (fun r => decide (r.tag = t))

/-- Is the tag the bike tag of a ride (R52)? -/
def State.tagInRide (s : State) (t : BikeTag) : Bool := (s.rideOfTag t).isSome

/-- The ride in QUEUED, RELEASING or RELATCHING that names a dock (R66). -/
def State.rideAt (s : State) (d : DockIx) : Option Ride :=
  s.rides.find? (fun r => decide (r.dock = d ∧ r.state ≠ .opened))

def State.putRide (s : State) (r : Ride) : State := { s with rides := insertRide r s.rides }

def State.dropRide (s : State) (n : RideNo) : State :=
  { s with rides := s.rides.filter (fun r => decide (r.number ≠ n)) }

/-- Change the ride of a number, if there is one. -/
def State.updRide (s : State) (n : RideNo) (f : Ride → Ride) : State :=
  { s with rides := s.rides.map (fun r => if r.number = n then f r else r) }

/-! ## Release queue and grant set -/

/-- Take a dock's entry out of the release queue (R105). -/
def State.leaveQueue (s : State) (d : DockIx) : State :=
  { s with releaseQ := s.releaseQ.filter (fun e => decide (e.dock ≠ d)) }

/-- Does a dock hold a grant (R107)? -/
def State.granted (s : State) (d : DockIx) : Bool := s.grants.contains d

/-! ## Signed fields -/

/-- The value of a signed 16-bit field (R192). -/
def signed (x : Word16) : Int := x.toInt

/-- The nearest value to x in lo to hi (section 4.6). -/
def clampNat (lo hi x : Nat) : Nat := max lo (min hi x)

/-- A balance clamped into −D to 32767 (R20). -/
def clampBalance (overdraft : Nat) (b : Int) : Int := max (-(overdraft : Int)) (min 32767 b)

end Sys2Proof.Machine
end

