-- ==== Sys2Proof/Machine/Flags.lean ====
section
/-! DEFINITION. The event flags of the two ports: live events, latched events, masks, attention lines (R179 to
R182), and the event wrapper that latches STORE_LOW after a whole event (R145). -/

namespace Sys2Proof.Machine

/-! ## The bit map of R192 -/

def evList : Byte := 0x01#8
/-- CLOCK on Port N. -/
def evClock : Byte := 0x02#8
/-- HOLDOFF on Port K. -/
def evHoldOff : Byte := 0x02#8
def evStoreLow : Byte := 0x04#8
def evOverflow : Byte := 0x08#8
/-- LINE, Port N only. -/
def evLine : Byte := 0x10#8
/-- SWEEP, Port N only. -/
def evSweep : Byte := 0x20#8

/-- The events a port has (R192). -/
def portEvents : Port → Byte
  | .n => 0x3F#8
  | .k => 0x0F#8

/-- An event set names only events of the port (R180, R181, R192). -/
def eventsOk (p : Port) (e : Byte) : Bool := decide (e &&& ~~~(portEvents p) = 0#8)

/-- The live events present at a port (R179). -/
def State.live (s : State) : Port → Byte
  | .n => (if s.listN = [] then 0#8 else evList) ||| (if s.clockSet then 0#8 else evClock)
  | .k => (if s.listK = [] then 0#8 else evList) ||| (if s.holdOff then evHoldOff else 0#8)

/-- The events present at a port: live and latched. -/
def State.present (s : State) (p : Port) : Byte := s.live p ||| (s.port p).latched

/-- Is a port's attention line asserted (R182)? It is driven low while it is (R195). -/
def State.attention (s : State) (p : Port) : Bool :=
  decide (s.present p &&& ~~~(s.port p).masks ≠ 0#8)

/-- Latch an event on a port (R180). -/
def State.latch (s : State) (p : Port) (e : Byte) : State :=
  s.updPort p (fun x => { x with latched := x.latched ||| e })

/-- STORE_LOW is latched on both ports by an event that leaves the free count below 16 when it was 16 or more
before the event (R145). -/
def latchStoreLow (before : Nat) (s : State) : State :=
  if Config.storeLowMark ≤ before ∧ s.free.length < Config.storeLowMark then
    (s.latch .n evStoreLow).latch .k evStoreLow
  else s

/-- One event of the part: its change of the state, then STORE_LOW by the free count before and after it. -/
def event (f : State → State) (s : State) : Outcome := .next (latchStoreLow s.free.length (f s))

end Sys2Proof.Machine
end

