-- ==== Sys2Proof/Machine/Operands.lean ====
section
/-! DEFINITION. The codes of section 12.4: how a byte of a request names a state, line, setting, kind or dock, and
how a response or a record spells one. -/

namespace Sys2Proof.Machine

def CredState.code : CredState → Byte
  | .active => 0#8 | .suspended => 1#8 | .revoked => 2#8 | .lapsed => 3#8

/-- A credential state a request may set: LAPSED cannot be set directly (R24, R26). -/
def settableState (b : Byte) : Option CredState :=
  if b = 0#8 then some .active else if b = 1#8 then some .suspended else if b = 2#8 then some .revoked else none

/-- A class number (R6, R24). -/
def classOfCode (b : Byte) : Option (Fin 4) := if h : b.toNat < 4 then some ⟨b.toNat, h⟩ else none

def lineOfCode (b : Byte) : Option Line := if b = 0#8 then some .a else if b = 1#8 then some .b else none

def lineCode : Line → Byte
  | .a => 0#8 | .b => 1#8

/-- A dock index (R46, R102 to R104). -/
def dockOfCode (b : Byte) : Option DockIx := if h : b.toNat < 60 then some ⟨b.toNat, h⟩ else none

/-- A dock address 1 to 30 (R88). -/
def addrOfCode (b : Byte) : Option Addr :=
  if h : 1 ≤ b.toNat ∧ b.toNat ≤ 30 then some ⟨b.toNat - 1, by omega⟩ else none

def rateOfCode (x : Nat) : Option Rate :=
  match x with
  | 0 => some .r19200 | 1 => some .r38400 | 2 => some .r57600 | 3 => some .r115200 | _ => none

def Rate.code : Rate → Nat
  | .r19200 => 0 | .r38400 => 1 | .r57600 => 2 | .r115200 => 3

/-- The settings of R186 that hold a number: all but quiet enable and line rate. -/
inductive NumSetting where
  | lookAhead | skew | takeUpWindow | waitLimit | budget | high | low | idleLimit | burst | quietDelay
  | quietInterval | replyWindow | errThreshold
  deriving DecidableEq, Repr

/-- The settings of R186. -/
inductive Setting where
  | num (n : NumSetting)
  | quietEnable
  | lineRate
  deriving DecidableEq, Repr

def settingOfCode (b : Byte) : Option Setting :=
  match b.toNat with
  | 0 => some (.num .lookAhead) | 1 => some (.num .skew) | 2 => some (.num .takeUpWindow)
  | 3 => some (.num .waitLimit) | 4 => some (.num .budget) | 5 => some (.num .high) | 6 => some (.num .low)
  | 7 => some (.num .idleLimit) | 8 => some (.num .burst) | 9 => some .quietEnable | 10 => some (.num .quietDelay)
  | 11 => some (.num .quietInterval) | 12 => some (.num .replyWindow) | 13 => some (.num .errThreshold)
  | 14 => some .lineRate
  | _ => none

/-- The range of a numeric setting (R186); the low mark's upper limit follows the high mark in force (R188). -/
def NumSetting.range (t : Settings) : NumSetting → Nat × Nat
  | .lookAhead => (1, 4096) | .skew => (0, 15) | .takeUpWindow => (5, 60) | .waitLimit => (10, 180)
  | .budget => (1, 8) | .high => (4, 23) | .low => (0, t.high - 1) | .idleLimit => (60, 3600) | .burst => (2, 15)
  | .quietDelay => (60, 3600) | .quietInterval => (1, 10) | .replyWindow => (4, 32) | .errThreshold => (4, 64)

def Settings.getNum (t : Settings) : NumSetting → Nat
  | .lookAhead => t.lookAhead | .skew => t.skew | .takeUpWindow => t.takeUpWindow | .waitLimit => t.waitLimit
  | .budget => t.budget | .high => t.high | .low => t.low | .idleLimit => t.idleLimit | .burst => t.burst
  | .quietDelay => t.quietDelay | .quietInterval => t.quietInterval | .replyWindow => t.replyWindow
  | .errThreshold => t.errThreshold

def Settings.setNum (t : Settings) (n : NumSetting) (x : Nat) : Settings :=
  match n with
  | .lookAhead => { t with lookAhead := x } | .skew => { t with skew := x }
  | .takeUpWindow => { t with takeUpWindow := x } | .waitLimit => { t with waitLimit := x }
  | .budget => { t with budget := x } | .high => { t with high := x } | .low => { t with low := x }
  | .idleLimit => { t with idleLimit := x } | .burst => { t with burst := x }
  | .quietDelay => { t with quietDelay := x } | .quietInterval => { t with quietInterval := x }
  | .replyWindow => { t with replyWindow := x } | .errThreshold => { t with errThreshold := x }

def Settings.setRate (t : Settings) (l : Line) (r : Rate) : Settings :=
  match l with
  | .a => { t with rateA := r }
  | .b => { t with rateB := r }

def Settings.setQuiet (t : Settings) (l : Line) (q : Bool) : Settings :=
  match l with
  | .a => { t with quietA := q }
  | .b => { t with quietB := q }

/-! ## Record kinds -/

/-- Place of a kind in the notice kind table (R153). -/
def Kind.ix : Kind → Fin 16
  | .nodeLost => 0 | .nodeBack => 1 | .latchJam => 2 | .unauthRemoval => 3 | .rideStarted => 4 | .authBurst => 5
  | .lineDegraded => 6 | .lineRestarted => 7 | .sweepDone => 8 | .sweepAbandoned => 9 | .readerFault => 10
  | .nodePowerLow => 11 | .closedHere => 12 | .closedRemote => 13 | .agedOut => 14 | .foreignReturn => 15

/-- Record kind codes (section 12.4). -/
def Kind.code : Kind → Byte
  | .nodeLost => 0x01#8 | .nodeBack => 0x02#8 | .latchJam => 0x03#8 | .unauthRemoval => 0x04#8
  | .rideStarted => 0x05#8 | .authBurst => 0x06#8 | .lineDegraded => 0x07#8 | .lineRestarted => 0x08#8
  | .sweepDone => 0x09#8 | .sweepAbandoned => 0x0A#8 | .readerFault => 0x0B#8 | .nodePowerLow => 0x0C#8
  | .closedHere => 0x10#8 | .closedRemote => 0x11#8 | .agedOut => 0x12#8 | .foreignReturn => 0x13#8

/-- The sixteen kinds, in the order of R153. -/
def Kind.all : List Kind :=
  [.nodeLost, .nodeBack, .latchJam, .unauthRemoval, .rideStarted, .authBurst, .lineDegraded, .lineRestarted,
   .sweepDone, .sweepAbandoned, .readerFault, .nodePowerLow, .closedHere, .closedRemote, .agedOut, .foreignReturn]

def kindOfCode (b : Byte) : Option Kind := Kind.all.find? (fun k => decide (k.code = b))

/-- The trip record kinds have levels 1 to 3, the notice kinds 0 to 3 (R153). -/
def Kind.isTrip : Kind → Bool
  | .closedHere | .closedRemote | .agedOut | .foreignReturn => true
  | .nodeLost | .nodeBack | .latchJam | .unauthRemoval | .rideStarted | .authBurst | .lineDegraded
  | .lineRestarted | .sweepDone | .sweepAbandoned | .readerFault | .nodePowerLow => false

/-- Kinds suppressed by an earlier notice of the same dock or line (R153, R156). -/
def Kind.tied : Kind → Bool
  | .nodeLost | .nodeBack | .latchJam | .unauthRemoval | .authBurst | .readerFault | .nodePowerLow
  | .lineDegraded | .lineRestarted => true
  | .rideStarted | .sweepDone | .sweepAbandoned | .closedHere | .closedRemote | .agedOut | .foreignReturn => false

def NoticeBody.kind : NoticeBody → Kind
  | .nodeLost _ => .nodeLost | .nodeBack _ => .nodeBack | .latchJam _ _ _ => .latchJam
  | .unauthRemoval _ _ => .unauthRemoval | .rideStarted _ _ _ => .rideStarted | .authBurst _ _ _ => .authBurst
  | .lineDegraded _ _ => .lineDegraded | .lineRestarted _ _ => .lineRestarted | .sweepDone _ _ _ _ => .sweepDone
  | .sweepAbandoned _ _ _ => .sweepAbandoned | .readerFault _ => .readerFault | .nodePowerLow => .nodePowerLow

def TripKind.kind : TripKind → Kind
  | .closedHere => .closedHere | .closedRemote => .closedRemote | .agedOut => .agedOut
  | .foreignReturn => .foreignReturn

/-- The hold origin of a port (R102). -/
def holdOrigin : Port → HoldOrigin
  | .n => .n
  | .k => .k

end Sys2Proof.Machine
end

