-- ==== Sys2Proof/Machine/Pool.lean ====
section
/-! DEFINITION. The record pool (chapter 8): the free list, the two post lists, posting of Port K records, notices
and trip records, and un-taking. -/

namespace Sys2Proof.Machine

/-- A slot joins the tail of the free list (R144). -/
def State.freeSlot (s : State) (n : Nat) : State := { s with free := s.free ++ [n] }

/-- Level of a kind in the notice kind table (R153). -/
def State.level (s : State) (k : Kind) : Fin 4 := s.levels.get k.ix

/-- Post at the tail of the record's level: after every record of its level or a higher one (R146). -/
def insertTail (x : Posted) : List Posted → List Posted
  | [] => [x]
  | y :: ys => if x.record.level ≤ y.record.level then y :: insertTail x ys else x :: y :: ys

/-- Return to the front of the record's level: after every record of a higher level (R152). -/
def insertFront (x : Posted) : List Posted → List Posted
  | [] => [x]
  | y :: ys => if x.record.level < y.record.level then y :: insertFront x ys else x :: y :: ys

/-! ## Port K (R147, R148) -/

/-- The oldest posted Port K record is evicted: its slot joins the tail of the free list (R147). -/
def State.evictK (s : State) : State :=
  match s.listK with
  | [] => s
  | x :: xs => { s with listK := xs, free := s.free ++ [x.slot] }

/-- Steps 2 and 5 of R147 and R148: the head slot of the free list takes the record, or the record is dropped. -/
def State.placeK (s : State) (b : Body) : State :=
  match s.free with
  | n :: rest => { s with free := rest, listK := s.listK ++ [⟨n, ⟨0, false, b⟩⟩] }
  | [] => s.latch .k evOverflow

/-- A Port K record is posted, by steps 1 to 5 of R147 and R148. -/
def State.postK (s : State) (b : Body) : State :=
  let s1 := if Config.listKCapacity ≤ s.listK.length then s.evictK else s
  let s2 := if s1.free = [] then s1.evictK else s1
  s2.placeK b

/-! ## Port N (R149, R155, R156, R84) -/

/-- Is a posted or held record a notice of this kind with this subject (R156)? -/
def Posted.suppresses (x : Posted) (subject : Subject) (k : Kind) : Bool :=
  match x.record.body with
  | .notice sub _ _ b => decide (sub = subject ∧ b.kind = k)
  | .trip _ _ | .decision _ _ _ _ _ | .outcome _ _ _ _ => false

/-- A notice of a tied kind is suppressed while one of the same kind and subject is posted to or held by Port N
(R156). -/
def State.suppressed (s : State) (subject : Subject) (k : Kind) : Bool :=
  k.tied && (s.listN ++ s.portN.taken).any (fun x => x.suppresses subject k)

/-- Post a record to the Port N list at the level of its kind, in a slot already at hand (R146, R158). -/
def State.postN (s : State) (slot : Nat) (k : Kind) (b : Body) : State :=
  { s with listN := insertTail ⟨slot, ⟨(s.level k).val, s.clockSet, b⟩⟩ s.listN }

/-- Post a record to the Port N list in a slot from the head of the free list, or set OVERFLOW (R149). -/
def State.postFree (s : State) (k : Kind) (b : Body) : State :=
  match s.free with
  | n :: rest => State.postN { s with free := rest } n k b
  | [] => s.latch .n evOverflow

/-- Generation of a notice, by the steps of R155. -/
def State.notice (s : State) (subject : Subject) (b : NoticeBody) : State :=
  if s.level b.kind = 0 then s
  else if s.suppressed subject b.kind then s
  else s.postFree b.kind (.notice subject s.minute s.second b)

/-- A FOREIGN_RETURN of a bike tag at a dock (R79, R159, R162). -/
def State.foreignReturn (s : State) (d : DockIx) (t : BikeTag) : State :=
  s.postFree .foreignReturn (.trip .foreignReturn
    { ride := none, cred := 0#24, tag := t, releaseAt := none, returnAt := some d, release := none,
      endMinute := s.minute, duration := none, charge := 0, shortfall := 0, balance := none,
      clockStep := false, capped := false, late := false, quick := false })

/-! ## Un-taking (R152) -/

/-- The Port K list brought back to 32 records, the head evicted first (R152). -/
def State.trimK (s : State) : Nat → State
  | 0 => s
  | k + 1 => if Config.listKCapacity < s.listK.length then State.trimK s.evictK k else s

/-- Every slot a port holds returns to its post list (R152). -/
def State.untake (s : State) (p : Port) : State :=
  match p with
  | .n =>
    let s1 := { s with listN := s.portN.taken.foldr insertFront s.listN }
    s1.updPort .n (fun x => { x with taken := [] })
  | .k =>
    let s1 := { s with listK := s.portK.taken ++ s.listK }
    (s1.updPort .k (fun x => { x with taken := [] })).trimK s1.listK.length

end Sys2Proof.Machine
end

