-- ==== Sys2Proof/Machine/LineOps.lean ====
section
/-! DEFINITION. Rounds, turns, breaks and quiet mode of a dock line (chapter 7), and the grant procedure of the
actuation arbiter (chapter 6), which the return of a line from QUIET runs. -/

namespace Sys2Proof.Machine

/-! ## Rounds (R119) -/

/-- The lowest fitted address of a line at or above a bound. -/
def State.nextFitted (s : State) (l : Line) (k : Nat) : Option Addr :=
  (List.finRange 30).find? (fun a => decide (k ≤ a.val) && s.fitted (dockIx l a))

/-- A round starts at the lowest fitted address (R119). -/
def State.startRound (s : State) (l : Line) : State :=
  s.updLine l (fun c => { c with roundOn := (s.nextFitted l 0).isSome, pos := s.nextFitted l 0 })

/-- The turn in flight ends and the polling position moves on; after the highest fitted address the round ends, and
the next one starts at once in RUNNING or where a quiet interval expired during the round (R119, R136). -/
def State.endTurn (s : State) (l : Line) : State :=
  match (s.line l).turn with
  | none => s
  | some t =>
    match s.nextFitted l (t.addr.val + 1) with
    | some a => s.updLine l (fun c => { c with turn := none, pos := some a })
    | none =>
      if (s.line l).state = .running ∨ (s.line l).roundOwed then
        (s.updLine l (fun c => { c with turn := none, roundOwed := false })).startRound l
      else s.updLine l (fun c => { c with turn := none, roundOn := false, pos := none })

/-- What became of an OPEN in flight for the QUEUED ride at a dock: delivered, or not (R120, R68). -/
def settleOpen (s : State) (d : DockIx) (delivered : Bool) : State :=
  { s with rides := s.rides.map (fun r =>
      if r.dock = d ∧ r.progress = .inFlight then
        { r with progress := if delivered then .delivered else .notSent } else r) }

/-! ## Return from QUIET (R137) -/

/-- A QUIET line enters RUNNING: the interval timer stops, the quiet timer is 0, LINE is set, and a round starts
when none is in progress. The grant procedure that R137 runs with it is quietReturn's. -/
def State.leaveQuiet (s : State) (l : Line) : State :=
  let s1 := (s.updLine l (fun c => { c with
    state := .running, quietInterval := none, quietTimer := 0, quietDue := false, roundOwed := false })).latch
      .n evLine
  if (s.line l).roundOn then s1 else s1.startRound l

/-- A pending command is set for a dock; on a QUIET line the line returns to RUNNING (R109, R137). -/
def State.markPending (s : State) (d : DockIx) (c : Pending) : State :=
  let s1 := s.updDock d (fun x => { x with pending := c })
  if (s.line (lineOf d)).state = .quiet then s1.leaveQuiet (lineOf d) else s1

/-! ## The grant procedure (R108) -/

/-- Does a dock's line admit a grant: is it RUNNING or QUIET (R108)? -/
def State.lineRuns (s : State) (d : DockIx) : Bool :=
  decide ((s.line (lineOf d)).state = .running ∨ (s.line (lineOf d)).state = .quiet)

/-- A grant is issued to a dock: its entry is granted, it joins the grant set, and OPEN becomes its pending command
unless a SHOW is pending (R108, R109). -/
def State.grant (s : State) (d : DockIx) : State :=
  let s1 := { s with
    releaseQ := s.releaseQ.map (fun e => if e.dock = d then { e with granted := true } else e),
    grants := s.grants ++ [d] }
  if (s.dock d).pending = .none then s1.markPending d .openCmd else s1

/-- One step of the procedure at a waiting entry. -/
def State.grantStep (s : State) (d : DockIx) : State :=
  if s.grants.length < s.settings.budget ∧ s.lineRuns d = true then s.grant d else s

/-- The grant procedure: the oldest waiting entries on RUNNING or QUIET lines are granted while grants held are
below the budget (R108). -/
def State.issueGrants (s : State) : State :=
  ((s.releaseQ.filter (fun e => !e.granted)).map (fun e => e.dock)).foldl State.grantStep s

/-- A dock's grant is returned, and the procedure runs; a dock that holds none returns nothing (R110). -/
def State.returnGrant (s : State) (d : DockIx) : State :=
  if s.granted d then State.issueGrants { s with grants := s.grants.filter (fun x => decide (x ≠ d)) } else s

/-- A QUIET line returns to RUNNING and the grant procedure runs (R137); any other line is left as it is. -/
def State.quietReturn (s : State) (l : Line) : State :=
  if (s.line l).state = .quiet then (s.leaveQuiet l).issueGrants else s

/-- A pending command is set for a dock, with the return from QUIET that it causes (R109, R137). -/
def State.setPending (s : State) (d : DockIx) (c : Pending) : State :=
  let s1 := s.markPending d c
  if (s.line (lineOf d)).state = .quiet then s1.issueGrants else s1

/-! ## Breaks (R130, R134) -/

/-- The turn in flight is abandoned; its command counts as delivered when its frame had been sent (R125). -/
def State.abandonTurn (s : State) (l : Line) : State :=
  match (s.line l).turn with
  | none => s
  | some t =>
    (settleOpen s (dockIx l t.addr) (decide (t.phase ≠ .sending))).updLine l (fun c => { c with turn := none })

/-- What a line drops on entry to BREAK or DISABLED: round, error count, timers (R130, R134). -/
def LineCtl.dropAll (c : LineCtl) : LineCtl :=
  { c with turn := none, roundOn := false, pos := none, errors := 0, errTimer := none, quietTimer := 0,
           quietInterval := none, breakTimer := .stopped, quietDue := false, roundOwed := false }

/-- Set LINE when a line's state changes (R115, R130). -/
def State.latchLineIf (s : State) (changed : Bool) : State := if changed then s.latch .n evLine else s

/-- A line enters BREAK, or its break starts again, with a cause (R130). -/
def State.enterBreak (s : State) (l : Line) (cause : BreakCause) : State :=
  let s1 := (s.abandonTurn l).updLine l (fun c => { c.dropAll with
    state := .brk, rate := s.settings.rate l, breakTimer := .breakTime, breakCause := some cause })
  s1.latchLineIf (decide ((s.line l).state ≠ .brk))

/-- A line enters DISABLED (R134). -/
def State.disableLine (s : State) (l : Line) : State :=
  let s1 := (s.abandonTurn l).updLine l (fun c => { c.dropAll with state := .disabled })
  s1.latchLineIf (decide ((s.line l).state ≠ .disabled))

/-! ## Quiet activity (R135) -/

/-- Has the line work that holds the quiet timer at 0: a dock with a pending command, or QUEUED, RELEASING or
RELATCHING (R135)? -/
def State.lineBusy (s : State) (l : Line) : Bool :=
  (List.finRange 30).any (fun a =>
    let d := s.dock (dockIx l a)
    decide (d.pending ≠ .none ∨ d.state = .queued ∨ d.state = .releasing ∨ d.state = .relatching))

/-- The bike presence of a dock record, as R135 compares a reply with it. A held tag or a state that a bike stands
in says present, EMPTY says none; UNKNOWN and FAULTED without a tag leave it open (log 10). -/
def Dock.present (d : Dock) : Bool :=
  if d.tag ≠ 0#32 then true
  else match d.state with
    | .docked | .queued | .releasing | .relatching => true
    | .empty | .unfitted => false
    | .unknown => Config.untaggedPresence false d.since
    | .faulted _ => Config.untaggedPresence true d.since

/-- Does a STATUS reply show a bike change against the record before it (R135)? -/
def bikeChange (d : Dock) (r : StatusReply) : Bool :=
  decide (r.bike ≠ d.present) || (r.bike && decide (r.tag ≠ d.tag))

end Sys2Proof.Machine
end

