-- ==== Sys2Proof/Machine/Token.lean ====
section
/-! DEFINITION. Token arithmetic (chapter 1): check word, counter window, token time window, ride charge and balance
update, all in exact integers. -/

namespace Sys2Proof.Machine

/-- The check word of a token for a secret (R8). -/
def checkWord (secret : BitVec 32) (c : CredNo) (n : Word16) (m : Minute) : BitVec 32 :=
  let a := BitVec.ofNat 32 (n.toNat * 65536 + m.toNat) ^^^ secret
  let b := a.rotateLeft (n.toNat % 32)
  b + BitVec.ofNat 32 (c.toNat * Config.checkMultiplier)

/-- The counter window (R10): none for a counter in window, else the reason it is refused with. -/
def counterTest (last n : Word16) (w : Nat) : Option Reason :=
  let d := (n - last).toNat
  if d = 0 ∨ 32768 ≤ d then some .counterStale
  else if d ≤ w then none
  else some .counterFar

/-- The token time window (R12): none for a valid token, else the reason it is refused with. -/
def timeTest (now issue : Minute) (life skew : Nat) : Option Reason :=
  let age := (now - issue).toNat
  if age < 32768 then (if age ≤ life then none else some .tokenExpired)
  else if 65536 - age ≤ skew then none
  else some .tokenEarly

/-- Duration of a ride and whether the clock stepped back (R14). -/
def rideDuration (release endMinute : Minute) : Nat × Bool :=
  let raw := (endMinute - release).toNat
  if raw < 32768 then (raw, false) else (0, true)

/-- Charging units of a duration (R15). -/
def chargeUnits (cls : ClassRec) (duration : Nat) : Nat :=
  (duration - cls.incl + cls.unit - 1) / cls.unit

/-- Charge of a duration and whether the ride cap was applied (R16). -/
def chargeOf (cls : ClassRec) (duration : Nat) : Nat × Bool :=
  let uncapped := chargeUnits cls duration * cls.price
  if cls.cap < uncapped then (cls.cap, true) else (uncapped, false)

/-- Balance after a charge, and the shortfall (R17). -/
def debit (overdraft : Nat) (balance : Int) (charge : Nat) : Int × Nat :=
  let new := balance - (charge : Int)
  if -(overdraft : Int) ≤ new then (new, 0)
  else (-(overdraft : Int), (-(overdraft : Int) - new).toNat)

end Sys2Proof.Machine
end

