-- ==== Sys2Proof/Machine/RideOps.lean ====
section
/-! DEFINITION. What happens to a ride (chapter 4): cancellation, release, take-up, relatching, close, quick return,
ageing out and return handling, with what each does to its dock, its credential, its slot and its grant. -/

namespace Sys2Proof.Machine

/-! ## The credential side -/

/-- The end of a ride lowers its credential's open-ride count; a LAPSED entry whose count reaches 0 is deleted
(R22, R29). -/
def State.endRideOf (s : State) (c : CredNo) : State :=
  match s.findCred c with
  | none => s
  | some e =>
    if e.state = .lapsed ∧ e.openRides - 1 = 0 then s.dropCred c
    else s.updCred c (fun x => { x with openRides := x.openRides - 1 })

/-! ## Docks leaving a release -/

/-- OPEN and CLOSE become none, SHOW stays (R74, R97). -/
def Pending.dropLatch : Pending → Pending
  | .openCmd | .closeCmd => .none
  | .none => .none
  | .showCmd c q => .showCmd c q

/-- CLOSE becomes none; nothing else changes (R72, R96). -/
def Pending.dropClose : Pending → Pending
  | .closeCmd => .none
  | .none => .none
  | .openCmd => .openCmd
  | .showCmd c q => .showCmd c q

/-- A dock becomes EMPTY: bike tag, docked-since and relatch attempts become 0, the pending command stands (R94). -/
def Dock.toEmpty (x : Dock) : Dock := { x with state := .empty, tag := 0#32, since := 0#16, relatch := 0 }

/-- A dock taken up or settled without a bike becomes EMPTY, and a pending CLOSE becomes none (R69, R72, R96). -/
def Dock.toTaken (x : Dock) : Dock := { x.toEmpty with pending := x.pending.dropClose }

/-- A dock becomes DOCKED out of QUEUED, RELEASING or RELATCHING: relatch attempts 0, OPEN or CLOSE none. -/
def Dock.toDocked (x : Dock) : Dock := { x with state := .docked, relatch := 0, pending := x.pending.dropLatch }

/-- A dock becomes RELATCHING with relatch attempts 0 and CLOSE pending, in place of any pending command
(R71, R76 to R78, R81, R82). -/
def State.relatchDock (s : State) (d : DockIx) : State :=
  (s.updDock d (fun x => { x with state := .relatching, relatch := 0 })).setPending d .closeCmd

/-- A RELEASING ride becomes RELATCHING with its dock: window stopped, grant returned, CLOSE pending (R71, R76,
R77). -/
def State.relatchRide (s : State) (r : Ride) : State :=
  let s1 := s.updRide r.number (fun x => { x with state := .relatching, windowLeft := none })
  (s1.returnGrant r.dock).relatchDock r.dock

/-! ## Cancellation (R74) -/

/-- A ride that was not taken is ended: slot freed, count lowered, outcome record posted, ride removed, dock back to
DOCKED and out of the release queue, grant returned (R74). A cause that leaves the dock in another state sets it
afterwards. -/
def State.cancelRide (s : State) (r : Ride) (o : RideOutcome) : State :=
  let s1 := (s.freeSlot r.slot).endRideOf r.cred
  let s2 := s1.postK (.outcome r.number r.cred r.dock o)
  let s3 := (s2.dropRide r.number).leaveQueue r.dock
  (s3.updDock r.dock Dock.toDocked).returnGrant r.dock

/-- Cancel the ride of a number with CANCELLED_CREDENTIAL while it is QUEUED (R28). -/
def State.cancelForCred (s : State) (n : RideNo) : State :=
  match s.findRide n with
  | some r => if r.state = .queued then s.cancelRide r .cancelledCredential else s
  | none => s

/-- The QUEUED rides of the credentials that satisfy a test, in ascending order of ride number (R28). -/
def State.queuedRidesOf (s : State) (f : CredNo → Bool) : List RideNo :=
  (s.rides.filter (fun r => decide (r.state = .queued) && f r.cred)).map (fun r => r.number)

/-- Entries that have become REVOKED or LAPSED cancel their QUEUED rides (R28). -/
def State.cancelQueuedOf (s : State) (f : CredNo → Bool) : State :=
  (s.queuedRidesOf f).foldl State.cancelForCred s

/-! ## Release and take-up -/

/-- The latch-open acknowledgement (R68). -/
def State.acknowledge (s : State) (r : Ride) : State :=
  let s1 := s.updRide r.number (fun x => { x with
    state := .releasing, release := some s.minute, waitLeft := none, windowLeft := some s.settings.takeUpWindow })
  (s1.updDock r.dock (fun x => { x with state := .releasing, pending := .none })).leaveQueue r.dock

/-- Take-up (R69) and late take-up (R72): ride OPEN, dock EMPTY, window stopped, grant returned, TAKEN to Port K and
then RIDE_STARTED to Port N. -/
def State.takeUp (s : State) (r : Ride) (late : Bool) : State :=
  let s1 := s.updRide r.number (fun x => { x with
    state := .opened, takeUp := some s.minute, late := x.late || late, windowLeft := none })
  let s2 := (s1.updDock r.dock Dock.toTaken).returnGrant r.dock
  (s2.postK (.outcome r.number r.cred r.dock .taken)).notice (.dock r.dock) (.rideStarted r.number r.cred late)

/-! ## Close (R80) -/

/-- The figures of a close or an ageing out (R14 to R17). -/
structure CloseFigures where
  duration  : Nat
  clockStep : Bool
  charge    : Nat
  capped    : Bool
  shortfall : Nat
  balance   : Int
  deriving DecidableEq, Repr

/-- The charge of a ride that ends at a minute, debited from an entry of a class (R14 to R17). -/
def closeFigures (cls : ClassRec) (e : Cred) (release endMinute : Minute) : CloseFigures :=
  let dur := rideDuration release endMinute
  let ch := chargeOf cls dur.1
  let deb := debit e.overdraft e.balance ch.1
  { duration := dur.1, clockStep := dur.2, charge := ch.1, capped := ch.2, shortfall := deb.2, balance := deb.1 }

/-- The figures of an ageing out: the duration, no charge, the balance as it stands (R67, R84). -/
def ageFigures (balance : Int) (release endMinute : Minute) : CloseFigures :=
  let dur := rideDuration release endMinute
  { duration := dur.1, clockStep := dur.2, charge := 0, capped := false, shortfall := 0, balance := balance }

/-- The debit written into the entry: the balance, and SUSPENDED for an ACTIVE entry with a shortfall (R17, R18). -/
def Cred.debited (e : Cred) (f : CloseFigures) : Cred :=
  { e with balance := f.balance, state := if 0 < f.shortfall ∧ e.state = .active then .suspended else e.state }

/-- The trip record of a ride (R84, R159). -/
def tripOf (r : Ride) (returnAt : Option DockIx) (endMinute : Minute) (f : CloseFigures) (quick : Bool) : Trip :=
  { ride := some r.number, cred := r.cred, tag := r.tag, releaseAt := some r.dock, returnAt := returnAt,
    release := r.release, endMinute := endMinute, duration := some f.duration, charge := f.charge,
    shortfall := f.shortfall, balance := some f.balance, clockStep := f.clockStep, capped := f.capped,
    late := r.late, quick := quick }

/-- The figures of the close of a ride against the table as it stands. A ride always names an entry and, past its
acknowledgement, holds a release minute (R22, R68); log 18 says what stands here where a state breaks that. -/
def State.figures (s : State) (r : Ride) (endMinute : Minute) : CloseFigures :=
  match s.findCred r.cred with
  | some e => closeFigures (s.classOf e) e (r.release.getD endMinute) endMinute
  | none => ageFigures 0 (r.release.getD endMinute) endMinute

/-- A close: debit, count, trip record into the bound slot and to Port N, ride removed (R80, R82, R84). -/
def State.closeRide (s : State) (r : Ride) (k : TripKind) (returnAt : Option DockIx) (endMinute : Minute)
    (quick : Bool) : State :=
  let f := s.figures r endMinute
  let s1 := (s.updCred r.cred (fun e => e.debited f)).endRideOf r.cred
  (s1.postN r.slot k.kind (.trip k (tripOf r returnAt endMinute f quick))).dropRide r.number

/-- A RELEASING or RELATCHING ride is taken up and closed in one event, leaving its dock RELATCHING with no ride
(R81, R82). -/
def State.closeEarly (s : State) (r : Ride) (k : TripKind) (returnAt : Option DockIx) (endMinute : Minute) : State :=
  let r' := { r with takeUp := some s.minute, late := r.late || decide (r.state = .relatching) }
  let s1 := s.closeRide r' k returnAt endMinute true
  let s2 := s1.postK (.outcome r.number r.cred r.dock .taken)
  (s2.returnGrant r.dock).relatchDock r.dock

/-- The close of a ride by a return at a dock (R80, R81) or by RIDE CLOSE (R82). -/
def State.finishRide (s : State) (r : Ride) (k : TripKind) (returnAt : Option DockIx) (endMinute : Minute) : State :=
  if r.state = .opened then s.closeRide r k returnAt endMinute false else s.closeEarly r k returnAt endMinute

/-! ## Ageing out (R67) -/

/-- Minutes since the take-up of a ride (R67). -/
def takeUpAge (now : Minute) (r : Ride) : Nat := (now - r.takeUp.getD 0#16).toNat

/-- The OPEN ride whose take-up lies furthest back; of several, the lowest ride number (R67). The rides are in
ascending order of number, so a later one replaces an earlier only when it is strictly older. -/
def oldestOpen (now : Minute) (rides : List Ride) : Option Ride :=
  (rides.filter (fun r => decide (r.state = .opened))).foldl (fun best r =>
    match best with
    | none => some r
    | some b => if takeUpAge now b < takeUpAge now r then some r else some b) none

/-- One OPEN ride is aged out: AGED_OUT record in its bound slot, count lowered, ride removed (R67, R84). -/
def State.ageOut (s : State) : State :=
  match oldestOpen s.minute s.rides with
  | none => s
  | some r =>
    let bal := match s.findCred r.cred with
      | some e => e.balance
      | none => 0
    let f := ageFigures bal (r.release.getD s.minute) s.minute
    let s1 := s.endRideOf r.cred
    (s1.postN r.slot .agedOut (.trip .agedOut (tripOf r none s.minute f false))).dropRide r.number

/-! ## Return handling (R79) -/

/-- The lookup of a reported tag at a dock (R79): a close here, a quick return, or a foreign return. -/
def State.returnBike (s : State) (d : DockIx) (t : BikeTag) : State :=
  if t = 0#32 then s.foreignReturn d t
  else match s.rideOfTag t with
    | none => s.foreignReturn d t
    | some r =>
      if r.state = .queued ∨ (r.state ≠ .opened ∧ r.dock = d) then s.foreignReturn d t
      else s.finishRide r .closedHere (some d) s.minute

end Sys2Proof.Machine
end

