-- ==== Sys2Proof/Machine/Replies.lean ====
section
/-! DEFINITION. What a reply does to a dock (chapter 5): failed turns and lost links, the offer of a token, jams,
reader faults, and bike and latch by dock state. -/

namespace Sys2Proof.Machine

/-! ## Hold-off (R43, R44) -/

/-- An accepted entry joins the tail; hold-off begins when the queue then exceeds the high mark (R43). -/
def State.enqueue (s : State) (x : Presentation) : State :=
  let q := s.queue ++ [x]
  { s with queue := q, holdOff := s.holdOff || decide (s.settings.high < q.length) }

/-- The offer of a token from a dock (R45): taken unless hold-off is in force. -/
def State.offer (s : State) (d : DockIx) (t : TokenRead) : State :=
  if s.holdOff then s
  else (s.enqueue ⟨.dock d t.seq, t.token⟩).updDock d (fun x => { x with ack := t.seq })

/-- Does a reply carry a new token for a record (R126)? -/
def newToken (x : Dock) (r : StatusReply) : Bool :=
  match r.token with
  | some t => decide (t.seq ≠ x.ack)
  | none => false

/-- A token carried with a new sequence is offered; a repeated one is not (R126). -/
def State.offerToken (s : State) (d : DockIx) (r : StatusReply) : State :=
  match r.token with
  | some t => if t.seq = (s.dock d).ack then s else s.offer d t
  | none => s

/-! ## Failed turns (R124, R87) -/

/-- The change of a link to LOST: a QUEUED ride at the dock is cancelled, a RELEASING one goes to RELATCHING, and
NODE_LOST is posted after the cancellation's outcome record (R74, R75, R76, R87, R166). -/
def State.loseLink (s : State) (d : DockIx) : State :=
  let s1 := s.updDock d (fun x => { x with link := .lost })
  match s.rideAt d with
  | none => s1.notice (.dock d) (.nodeLost none)
  | some r =>
    match r.state with
    | .queued => (s1.cancelRide r .dockLost).notice (.dock d) (.nodeLost (some (r.number, .cancelled)))
    | .releasing => (s1.relatchRide r).notice (.dock d) (.nodeLost (some (r.number, .toRelatching)))
    | .relatching => s1.notice (.dock d) (.nodeLost (some (r.number, .unchanged)))
    | .opened => s1

/-- A failed turn raises the consecutive failed turns, at most to 3; the third loses the link (R124). -/
def State.failTurn (s : State) (d : DockIx) : State :=
  let n := (s.dock d).failed
  if Config.lostAt ≤ n then s
  else
    let s1 := s.updDock d (fun x => { x with failed := n + 1 })
    if n + 1 = Config.lostAt ∧ (s.dock d).link ≠ .lost then s1.loseLink d else s1

/-! ## Faults (R97, R98) -/

/-- The dock becomes FAULTED(JAMMED): OPEN or CLOSE none, relatch attempts 0, LATCH_JAM posted. A dock FAULTED with
that reason already is left as it is (R97, R167). -/
def State.jamDock (s : State) (d : DockIx) (cause : JamCause) (ride : Option RideNo) : State :=
  if (s.dock d).state = .faulted .jammed then s
  else
    (s.updDock d (fun x => { x with
      state := .faulted .jammed, pending := x.pending.dropLatch, relatch := 0 })).notice
        (.dock d) (.latchJam (s.dock d).tag cause ride)

/-- The dock becomes FAULTED(READER), and READER_FAULT is posted (R98, R166). -/
def State.readerFaultDock (s : State) (d : DockIx) : State :=
  (s.updDock d (fun x => { x with state := .faulted .reader })).notice (.dock d) (.readerFault (s.dock d).tag)

/-! ## Bike and tag (R93, R94) -/

/-- A bike left a dock no release let go: the dock becomes EMPTY and UNAUTH_REMOVAL carries the tag it held (R93,
R95, R99, R167). -/
def State.bikeGone (s : State) (d : DockIx) (ride : Option RideNo) : State :=
  (s.updDock d Dock.toEmpty).notice (.dock d) (.unauthRemoval (s.dock d).tag ride)

/-- The tag of a dock that a reply leaves DOCKED follows the reported tag; a real tag in place of 0 is looked up as
a return (R94). -/
def State.retag (s : State) (d : DockIx) (t : BikeTag) : State :=
  let old := (s.dock d).tag
  if t = old then s
  else
    let s1 := s.updDock d (fun x => { x with tag := t, since := s.minute })
    if old = 0#32 then s1.returnBike d t else s1

/-- The dock becomes DOCKED with a tag, docked since now (R91, R92, R94). -/
def State.dockBike (s : State) (d : DockIx) (t : BikeTag) : State :=
  s.updDock d (fun x => { x with state := .docked, tag := t, since := s.minute })

/-- A reply with the bike present and the latch open from a RELATCHING dock: a reply to CLOSE counts an attempt, and
the third makes the dock FAULTED(JAMMED) (R73, R96). -/
def State.relatchAttempt (s : State) (d : DockIx) (closeTurn : Bool) (ride : Option RideNo) : State :=
  if closeTurn then
    if Config.relatchLimit ≤ (s.dock d).relatch + 1 then s.jamDock d .relatch ride
    else s.updDock d (fun x => { x with relatch := x.relatch + 1 })
  else s

/-! ## A good STATUS reply (R90) -/

/-- May the reply be the latch-open acknowledgement of a ride: OPEN delivered for it, and the latch shown open
(R68)? -/
def acksOpen (ride : Ride) (r : StatusReply) : Bool :=
  decide (ride.progress ≠ .notSent ∧ r.latch = .unlatched)

/-- The outcome with which a reply cancels the ride at its dock, if it does (R70, R72, R73, R75, R95, R97).
attempts are the relatch attempts before the reply, closeTurn whether the turn carried CLOSE. -/
def cancelCause (ride : Ride) (r : StatusReply) (attempts : Nat) (closeTurn : Bool) : Option RideOutcome :=
  match r.latch with
  | .jammed => some .latchFault
  | .locked =>
    match ride.state with
    | .queued => if r.bike then none else some .latchFault
    | .releasing | .relatching => if r.bike then some .notTaken else none
    | .opened => none
  | .unlatched =>
    match ride.state with
    | .queued => if r.bike || acksOpen ride r then none else some .latchFault
    | .relatching => if r.bike && closeTurn && decide (Config.relatchLimit ≤ attempts + 1) then some .latchFault else none
    | .releasing | .opened => none

/-- A reply handled at a dock that a ride in QUEUED, RELEASING or RELATCHING names, when it does not cancel the
ride (R68 to R70, R72, R73). -/
def State.rideReply (s : State) (d : DockIx) (ride : Ride) (r : StatusReply) (closeTurn : Bool) : State :=
  match ride.state with
  | .queued =>
    if acksOpen ride r then
      if r.bike then s.acknowledge ride
      else (s.acknowledge ride).takeUp { ride with state := .releasing, release := some s.minute } false
    else s
  | .releasing => if r.bike then s else s.takeUp ride false
  | .relatching => if r.bike then s.relatchAttempt d closeTurn none else s.takeUp ride true
  | .opened => s

/-- A reply handled at a dock whose ride it has just cancelled; was is the ride's state before (R73, R75, R94, R95,
R97). -/
def State.afterCancel (s : State) (d : DockIx) (ride : Ride) (r : StatusReply) : State :=
  if r.latch = .jammed then s.jamDock d .node (some ride.number)
  else if r.bike then
    if r.latch = .locked then s.retag d r.tag else s.jamDock d .relatch (some ride.number)
  else s.bikeGone d (some ride.number)

/-- A fault clears (R99). -/
def State.clearFault (s : State) (d : DockIx) (r : StatusReply) : State :=
  if r.bike then (s.updDock d (fun x => { x with state := .docked })).retag d r.tag
  else if (s.dock d).tag = 0#32 then s.updDock d Dock.toEmpty
  else s.bikeGone d none

/-- Bike and latch at a dock that no ride in QUEUED, RELEASING or RELATCHING names, by its state (R91 to R94, R96,
R99). The latch is not JAMMED and the reader step has not faulted the dock. -/
def State.plainReply (s : State) (d : DockIx) (r : StatusReply) (closeTurn : Bool) : State :=
  match (s.dock d).state with
  | .unknown =>
    if !r.bike then s.updDock d Dock.toEmpty
    else if r.latch = .locked then s.dockBike d r.tag
    else (s.dockBike d r.tag).relatchDock d
  | .empty => if r.bike && decide (r.latch = .locked) then (s.dockBike d r.tag).returnBike d r.tag else s
  | .docked =>
    if !r.bike then s.bikeGone d none
    else if r.latch = .locked then s.retag d r.tag
    else s.relatchDock d
  | .relatching =>
    if !r.bike then s.updDock d Dock.toTaken
    else if r.latch = .locked then
      (s.updDock d (fun x => { x with state := .docked, relatch := 0, pending := x.pending.dropClose })).retag d r.tag
    else s.relatchAttempt d closeTurn none
  | .faulted _ =>
    if r.readerFault || (r.bike && decide (r.latch = .unlatched)) then s else s.clearFault d r
  | .unfitted | .queued | .releasing => s

/-- Does the reader step of R90 act: a reader fault at a dock in UNKNOWN, EMPTY or DOCKED (R98)? -/
def readerFaults (x : Dock) (r : StatusReply) : Bool :=
  r.readerFault && decide (x.state = .unknown ∨ x.state = .empty ∨ x.state = .docked)

/-- Steps 4 to 6 of R90 at a dock with no ride at stake. -/
def State.dockReply (s : State) (d : DockIx) (r : StatusReply) (closeTurn : Bool) : State :=
  if r.latch = .jammed then s.jamDock d .node none
  else if readerFaults (s.dock d) r then s.readerFaultDock d
  else s.plainReply d r closeTurn

/-- The notices of steps 1 and 3 of R90: NODE_BACK when the link was LOST, NODE_POWER_LOW when the field rose (R87,
R100). before is the record as it stood before the reply. -/
def State.linkNotices (s : State) (d : DockIx) (before : Dock) (r : StatusReply) : State :=
  let s1 := if before.link = .lost then s.notice (.dock d) (.nodeBack .status) else s
  if r.powerLow && !before.powerLow then s1.notice (.dock d) .nodePowerLow else s1

/-- The dock table's handling of a good STATUS reply, in the order of R90. A cancellation posts its outcome record
before any notice of the event takes a slot (R74, log 8). -/
def State.handleStatus (s : State) (d : DockIx) (r : StatusReply) (closeTurn : Bool) : State :=
  let before := s.dock d
  let s1 := (s.updDock d (fun x => { x with link := .online })).offerToken d r
  let s2 := s1.updDock d (fun x => { x with powerLow := r.powerLow })
  match s2.rideAt d with
  | some ride =>
    match cancelCause ride r before.relatch closeTurn with
    | some o => ((s2.cancelRide ride o).linkNotices d before r).afterCancel d ride r
    | none => (s2.linkNotices d before r).rideReply d ride r closeTurn
  | none => (s2.linkNotices d before r).dockReply d r closeTurn

end Sys2Proof.Machine
end

