-- ==== Sys2Proof/Decode.lean ====
section
/-! DEFINITION. The words of the block. The rows of spec/opcode_table.json give no bits, so decodeTableWord reads
none. A port request has a byte frame (R192): its code, its layout, the frame check of R194, and both directions
between a request and its frame are here. -/

namespace Sys2Proof

/-- The command a word of the opcode table spells: no row of the table gives bits. -/
def decodeTableWord (_nbits _w : Nat) : Option Instr := none

/-! ## The frame check (R194) -/

/-- One shift of the CRC-8 with generator 07h. -/
def crcShift (c : Byte) : Byte :=
  if c.getLsbD 7 then (c <<< 1) ^^^ 0x07#8 else c <<< 1

/-- One byte of the CRC-8: XOR, then eight shifts. -/
def crcByte (c b : Byte) : Byte :=
  crcShift (crcShift (crcShift (crcShift (crcShift (crcShift (crcShift (crcShift (c ^^^ b))))))))

/-- CRC-8 of a byte sequence, initial value 0, most significant bit first (R194). -/
def crc8 (bytes : List Byte) : Byte := bytes.foldl crcByte 0#8

/-- A byte sequence closed with its check (R192, R194). -/
def withCheck (bytes : List Byte) : List Byte := bytes ++ [crc8 bytes]

/-! ## Multi-byte fields, most significant byte first (R192) -/

/-- Byte k of a value, byte 0 the least significant. -/
def byteOf {w : Nat} (x : BitVec w) (k : Nat) : Byte := x.extractLsb' (8 * k) 8

def bytes2 (x : Word16) : List Byte := [byteOf x 1, byteOf x 0]
def bytes3 (x : CredNo) : List Byte := [byteOf x 2, byteOf x 1, byteOf x 0]
def bytes4 (x : BitVec 32) : List Byte := [byteOf x 3, byteOf x 2, byteOf x 1, byteOf x 0]

def join2 (b1 b0 : Byte) : Word16 := b1 ++ b0
def join3 (b2 b1 b0 : Byte) : CredNo := (b2 ++ b1 : BitVec 16) ++ b0
def join4 (b3 b2 b1 b0 : Byte) : BitVec 32 := ((b3 ++ b2 : BitVec 16) ++ b1 : BitVec 24) ++ b0

/-! ## Request codes (R192) -/

/-- The requests of the part. -/
inductive Req where
  | credLoad | credState | credBalance | credRemove | sweepOpen | sweepClose | clockSet | classSet | stationSet
  | kindSet | dockFit | rideClose | lineRestart | tokenPresent | dockHold | dockFree | rideCancel | take | giveBack
  | readDock | readCred | readRide | readStation | maskSet | maskClear | eventClear | portClear
  deriving DecidableEq, Repr

/-- The request code of a request (R192). -/
def Req.code : Req → Byte
  | .credLoad => 0x01#8 | .credState => 0x02#8 | .credBalance => 0x03#8 | .credRemove => 0x04#8
  | .sweepOpen => 0x05#8 | .sweepClose => 0x06#8 | .clockSet => 0x07#8 | .classSet => 0x08#8
  | .stationSet => 0x09#8 | .kindSet => 0x0A#8 | .dockFit => 0x0B#8 | .rideClose => 0x0C#8
  | .lineRestart => 0x0D#8 | .tokenPresent => 0x10#8 | .dockHold => 0x11#8 | .dockFree => 0x12#8
  | .rideCancel => 0x13#8 | .take => 0x14#8 | .giveBack => 0x15#8 | .readDock => 0x16#8
  | .readCred => 0x17#8 | .readRide => 0x18#8 | .readStation => 0x19#8 | .maskSet => 0x1A#8
  | .maskClear => 0x1B#8 | .eventClear => 0x1C#8 | .portClear => 0x1D#8

/-- Every request, in the order of the codes. -/
def Req.all : List Req :=
  [.credLoad, .credState, .credBalance, .credRemove, .sweepOpen, .sweepClose, .clockSet, .classSet, .stationSet,
   .kindSet, .dockFit, .rideClose, .lineRestart, .tokenPresent, .dockHold, .dockFree, .rideCancel, .take, .giveBack,
   .readDock, .readCred, .readRide, .readStation, .maskSet, .maskClear, .eventClear, .portClear]

/-- The request a code names, if any (R173). -/
def Req.ofCode (b : Byte) : Option Req := Req.all.find? (fun r => r.code = b)

/-- The request, the port and the body bytes of a command that is a port request (R192). -/
def requestParts : Instr → Option (Req × Port × List Byte)
  | .credLoad p c st cl sec n bal od k =>
      some (.credLoad, p, bytes3 c ++ [st, cl] ++ bytes4 sec ++ bytes2 n ++ bytes2 bal ++ bytes2 od ++ [k])
  | .credState p c st => some (.credState, p, bytes3 c ++ [st])
  | .credBalance p c m a => some (.credBalance, p, bytes3 c ++ [m] ++ bytes2 a)
  | .credRemove p c => some (.credRemove, p, bytes3 c)
  | .sweepOpen p n => some (.sweepOpen, p, [n])
  | .sweepClose p n => some (.sweepClose, p, [n])
  | .clockSet p m s => some (.clockSet, p, bytes2 m ++ [s])
  | .classSet p c i u pr cp mb k v h =>
      some (.classSet, p, [c, i, u] ++ bytes2 pr ++ bytes2 cp ++ bytes2 mb ++ [k] ++ bytes2 v ++ [h])
  | .stationSet p st l v => some (.stationSet, p, [st, l] ++ bytes2 v)
  | .kindSet p k l => some (.kindSet, p, [k, l])
  | .dockFit p l as => some (.dockFit, p, [l, BitVec.ofNat 8 as.length] ++ as)
  | .rideClose p t e => some (.rideClose, p, bytes4 t ++ bytes2 e)
  | .lineRestart p l => some (.lineRestart, p, [l])
  | .tokenPresent p t d =>
      some (.tokenPresent, p, bytes3 t.cred ++ bytes2 t.counter ++ bytes2 t.issue ++ bytes4 t.tag ++ [d])
  | .dockHold p d => some (.dockHold, p, [d])
  | .dockFree p d => some (.dockFree, p, [d])
  | .rideCancel p r => some (.rideCancel, p, bytes2 r)
  | .take p => some (.take, p, [])
  | .giveBack p s => some (.giveBack, p, bytes2 s)
  | .readDock p d => some (.readDock, p, [d])
  | .readCred p c => some (.readCred, p, bytes3 c)
  | .readRide p s v => some (.readRide, p, [s] ++ bytes4 v)
  | .readStation p => some (.readStation, p, [])
  | .maskSet p e => some (.maskSet, p, [e])
  | .maskClear p e => some (.maskClear, p, [e])
  | .eventClear p e => some (.eventClear, p, [e])
  | .portClear p => some (.portClear, p, [])
  | .powerOnOrPinReset _ _ | .secondTick | .minuteRollover | .sweepIdleExpiry | .collect _ _ | .badFrame _ _ _
  | .admissionDecision | .queueWaitExpiry _ | .takeUpWindowExpiry _ | .turnStart _ | .commandDelivered _
  | .statusReply _ _ | .busyReply _ | .badReply _ _ _ | .replyGapTimeout _ | .replyWindowExpiry _
  | .errorPeriodBoundary _ | .breakTimeEnd _ | .recoveryEnd _ | .quietEntry _ | .quietIntervalExpiry _ | .wake _
  | .replyStart _ _ | .transactionStart _ | .emptyTransactionEnd _ => none

/-- The frame of a request with this code and body: code, length, body, check (R192). -/
def frameBytes (r : Req) (body : List Byte) : List Byte :=
  withCheck ([r.code, BitVec.ofNat 8 (body.length + 3)] ++ body)

/-- The request frame of a command, with the port it is sent on (R192). -/
def requestFrame (i : Instr) : Option (Port × List Byte) :=
  (requestParts i).map (fun x => (x.2.1, frameBytes x.1 x.2.2))

/-- The request that a body of the right length spells (R192). -/
def requestOfBody (p : Port) : Req → List Byte → Option Instr
  | .credLoad, [c2, c1, c0, st, cl, s3, s2, s1, s0, n1, n0, b1, b0, d1, d0, k] =>
      some (.credLoad p (join3 c2 c1 c0) st cl (join4 s3 s2 s1 s0) (join2 n1 n0) (join2 b1 b0) (join2 d1 d0) k)
  | .credState, [c2, c1, c0, st] => some (.credState p (join3 c2 c1 c0) st)
  | .credBalance, [c2, c1, c0, m, a1, a0] => some (.credBalance p (join3 c2 c1 c0) m (join2 a1 a0))
  | .credRemove, [c2, c1, c0] => some (.credRemove p (join3 c2 c1 c0))
  | .sweepOpen, [n] => some (.sweepOpen p n)
  | .sweepClose, [n] => some (.sweepClose p n)
  | .clockSet, [m1, m0, s] => some (.clockSet p (join2 m1 m0) s)
  | .classSet, [c, i, u, p1, p0, c1, c0, m1, m0, k, v1, v0, h] =>
      some (.classSet p c i u (join2 p1 p0) (join2 c1 c0) (join2 m1 m0) k (join2 v1 v0) h)
  | .stationSet, [s, l, v1, v0] => some (.stationSet p s l (join2 v1 v0))
  | .kindSet, [k, l] => some (.kindSet p k l)
  | .dockFit, l :: n :: as => if as.length = n.toNat ∧ as.length ≤ 30 then some (.dockFit p l as) else none
  | .rideClose, [t3, t2, t1, t0, e1, e0] => some (.rideClose p (join4 t3 t2 t1 t0) (join2 e1 e0))
  | .lineRestart, [l] => some (.lineRestart p l)
  | .tokenPresent, [c2, c1, c0, n1, n0, m1, m0, t3, t2, t1, t0, d] =>
      some (.tokenPresent p ⟨join3 c2 c1 c0, join2 n1 n0, join2 m1 m0, join4 t3 t2 t1 t0⟩ d)
  | .dockHold, [d] => some (.dockHold p d)
  | .dockFree, [d] => some (.dockFree p d)
  | .rideCancel, [r1, r0] => some (.rideCancel p (join2 r1 r0))
  | .take, [] => some (.take p)
  | .giveBack, [s1, s0] => some (.giveBack p (join2 s1 s0))
  | .readDock, [d] => some (.readDock p d)
  | .readCred, [c2, c1, c0] => some (.readCred p (join3 c2 c1 c0))
  | .readRide, [s, v3, v2, v1, v0] => some (.readRide p s (join4 v3 v2 v1 v0))
  | .readStation, [] => some (.readStation p)
  | .maskSet, [e] => some (.maskSet p e)
  | .maskClear, [e] => some (.maskClear p e)
  | .eventClear, [e] => some (.eventClear p e)
  | .portClear, [] => some (.portClear p)
  | _, _ => none

/-- The request a received frame spells; none where R173 refuses it BAD_FRAME: its code names no request, its
length is not the one its code requires, or its check is wrong. -/
def requestOfFrame (p : Port) (bytes : List Byte) : Option Instr :=
  match bytes with
  | code :: len :: rest =>
      if len.toNat = bytes.length ∧ crc8 bytes = 0#8 then
        match Req.ofCode code with
        | some r => requestOfBody p r rest.dropLast
        | none => none
      else none
  | _ => none

end Sys2Proof
end

