-- ==== Sys2Proof/Machine/Requests.lean ====
section
/-! DEFINITION. How a port takes a request (chapter 10): the held response, the transaction it ends, the refusal
WRONG_PORT, and the status of each refusal. -/

namespace Sys2Proof.Machine

/-- What the rule of a request answers: a status and the fields of the response (R174). -/
structure Reply where
  status : Status
  fields : Fields := .none
  deriving DecidableEq, Repr

/-- A refusal, or a plain answer, that changes nothing (R176). -/
def answer (s : State) (st : Status) (f : Fields := .none) : State × Reply := (s, ⟨st, f⟩)

/-- The select line is released after a transaction in which the part shifted out these bytes (R172). -/
def State.endTransaction (s : State) (p : Port) (out : List Byte) : State :=
  s.updPort p (fun x => { x with trans := .idle, dataOut := out })

/-- A request's response replaces the held response of its port, and its transaction ends; the part shifted out the
fill value for each byte of the frame (R172, R174, R192). -/
def State.respond (s : State) (p : Port) (code : Byte) (frame : Nat) (r : Reply) : State :=
  (s.updPort p (fun x => { x with held := some ⟨code, r.status, r.fields⟩ })).endTransaction p
    (List.replicate frame Config.fill)

/-- A request frame is taken in one event when its transaction ends (R173): its rule acts and answers, and the
response is held. Where the select line was found asserted at a reset, no transaction was begun, so nothing is taken
and the release only ends that condition (R185). -/
def request (p : Port) (code : Byte) (frame : Nat) (rule : State → State × Reply) (s : State) : Outcome :=
  if (s.port p).trans = .ignored then .next (s.endTransaction p [])
  else event (fun s => (rule s).1.respond p code frame (rule s).2) s

/-- A request that only Port N accepts (R177). -/
def onlyN (p : Port) (rule : State → State × Reply) (s : State) : State × Reply :=
  if p = .k then answer s .wrongPort else rule s

/-- A request that only Port K accepts (R177). -/
def onlyK (p : Port) (rule : State → State × Reply) (s : State) : State × Reply :=
  if p = .n then answer s .wrongPort else rule s

/-- OK, or CLAMPED where a value was replaced by the nearest limit (section 4.6). -/
def okOr (clamped : Bool) : Status := if clamped then .clamped else .ok

end Sys2Proof.Machine
end

