-- ==== Sys2Proof/Machine/Admission.lean ====
section
/-! DEFINITION. Presentations and the admission decision (chapter 3): TOKEN_PRESENT, ADMISSION_DECISION. -/

namespace Sys2Proof.Machine

/-! ## TOKEN PRESENT (R46) -/

/-- The preferred dock byte: FFh names none, 0 to 59 a dock, anything else is no dock (R46, R192). -/
def preferredOfCode (b : Byte) : Option (Option DockIx) :=
  if b = 0xFF#8 then some none else (dockOfCode b).map some

def tokenPresentRule (t : Token) (preferred : Byte) (s : State) : State × Reply :=
  match preferredOfCode preferred with
  | none => answer s .badValue
  | some d => if s.holdOff then answer s .holdOff else (s.enqueue ⟨.kiosk d, t⟩, ⟨.ok, .none⟩)

def execTokenPresent (p : Port) (t : Token) (preferred : Byte) (s : State) : Outcome :=
  request p Req.tokenPresent.code 15 (onlyK p (tokenPresentRule t preferred)) s

/-! ## The ten checks (R48) -/

/-- Checks 1 to 5 (R49, R50): the entry of a token that passes them, or the reason. -/
def tokenChecks (s : State) (t : Token) : Except Reason Cred :=
  if s.clockSet = false then .error .clockUnset
  else match s.findCred t.cred with
    | none => .error .unknownCredential
    | some e =>
      if t.cred = 0#24 then .error .unknownCredential
      else if checkWord e.secret t.cred t.counter t.issue ≠ t.tag then .error .checkMismatch
      else match counterTest e.counter t.counter s.settings.lookAhead with
        | some r => .error r
        | none =>
          match timeTest s.minute t.issue (s.classOf e).life s.settings.skew with
          | some r => .error r
          | none => .ok e

/-- Check 6 (R51). -/
def stateCheck (e : Cred) : Option Reason :=
  match e.state with
  | .active => none
  | .suspended => some .suspended
  | .revoked => some .revoked
  | .lapsed => some .lapsed

/-- Check 7 at a dock source or a named dock, in the order of R52. -/
def dockCheck (s : State) (mayHeld : Bool) (d : DockIx) : Option Reason :=
  let x := s.dock d
  match x.state with
  | .unfitted | .unknown | .faulted _ => some .dockFaulted
  | .queued | .releasing | .relatching => if x.link ≠ .online then some .dockFaulted else some .dockBusy
  | .empty => if x.link ≠ .online then some .dockFaulted else some .noBike
  | .docked =>
    if x.link ≠ .online then some .dockFaulted
    else if x.tag = 0#32 ∨ s.tagInRide x.tag = true then some .dockFaulted
    else if x.hold.isSome ∧ mayHeld = false then some .dockHeld
    else none

/-- A dock eligible for the kiosk's choice (R54). -/
def eligible (s : State) (mayHeld : Bool) (d : DockIx) : Bool :=
  let x := s.dock d
  decide (x.state = .docked ∧ x.link = .online ∧ x.tag ≠ 0#32) && !s.tagInRide x.tag &&
    (x.hold.isNone || mayHeld) && s.lineRuns d

/-- Minutes a dock's bike has been docked (R54). -/
def dockedFor (s : State) (d : DockIx) : Nat := (s.minute - (s.dock d).since).toNat

/-- The eligible dock docked longest; of several, the lowest index (R54). -/
def chooseDock (s : State) (mayHeld : Bool) : Option DockIx :=
  ((List.finRange 60).filter (fun d => eligible s mayHeld d)).foldl (fun best d =>
    match best with
    | none => some d
    | some b => if dockedFor s b < dockedFor s d then some d else some b) none

/-- Check 7 for a presentation: the dock it may be admitted at, or the reason (R52 to R54). -/
def dockFor (s : State) (o : Origin) (mayHeld : Bool) : Except Reason DockIx :=
  match o with
  | .dock d _ =>
    match dockCheck s mayHeld d with
    | some r => .error r
    | none => .ok d
  | .kiosk (some d) =>
    match dockCheck s mayHeld d with
    | some r => .error r
    | none => .ok d
  | .kiosk none =>
    match chooseDock s mayHeld with
    | some d => .ok d
    | none => .error .noDockFree

/-- Checks 6 to 10 for an entry that has passed checks 1 to 5 (R51 to R55). -/
def laterChecks (s : State) (o : Origin) (e : Cred) : Except Reason DockIx :=
  match stateCheck e with
  | some r => .error r
  | none =>
    match dockFor s o (s.classOf e).mayHeld with
    | .error r => .error r
    | .ok d =>
      if (s.classOf e).limit ≤ e.openRides then .error .rideLimit
      else if e.balance < (s.classOf e).minBal then .error .balanceLow
      else if s.free = [] then .error .storeFull
      else .ok d

/-! ## Ride numbers (R65) -/

/-- The number after a ride number: 65535 is followed by 1 (R65). -/
def nextNumber (n : RideNo) : RideNo := if n = 0xFFFF#16 then 1#16 else n + 1

/-- The first number from n upward that no ride holds (R65). As many steps as there are rides, and one
more, always find one: at most 256 (R65). -/
def freeNumber (s : State) : Nat → RideNo → RideNo
  | 0, n => n
  | k + 1, n => if (s.findRide n).isSome then freeNumber s k (nextNumber n) else n

/-! ## Records and indications of a decision -/

/-- The source field of a decision record: the dock index, or none for KIOSK (R59). -/
def Origin.source : Origin → Option DockIx
  | .dock d _ => some d
  | .kiosk _ => none

/-- The decision record of a decision (R59, R163). -/
def decisionRecord (x : Presentation) (r : Reason) (ride : Option RideNo) (d : Option DockIx) : Body :=
  .decision x.origin.source x.token.cred r ride d

/-- The SHOW of a refused decision: dropped where OPEN or CLOSE is pending, where the dock is QUEUED with a SHOW
pending, and at an UNFITTED dock (R60). -/
def State.showRefuse (s : State) (o : Origin) : State :=
  match o with
  | .kiosk _ => s
  | .dock d q =>
    match (s.dock d).state, (s.dock d).pending with
    | .unfitted, _ => s
    | _, .openCmd => s
    | _, .closeCmd => s
    | .queued, .showCmd _ _ => s
    | _, _ => s.setPending d (.showCmd .refuse q)

/-- The SHOW of an admission: ACCEPT when the dock was granted on its arrival, WAIT when not (R60). -/
def State.showAdmitted (s : State) (o : Origin) : State :=
  match o with
  | .kiosk _ => s
  | .dock d q => s.setPending d (.showCmd (if s.granted d then .accept else .wait) q)

/-- The mismatch count of a CHECK_MISMATCH decision at a dock, and the AUTO hold at the burst threshold (R62, R63). -/
def State.countMismatch (s : State) (d : DockIx) : State :=
  let n := min ((s.dock d).mismatch + 1) Config.mismatchMax
  s.updDock d (fun x => { x with
    mismatch := n
    hold := if s.settings.burst ≤ n ∧ x.hold = none then some .auto else x.hold })

/-- The AUTH_BURST notice of a decision that left the count at or above the threshold (R63, R168). -/
def State.burstNotice (s : State) (d : DockIx) (c : CredNo) : State :=
  if s.settings.burst ≤ (s.dock d).mismatch then
    s.notice (.dock d) (.authBurst (s.dock d).mismatch c (s.dock d).hold)
  else s

/-- The decision record of a refused CHECK_MISMATCH with the mismatch count and AUTH_BURST; the order in which the
two records take their slots is open (log 9). -/
def State.mismatchRecords (s : State) (x : Presentation) (d : DockIx) (b : Body) : State :=
  let s1 := s.countMismatch d
  if (s.dock d).state = .unfitted then s.postK b
  else if Config.burstNoticeFirst then (s1.burstNotice d x.token.cred).postK b
  else (s1.postK b).burstNotice d x.token.cred

/-- A refused decision: its record, the mismatch count of a dock source, and its SHOW (R59, R60, R62). -/
def State.refuse (s : State) (x : Presentation) (r : Reason) : State :=
  let b := decisionRecord x r none none
  let s1 := match r, x.origin with
    | .checkMismatch, .dock d _ => s.mismatchRecords x d b
    | _, _ => s.postK b
  s1.showRefuse x.origin

/-! ## Admission (R56 to R58) -/

/-- The ride an admission creates (R57). -/
def newRide (s : State) (x : Presentation) (e : Cred) (d : DockIx) (n : RideNo) (slot : Nat) : Ride :=
  { number := n, cred := x.token.cred, cls := e.cls, dock := d, tag := (s.dock d).tag, state := .queued,
    admMinute := s.minute, admSecond := s.second, release := none, takeUp := none, late := false, slot := slot,
    source := (match x.origin with
      | .dock _ _ => .dock
      | .kiosk _ => .kiosk),
    waitLeft := some s.settings.waitLimit, windowLeft := none, progress := .notSent }

/-- The dock of an admission becomes QUEUED, and for a dock source its mismatch count 0 (R58). -/
def State.queueDock (s : State) (o : Origin) (d : DockIx) : State :=
  s.updDock d (fun x => { x with
    state := .queued
    mismatch := match o with
      | .dock _ _ => 0
      | .kiosk _ => x.mismatch })

/-- The writes of an admission, in the order of R56. -/
def State.admitRide (s : State) (x : Presentation) (e : Cred) (d : DockIx) : State :=
  let s1 := if Config.rideCapacity ≤ s.rides.length then s.ageOut else s
  match s1.free with
  | [] => s1
  | slot :: rest =>
    let n := freeNumber s1 (s1.rides.length + 1) s1.nextRide
    let s2 := { s1 with free := rest, nextRide := nextNumber n }
    let s3 := (s2.putRide (newRide s1 x e d n slot)).updCred x.token.cred (fun c => { c with
      openRides := c.openRides + 1 })
    let s4 := s3.queueDock x.origin d
    let s5 := State.issueGrants { s4 with releaseQ := s4.releaseQ ++ [⟨d, n, false⟩] }
    let s6 := s5.postK (decisionRecord x .admitted (some n) (some d))
    s6.showAdmitted x.origin

/-! ## ADMISSION_DECISION (R42, R48) -/

/-- The head leaves the queue; hold-off ends when the number left is at or below the low mark (R42, R43). -/
def State.dequeue (s : State) : State :=
  let q := s.queue.tail
  { s with queue := q, holdOff := s.holdOff && decide (s.settings.low < q.length) }

/-- The counter of a token that has passed checks 3 to 5 becomes the last accepted counter (R50). -/
def State.spend (s : State) (t : Token) : State := s.updCred t.cred (fun e => { e with counter := t.counter })

/-- The decision for one presentation, already taken from the queue (R48). -/
def State.decideOn (s : State) (x : Presentation) : State :=
  match tokenChecks s x.token with
  | .error r => s.refuse x r
  | .ok e =>
    match laterChecks s x.origin e with
    | .error r => (s.spend x.token).refuse x r
    | .ok d => (s.spend x.token).admitRide x e d

/-- ADMISSION_DECISION: AU decides the head of the presentation queue (R42, R48); with an empty queue there is no
decision (log 1). -/
def execAdmissionDecision (s : State) : Outcome :=
  event (fun s =>
    match s.queue with
    | [] => s
    | x :: _ => s.dequeue.decideOn x) s

end Sys2Proof.Machine
end

