-- ==== Sys2Proof/Machine/Clock.lean ====
section
/-! DEFINITION. Reset, the station clock and the class table (chapter 1): POWER_ON_OR_PIN_RESET, SECOND_TICK,
MINUTE_ROLLOVER, CLOCK_SET, CLASS_SET. -/

namespace Sys2Proof.Machine

/-! ## Reset (R185) -/

/-- A port after reset; a select line found asserted starts no transaction until it is released (R185). -/
def resetPort (x : PortState) (selected : Bool) : PortState :=
  { x with trans := if selected then .ignored else .idle }

/-- POWER_ON_OR_PIN_RESET: every item to its reset value (R185); the commands that wait are not the part's. -/
def execPowerOnOrPinReset (selN selK : Bool) (s : State) : Outcome :=
  .next { State.reset with
    portN := resetPort State.reset.portN selN
    portK := resetPort State.reset.portK selK
    pending := s.pending }

/-! ## The second tick (R1, R2) -/

/-- The clock advances by one second, with the minute rollover (R1). -/
def State.tickClock (s : State) : State :=
  if h : s.second.val + 1 < 60 then { s with second := ⟨s.second.val + 1, h⟩ }
  else { s with second := 0, minute := s.minute + 1 }

/-- The mismatch counts are cleared at the minute rollover (R62). -/
def State.tickMismatch (s : State) : State :=
  if s.second.val + 1 < 60 then s else s.mapDocks (fun _ x => { x with mismatch := 0 })

/-- One second off the windows of a ride (R2, R68, R112). -/
def Ride.tick (r : Ride) : Ride :=
  { r with waitLeft := r.waitLeft.map (· - 1), windowLeft := r.windowLeft.map (· - 1) }

/-- One second more on a running timer, up to its limit (R2). -/
def Timer.tick (t : Timer) : Timer := { t with elapsed := min (t.elapsed + 1) t.limit }

/-- One second on a line's timers (R127, R135, R136); busy says that some dock of the line has work. -/
def LineCtl.tick (c : LineCtl) (enabled busy : Bool) (delay : Nat) : LineCtl :=
  let c1 := { c with
    errTimer := c.errTimer.map (fun t => min (t + 1) Config.errorPeriod)
    quietInterval := c.quietInterval.map Timer.tick }
  if c.state = .running ∧ enabled = true then
    if busy then { c1 with quietTimer := 0, quietDue := false }
    else
      let t := min (c.quietTimer + 1) Config.quietTimerMax
      { c1 with quietTimer := t, quietDue := decide (delay ≤ t) }
  else c1

/-- The second tick on one line. -/
def State.tickLine (s : State) (l : Line) : State :=
  s.updLine l (fun c => c.tick (s.settings.quiet l) (s.lineBusy l) s.settings.quietDelay)

/-- The second tick (R1): the clock, and every window that counts seconds (R2). What falls due at the tick is an
event of its own (log 4). -/
def State.tick (s : State) : State :=
  let s1 := s.tickMismatch.tickClock
  let s2 := { s1 with
    rides := s1.rides.map Ride.tick
    sweep := { s1.sweep with idle := s1.sweep.idle.map Timer.tick } }
  (s2.tickLine .a).tickLine .b

/-- SECOND_TICK (R1). -/
def execSecondTick (s : State) : Outcome := event State.tick s

/-- MINUTE_ROLLOVER (R1): the second tick that takes the second counter past 59; at any other second there is none
(log 3). -/
def execMinuteRollover (s : State) : Outcome :=
  event (fun s => if s.second.val + 1 < 60 then s else s.tick) s

/-! ## CLOCK SET (R3) -/

/-- A second value, clamped to 59 (R3). -/
def clampSecond (b : Byte) : Fin 60 := ⟨min b.toNat 59, by omega⟩

/-- CLOCK SET by its rule (R3, R4). -/
def clockSetRule (minute : Word16) (second : Byte) (s : State) : State × Reply :=
  ({ s with minute := minute, second := clampSecond second, clockSet := true }, ⟨okOr (decide (59 < second.toNat)), .none⟩)

def execClockSet (p : Port) (minute : Word16) (second : Byte) (s : State) : Outcome :=
  request p Req.clockSet.code 6 (onlyN p (clockSetRule minute second)) s

/-! ## CLASS SET (R6) -/

/-- The class record a CLASS SET stores: each field clamped into its range (R5, R6). -/
def classOfRequest (incl unit : Byte) (price cap minBal : Word16) (limit : Byte) (life : Word16) (held : Byte) :
    ClassRec :=
  { incl := clampNat 0 240 incl.toNat, unit := clampNat 1 240 unit.toNat, price := clampNat 0 1000 price.toNat,
    cap := clampNat 0 30000 cap.toNat, minBal := signed minBal, limit := clampNat 1 4 limit.toNat,
    life := clampNat 1 240 life.toNat, mayHeld := decide (held ≠ 0#8) }

/-- Was any field of a CLASS SET clamped (R6)? -/
def classClamped (incl unit : Byte) (price cap : Word16) (limit : Byte) (life : Word16) : Bool :=
  decide (240 < incl.toNat ∨ unit.toNat < 1 ∨ 240 < unit.toNat ∨ 1000 < price.toNat ∨ 30000 < cap.toNat ∨
    limit.toNat < 1 ∨ 4 < limit.toNat ∨ life.toNat < 1 ∨ 240 < life.toNat)

/-- CLASS SET by its rule (R6). -/
def classSetRule (cls incl unit : Byte) (price cap minBal : Word16) (limit : Byte) (life : Word16) (held : Byte)
    (s : State) : State × Reply :=
  match classOfCode cls with
  | none => answer s .badValue
  | some c =>
    ({ s with classes := s.classes.set c.val (classOfRequest incl unit price cap minBal limit life held) c.isLt },
      ⟨okOr (classClamped incl unit price cap limit life), .none⟩)

def execClassSet (p : Port) (cls incl unit : Byte) (price cap minBal : Word16) (limit : Byte) (life : Word16)
    (held : Byte) (s : State) : Outcome :=
  request p Req.classSet.code 16 (onlyN p (classSetRule cls incl unit price cap minBal limit life held)) s

end Sys2Proof.Machine
end

