-- ==== Sys2Proof/Machine/Credentials.lean ====
section
/-! DEFINITION. The credential table and sweeps (chapter 2): CRED_LOAD, CRED_STATE, CRED_BALANCE, CRED_REMOVE,
READ_CRED, SWEEP_OPEN, SWEEP_CLOSE, SWEEP_IDLE_EXPIRY. -/

namespace Sys2Proof.Machine

/-! ## Sweep idle timer (R38) -/

/-- The sweep idle timer starts from 0 with the limit in force (R34, R38). -/
def State.startIdle (s : State) : State :=
  { s with sweep := { s.sweep with idle := some ⟨0, s.settings.idleLimit⟩ } }

/-- While a sweep is open, the sweep idle timer restarts (R38). -/
def State.restartIdle (s : State) : State := if s.sweep.openNo = 0#8 then s else s.startIdle

/-! ## CRED LOAD (R24, R25, R33) -/

/-- The mark a taken CRED LOAD sets (R33). -/
def Sweep.mark (w : Sweep) : Byte := if w.openNo = 0#8 then w.lastClosed else w.openNo

/-- The balance a CRED LOAD starts from: the kept one where keep-local is set on an existing entry (R25). -/
def loadBalance (old : Option Cred) (keep : Bool) (carried : Int) : Int :=
  match old with
  | some e => if keep then e.balance else carried
  | none => carried

/-- The last accepted counter a CRED LOAD leaves (R25). -/
def loadCounter (old : Option Cred) (keep : Bool) (carried : Word16) : Word16 :=
  match old with
  | some e => if keep then e.counter else carried
  | none => carried

/-- The open-ride count a CRED LOAD leaves (R24, R25). -/
def loadOpenRides (old : Option Cred) : Nat :=
  match old with
  | some e => e.openRides
  | none => 0

/-- A CRED LOAD that has passed its checks (R24, R25, R28). -/
def State.loadCred (s : State) (c : CredNo) (st : CredState) (cls : Fin 4) (secret : BitVec 32)
    (counter : Word16) (balance : Int) (overdraft : Nat) (keep : Bool) : State × Reply :=
  let old := s.findCred c
  let d := min overdraft 32767
  let b := loadBalance old keep balance
  let e : Cred := { number := c, state := st, cls := cls, secret := secret, counter := loadCounter old keep counter,
                    balance := clampBalance d b, overdraft := d, openRides := loadOpenRides old, mark := s.sweep.mark }
  let s1 := s.putCred e
  let s2 := if st = .revoked then s1.cancelQueuedOf (fun x => decide (x = c)) else s1
  (s2, ⟨okOr (decide (d ≠ overdraft ∨ clampBalance d b ≠ b)), .none⟩)

/-- CRED LOAD by its rule: the checks of R24 in order, and the idle timer restarted whether it is taken or refused
(R38). -/
def credLoadRule (c : CredNo) (st cls : Byte) (secret : BitVec 32) (counter balance overdraft : Word16) (keep : Byte)
    (s : State) : State × Reply :=
  let s0 := s.restartIdle
  if c = 0#24 then answer s0 .badValue
  else match classOfCode cls with
    | none => answer s0 .badValue
    | some cl =>
      match settableState st with
      | none => answer s0 .badValue
      | some cs =>
        if (s0.findCred c).isNone ∧ Config.credCapacity ≤ s0.creds.length then answer s0 .full
        else s0.loadCred c cs cl secret counter (signed balance) overdraft.toNat (decide (keep ≠ 0#8))

def execCredLoad (p : Port) (c : CredNo) (st cls : Byte) (secret : BitVec 32) (counter balance overdraft : Word16)
    (keep : Byte) (s : State) : Outcome :=
  request p Req.credLoad.code 19 (onlyN p (credLoadRule c st cls secret counter balance overdraft keep)) s

/-! ## CRED STATE (R26) -/

def credStateRule (c : CredNo) (st : Byte) (s : State) : State × Reply :=
  match settableState st with
  | none => answer s .badValue
  | some cs =>
    match s.findCred c with
    | none => answer s .notFound
    | some e =>
      if e.state = cs then answer s .ok
      else
        let s1 := s.updCred c (fun x => { x with state := cs })
        (if cs = .revoked then s1.cancelQueuedOf (fun x => decide (x = c)) else s1, ⟨.ok, .none⟩)

def execCredState (p : Port) (c : CredNo) (st : Byte) (s : State) : Outcome :=
  request p Req.credState.code 7 (onlyN p (credStateRule c st)) s

/-! ## CRED BALANCE (R27) -/

/-- The new balance before clamping: mode 0 SET, mode 1 ADD; any other mode names nothing. -/
def newBalance (mode : Byte) (old amount : Int) : Option Int :=
  if mode = 0#8 then some amount else if mode = 1#8 then some (old + amount) else none

def credBalanceRule (c : CredNo) (mode : Byte) (amount : Word16) (s : State) : State × Reply :=
  match s.findCred c with
  | none => answer s .notFound
  | some e =>
    match newBalance mode e.balance (signed amount) with
    | none => answer s .badValue
    | some b =>
      (s.updCred c (fun x => { x with balance := clampBalance x.overdraft b }),
        ⟨okOr (decide (clampBalance e.overdraft b ≠ b)), .none⟩)

def execCredBalance (p : Port) (c : CredNo) (mode : Byte) (amount : Word16) (s : State) : Outcome :=
  request p Req.credBalance.code 9 (onlyN p (credBalanceRule c mode amount)) s

/-! ## CRED REMOVE (R30) -/

def credRemoveRule (c : CredNo) (s : State) : State × Reply :=
  match s.findCred c with
  | none => answer s .notFound
  | some e =>
    if e.openRides = 0 then (s.dropCred c, ⟨.ok, .none⟩)
    else if e.state = .lapsed then answer s .ok
    else ((s.updCred c (fun x => { x with state := .lapsed })).cancelQueuedOf (fun x => decide (x = c)), ⟨.ok, .none⟩)

def execCredRemove (p : Port) (c : CredNo) (s : State) : Outcome :=
  request p Req.credRemove.code 6 (onlyN p (credRemoveRule c)) s

/-! ## READ CRED (R31) -/

/-- Every field of an entry except the secret (R31). -/
def Cred.report (e : Cred) : CredReport :=
  { number := e.number, state := e.state, cls := e.cls, counter := e.counter, balance := e.balance,
    overdraft := e.overdraft, openRides := e.openRides, mark := e.mark }

def readCredRule (c : CredNo) (s : State) : State × Reply :=
  match s.findCred c with
  | none => answer s .notFound
  | some e => answer s .ok (.cred e.report)

def execReadCred (p : Port) (c : CredNo) (s : State) : Outcome := request p Req.readCred.code 6 (readCredRule c) s

/-! ## Abandoning a sweep (R37) -/

/-- An open sweep is abandoned: no entry is changed, SWEEP_ABANDONED is posted and SWEEP set (R37, R170). With no
sweep open the sweep state stands. -/
def State.abandonSweep (s : State) (cause : AbandonCause) (newNo : Option Byte) : State :=
  if s.sweep.openNo = 0#8 then s
  else
    let s1 := { s with sweep := { s.sweep with openNo := 0#8, idle := none } }
    (s1.notice .none (.sweepAbandoned s.sweep.openNo cause newNo)).latch .n evSweep

/-! ## SWEEP OPEN (R34) -/

def sweepOpenRule (n : Byte) (s : State) : State × Reply :=
  if n = 0#8 then answer s .badValue
  else
    let s1 := s.abandonSweep .reopen (some n)
    (State.startIdle { s1 with sweep := { s1.sweep with openNo := n } }, ⟨.ok, .none⟩)

def execSweepOpen (p : Port) (n : Byte) (s : State) : Outcome :=
  request p Req.sweepOpen.code 4 (onlyN p (sweepOpenRule n)) s

/-! ## SWEEP CLOSE (R35, R36) -/

/-- Kept, lapsed and deleted counts over the entries present (R36). -/
def sweepCounts (n : Byte) (creds : List Cred) : Nat × Nat × Nat :=
  (creds.countP (fun e => decide (e.mark = n)),
   creds.countP (fun e => decide (e.mark ≠ n ∧ e.openRides ≠ 0)),
   creds.countP (fun e => decide (e.mark ≠ n ∧ e.openRides = 0)))

/-- Unmarked entries are withdrawn: deleted with no open ride, else LAPSED (R35). -/
def withdraw (n : Byte) (creds : List Cred) : List Cred :=
  (creds.filter (fun e => decide (e.mark = n ∨ e.openRides ≠ 0))).map (fun e =>
    if e.mark = n then e else { e with state := .lapsed })

/-- Does a credential number name an entry withdrawn by a sweep of a number (R35)? -/
def State.withdrawn (s : State) (n : Byte) (c : CredNo) : Bool :=
  match s.findCred c with
  | some e => decide (e.mark ≠ n)
  | none => false

/-- The close of the open sweep (R35, R36). -/
def State.closeSweep (s : State) (n : Byte) : State × Reply :=
  let counts := sweepCounts n s.creds
  let s1 := { s with creds := withdraw n s.creds }
  let s2 := s1.cancelQueuedOf (s1.withdrawn n)
  let s3 := { s2 with sweep := { openNo := 0#8, lastClosed := n, idle := none } }
  let s4 := (s3.notice .none (.sweepDone n counts.1 counts.2.1 counts.2.2)).latch .n evSweep
  (s4, ⟨.ok, .sweepCounts counts.1 counts.2.1 counts.2.2⟩)

def sweepCloseRule (n : Byte) (s : State) : State × Reply :=
  if s.sweep.openNo = 0#8 then answer s .badState
  else if n ≠ s.sweep.openNo then answer s.restartIdle .badValue
  else s.closeSweep n

def execSweepClose (p : Port) (n : Byte) (s : State) : Outcome :=
  request p Req.sweepClose.code 4 (onlyN p (sweepCloseRule n)) s

/-! ## SWEEP_IDLE_EXPIRY (R38) -/

/-- Has a running timer reached its limit (R2)? -/
def timerDue (t : Option Timer) : Bool :=
  match t with
  | some x => decide (x.limit ≤ x.elapsed)
  | none => false

/-- SWEEP_IDLE_EXPIRY: the count has reached the limit and the sweep is abandoned (R38); otherwise there is no
expiry (log 1). -/
def execSweepIdleExpiry (s : State) : Outcome :=
  event (fun s => if timerDue s.sweep.idle then s.abandonSweep .idle none else s) s

end Sys2Proof.Machine
end

