-- ==== Sys2Proof/Machine/Docks.lean ====
section
/-! DEFINITION. Requests about docks and lines (chapters 5 and 7): DOCK_FIT, DOCK_HOLD, DOCK_FREE, READ_DOCK,
LINE_RESTART. -/

namespace Sys2Proof.Machine

/-! ## DOCK FIT (R88, R89, R134) -/

/-- The new map of a line: the addresses listed (R88). -/
def inMap (addrs : List Byte) (a : Addr) : Bool := addrs.any (fun b => decide (addrOfCode b = some a))

/-- A dock bound to a release may not be unfitted (R88, check 3). -/
def boundDock (x : Dock) : Bool := decide (x.state = .queued ∨ x.state = .releasing ∨ x.state = .relatching)

/-- Check 3 of R88: would a bound dock of the line be unfitted? -/
def unfitsBound (s : State) (l : Line) (addrs : List Byte) : Bool :=
  (List.finRange 30).any (fun a => !inMap addrs a && boundDock (s.dock (dockIx l a)))

/-- A dock record after a DOCK FIT (R89). -/
def Dock.refit (x : Dock) (listed : Bool) : Dock :=
  if listed then (if x.state = .unfitted then { state := .unknown } else x)
  else (if x.state = .unfitted then x else {})

/-- The fitted map of a line is written (R89). -/
def State.writeMap (s : State) (l : Line) (addrs : List Byte) : State :=
  s.mapDocks (fun d x => if lineOf d = l then x.refit (inMap addrs (addrOf d)) else x)

/-- DOCK FIT by its rule: more than 30 addresses are a wrong length (R192), then the checks of R88. -/
def dockFitRule (p : Port) (line : Byte) (addrs : List Byte) (s : State) : State × Reply :=
  if 30 < addrs.length then answer s .badFrame
  else if p = .k then answer s .wrongPort
  else match lineOfCode line with
    | none => answer s .badValue
    | some l =>
      if addrs.any (fun b => (addrOfCode b).isNone) then answer s .badValue
      else if unfitsBound s l addrs then answer s .badState
      else if addrs = [] then ((s.writeMap l addrs).disableLine l, ⟨.ok, .none⟩)
      else ((s.writeMap l addrs).enterBreak l .fit, ⟨.ok, .none⟩)

def execDockFit (p : Port) (line : Byte) (addrs : List Byte) (s : State) : Outcome :=
  request p Req.dockFit.code (5 + addrs.length) (dockFitRule p line addrs) s

/-! ## Holds (R102, R103) -/

def dockHoldRule (p : Port) (b : Byte) (s : State) : State × Reply :=
  match dockOfCode b with
  | none => answer s .badValue
  | some d =>
    if s.fitted d then (s.updDock d (fun x => { x with hold := some (holdOrigin p) }), ⟨.ok, .none⟩)
    else answer s .badState

def execDockHold (p : Port) (b : Byte) (s : State) : Outcome := request p Req.dockHold.code 4 (dockHoldRule p b) s

def dockFreeRule (b : Byte) (s : State) : State × Reply :=
  match dockOfCode b with
  | none => answer s .badValue
  | some d => (s.updDock d (fun x => { x with hold := none }), ⟨.ok, .none⟩)

def execDockFree (p : Port) (b : Byte) (s : State) : Outcome := request p Req.dockFree.code 4 (dockFreeRule b) s

/-! ## READ DOCK (R104) -/

def readDockRule (b : Byte) (s : State) : State × Reply :=
  match dockOfCode b with
  | none => answer s .badValue
  | some d => answer s .ok (.dock (s.dock d) ((s.rideAt d).map (fun r => r.number)) (s.granted d))

def execReadDock (p : Port) (b : Byte) (s : State) : Outcome := request p Req.readDock.code 4 (readDockRule b) s

/-! ## LINE RESTART (R133) -/

def lineRestartRule (b : Byte) (s : State) : State × Reply :=
  match lineOfCode b with
  | none => answer s .badValue
  | some l =>
    if (s.line l).state = .disabled then answer s .badState else (s.enterBreak l .request, ⟨.ok, .none⟩)

def execLineRestart (p : Port) (b : Byte) (s : State) : Outcome :=
  request p Req.lineRestart.code 4 (onlyN p (lineRestartRule b)) s

end Sys2Proof.Machine
end

