-- ==== Sys2Proof/Machine/Formats.lean ====
section
/-! DEFINITION. Byte layouts (chapter 12): dock-line frames and the judgement of a reply (R194, R121), record slots
(R193), and response frames (R192). -/

namespace Sys2Proof.Machine

/-! ## Dock-line frames (R194) -/

/-- The marked character of a frame to an address: 1 to 30. -/
def addrMark (a : Addr) : Byte := BitVec.ofNat 8 (a.val + 1)

/-- The marked character of a reply from an address: 81h to 9Eh (R116). -/
def replyMark (a : Addr) : Byte := BitVec.ofNat 8 (0x81 + a.val)

/-- The WAKE character (R116). -/
def wakeMark : Byte := 0x40#8

def ShowCode.code : ShowCode → Byte
  | .accept => 1#8 | .wait => 2#8 | .refuse => 3#8

/-- The command frame of a turn: marked address, command, acknowledgement, check (R117, R194). -/
def commandFrame (a : Addr) (cmd : Pending) (ack : Byte) : List Byte :=
  withCheck (addrMark a :: match cmd with
    | .none => [0x01#8, ack]
    | .openCmd => [0x02#8, ack]
    | .closeCmd => [0x03#8, ack]
    | .showCmd c q => [0x04#8, ack, c.code, q])

def latchCode : Latch → Byte
  | .locked => 0#8 | .unlatched => 1#8 | .jammed => 2#8

def latchOfCode (b : Byte) : Option Latch :=
  if b = 0#8 then some .locked else if b = 1#8 then some .unlatched else if b = 2#8 then some .jammed else none

def bit (b : Bool) (k : Nat) : Byte := if b then 1#8 <<< k else 0#8

/-- The condition character of a STATUS reply (R194). -/
def conditionByte (r : StatusReply) : Byte :=
  bit r.bike 0 ||| (latchCode r.latch <<< 1) ||| bit r.readerFault 3 ||| bit r.powerLow 4 ||| bit r.token.isSome 5

/-- The characters of a STATUS reply after its marked character, less the check (R194). -/
def statusBody (r : StatusReply) : List Byte :=
  [0x01#8, conditionByte r] ++ bytes4 r.tag ++ match r.token with
    | none => []
    | some t => [t.seq] ++ bytes3 t.token.cred ++ bytes2 t.token.counter ++ bytes2 t.token.issue ++ bytes4 t.token.tag

/-- A STATUS frame (R194). -/
def statusFrame (a : Addr) (r : StatusReply) : List Byte := withCheck (replyMark a :: statusBody r)

/-- A BUSY frame (R194). -/
def busyFrame (a : Addr) : List Byte := withCheck [replyMark a, 0x02#8]

/-- What a received reply is judged to be (R121). -/
inductive Judged where
  | goodStatus (r : StatusReply)
  | goodBusy
  | checkFailure
  | wrongAddress
  deriving DecidableEq, Repr

/-- Does the judgement fail the turn (R121)? -/
def Judged.bad : Judged → Bool
  | .goodStatus _ | .goodBusy => false
  | .checkFailure | .wrongAddress => true

/-- The reply of a condition character, a tag and a token; a latch value of 3 is a check failure, and the
token-present bit must match what follows (R194). -/
def statusOf (cond : Byte) (tag : BikeTag) (token : Option TokenRead) : Judged :=
  match latchOfCode ((cond >>> 1) &&& 3#8) with
  | none => .checkFailure
  | some l =>
    if cond.getLsbD 5 = token.isSome then
      .goodStatus { bike := cond.getLsbD 0, tag := tag, latch := l, readerFault := cond.getLsbD 3,
                    powerLow := cond.getLsbD 4, token := token }
    else .checkFailure

/-- The characters after the marked one, check included, of a reply with a right marked value and check (R194). -/
def judgeBody : List Byte → Judged
  | [c, _] => if c = 0x02#8 then .goodBusy else .checkFailure
  | [c, cond, t3, t2, t1, t0, _] => if c = 0x01#8 then statusOf cond (join4 t3 t2 t1 t0) none else .checkFailure
  | [c, cond, t3, t2, t1, t0, q, c2, c1, c0, n1, n0, m1, m0, g3, g2, g1, g0, _] =>
    if c = 0x01#8 then
      statusOf cond (join4 t3 t2 t1 t0)
        (some ⟨q, ⟨join3 c2 c1 c0, join2 n1 n0, join2 m1 m0, join4 g3 g2 g1 g0⟩⟩)
    else .checkFailure
  | _ => .checkFailure

/-- The judgement of a reply received in the turn of an address (R121). -/
def judgeReply (a : Addr) (marked : Byte) (rest : List Byte) : Judged :=
  if marked ≠ replyMark a then .wrongAddress
  else if crc8 (marked :: rest) ≠ 0#8 then .checkFailure
  else judgeBody rest

/-! ## Field codes (section 12.4) -/

def DockState.code : DockState → Byte
  | .unfitted => 0#8 | .unknown => 1#8 | .empty => 2#8 | .docked => 3#8 | .queued => 4#8 | .releasing => 5#8
  | .relatching => 6#8 | .faulted _ => 7#8

def Link.code : Link → Byte
  | .unknown => 0#8 | .online => 1#8 | .lost => 2#8

def RideState.code : RideState → Byte
  | .queued => 0#8 | .releasing => 1#8 | .relatching => 2#8 | .opened => 3#8

def LineState.code : LineState → Byte
  | .disabled => 0#8 | .brk => 1#8 | .running => 2#8 | .quiet => 3#8

def holdCode : Option HoldOrigin → Byte
  | none => 0#8 | some .n => 1#8 | some .k => 2#8 | some .auto => 3#8

def FaultReason.code : FaultReason → Byte
  | .jammed => 1#8 | .reader => 2#8

def pendingBytes : Pending → List Byte
  | .none => [0#8]
  | .openCmd => [1#8]
  | .closeCmd => [2#8]
  | .showCmd c q => [3#8, c.code, q]

def RideSource.code : RideSource → Byte
  | .dock => 0#8 | .kiosk => 1#8

def breakCode : Option BreakCause → Byte
  | none => 0#8 | some .fit => 1#8 | some .request => 2#8 | some .errors => 3#8 | some .rate => 4#8

def Reason.code : Reason → Byte
  | .admitted => 0x00#8 | .clockUnset => 0x01#8 | .unknownCredential => 0x02#8 | .checkMismatch => 0x03#8
  | .counterStale => 0x04#8 | .counterFar => 0x05#8 | .tokenExpired => 0x06#8 | .tokenEarly => 0x07#8
  | .suspended => 0x08#8 | .revoked => 0x09#8 | .lapsed => 0x0A#8 | .noBike => 0x0B#8 | .dockBusy => 0x0C#8
  | .dockHeld => 0x0D#8 | .dockFaulted => 0x0E#8 | .noDockFree => 0x0F#8 | .rideLimit => 0x10#8
  | .balanceLow => 0x11#8 | .storeFull => 0x12#8

def RideOutcome.code : RideOutcome → Byte
  | .taken => 0#8 | .notTaken => 1#8 | .queueTimeout => 2#8 | .cancelledPort => 3#8 | .cancelledCredential => 4#8
  | .latchFault => 5#8 | .dockLost => 6#8

def Status.code : Status → Byte
  | .ok => 0x00#8 | .clamped => 0x01#8 | .noResponse => 0x02#8 | .wrongPort => 0x03#8 | .badFrame => 0x04#8
  | .badValue => 0x05#8 | .notFound => 0x06#8 | .full => 0x07#8 | .holdOff => 0x08#8 | .limit => 0x09#8
  | .badState => 0x0A#8 | .empty => 0x0B#8

/-! ## Field widths -/

def flag (b : Bool) : Byte := if b then 1#8 else 0#8
/-- A count or quantity has two bytes (R192). -/
def count2 (n : Nat) : List Byte := bytes2 (BitVec.ofNat 16 n)
def int2 (x : Int) : List Byte := bytes2 (BitVec.ofInt 16 x)
def opt2 (x : Option Word16) : List Byte := bytes2 (x.getD 0#16)
def dockByte (d : DockIx) : Byte := BitVec.ofNat 8 d.val
def optDock (d : Option DockIx) : Byte := (d.map dockByte).getD 0#8

/-- A presence map: bit n for the n-th field that may be absent (R192, R193). -/
def presence : List Bool → Byte
  | [] => 0#8
  | b :: bs => (presence bs <<< 1) ||| flag b

/-! ## Record slots (R193) -/

/-- Flags of a trip record in header byte 3 (R193). -/
def Trip.flags (t : Trip) : Byte := bit t.clockStep 0 ||| bit t.capped 1 ||| bit t.late 2 ||| bit t.quick 3

def subjectBytes : Subject → List Byte
  | .dock d => [0#8, dockByte d]
  | .line l => [1#8, lineCode l]
  | .none => [2#8, 0#8]

def optRide (r : Option RideNo) : List Byte := opt2 r

/-- Kind-specific fields of a notice, from byte 9 (R193). DESIGN CHOICE: an absent field holds zeros (log 36). -/
def NoticeBody.bytes : NoticeBody → List Byte
  | .nodeLost none => [0#8, 0#8, 0#8]
  | .nodeLost (some (n, e)) => bytes2 n ++ [match e with
      | .cancelled => 1#8
      | .toRelatching => 2#8
      | .unchanged => 3#8]
  | .nodeBack .status => [0#8]
  | .nodeBack .busy => [1#8]
  | .latchJam t c r => bytes4 t ++ [match c with
      | .node => 1#8
      | .relatch => 2#8] ++ optRide r
  | .unauthRemoval t r => bytes4 t ++ optRide r
  | .rideStarted r c l => bytes2 r ++ bytes3 c ++ [flag l]
  | .authBurst n c h => [BitVec.ofNat 8 n] ++ bytes3 c ++ [holdCode h]
  | .lineDegraded n t => [BitVec.ofNat 8 n, BitVec.ofNat 8 t]
  | .lineRestarted c r => [breakCode c, BitVec.ofNat 8 r.code]
  | .sweepDone n k l d => [n] ++ count2 k ++ count2 l ++ count2 d
  | .sweepAbandoned n c m => [n, match c with
      | .idle => 1#8
      | .reopen => 2#8
      | .portClear => 3#8, m.getD 0#8]
  | .readerFault t => bytes4 t
  | .nodePowerLow => []

/-- Presence bits of a notice (R193). -/
def NoticeBody.presence : NoticeBody → Byte
  | .nodeLost r => flag r.isSome
  | .latchJam _ _ r => flag r.isSome
  | .unauthRemoval _ r => flag r.isSome
  | .sweepAbandoned _ _ m => flag m.isSome
  | .nodeBack _ | .rideStarted _ _ _ | .authBurst _ _ _ | .lineDegraded _ _ | .lineRestarted _ _
  | .sweepDone _ _ _ _ | .readerFault _ | .nodePowerLow => 0#8

/-- Record kind code of a body (section 12.4). -/
def Body.kindCode : Body → Byte
  | .trip k _ => k.kind.code
  | .notice _ _ _ b => b.kind.code
  | .decision _ _ _ _ _ => 0x20#8
  | .outcome _ _ _ _ => 0x21#8

/-- Presence map of a body, header byte 2 (R193). -/
def Body.presence : Body → Byte
  | .trip _ t => Machine.presence
      [t.ride.isSome, t.releaseAt.isSome, t.returnAt.isSome, t.release.isSome, t.duration.isSome, t.balance.isSome]
  | .notice _ _ _ b => b.presence
  | .decision _ _ _ r d => Machine.presence [r.isSome, d.isSome]
  | .outcome _ _ _ _ => 0#8

/-- Flags of a body, in the low bits of header byte 3 (R193). -/
def Body.flags : Body → Byte
  | .trip _ t => t.flags
  | .notice _ _ _ _ | .decision _ _ _ _ _ | .outcome _ _ _ _ => 0#8

/-- The body from byte 4 (R193). DESIGN CHOICE: an optional field that is absent, a decision's source apart, holds zeros;
R193 gives 0 only to bytes it does not list (log 36). -/
def Body.bytes : Body → List Byte
  | .trip _ t => optRide t.ride ++ bytes3 t.cred ++ bytes4 t.tag ++ [optDock t.releaseAt, optDock t.returnAt] ++
      opt2 t.release ++ bytes2 t.endMinute ++ count2 (t.duration.getD 0) ++ count2 t.charge ++ count2 t.shortfall ++
      int2 (t.balance.getD 0)
  | .notice sub m sec b => subjectBytes sub ++ bytes2 m ++ [BitVec.ofNat 8 sec.val] ++ b.bytes
  | .decision src c r n d => [(src.map dockByte).getD 0x80#8] ++ bytes3 c ++ [r.code] ++ optRide n ++ [optDock d]
  | .outcome n c d o => bytes2 n ++ bytes3 c ++ [dockByte d, o.code]

/-- The 32 bytes of a record's slot (R193). -/
def Record.bytes (r : Record) : List Byte :=
  ([r.body.kindCode, BitVec.ofNat 8 r.level, r.body.presence, bit r.clockSet 7 ||| r.body.flags] ++ r.body.bytes ++
    List.replicate 32 0#8).take 32

/-! ## Response frames (R192) -/

/-- Fields of READ DOCK, in the order of R86 and R104, with their presence map. -/
def dockFields (d : Dock) (ride : Option RideNo) (grant : Bool) : List Byte :=
  let reason := match d.state with
    | .faulted r => r.code
    | .unfitted | .unknown | .empty | .docked | .queued | .releasing | .relatching => 0#8
  [presence [decide (d.tag ≠ 0#32), decide (reason ≠ 0#8), ride.isSome],
    flag (decide (d.state ≠ .unfitted)), d.state.code, d.link.code] ++ bytes4 d.tag ++
    (if d.tag = 0#32 then [0#8, 0#8] else bytes2 d.since) ++ [holdCode d.hold, reason] ++ pendingBytes d.pending ++
    count2 d.failed ++ count2 d.busy ++ [d.ack] ++ count2 d.relatch ++ count2 d.mismatch ++ [flag d.powerLow] ++
    optRide ride ++ [flag grant]

/-- Fields of READ RIDE, in the order of R64 and R85, with their presence map. -/
def rideFields (r : Ride) : List Byte :=
  let left := if r.state = .releasing then r.windowLeft else none
  [presence [r.release.isSome, r.takeUp.isSome, left.isSome]] ++ bytes2 r.number ++ bytes3 r.cred ++
    [BitVec.ofNat 8 r.cls.val, dockByte r.dock] ++ bytes4 r.tag ++ [r.state.code] ++ bytes2 r.admMinute ++
    [BitVec.ofNat 8 r.admSecond.val] ++ opt2 r.release ++ opt2 r.takeUp ++ [flag r.late] ++ count2 r.slot ++
    [r.source.code] ++ count2 (left.getD 0)

/-- Fields of READ STATION, in the order of R178. -/
def stationFields (r : StationReport) : List Byte :=
  bytes2 r.minute ++ [BitVec.ofNat 8 r.second.val, flag r.clockSet] ++ count2 r.freeCount ++ count2 r.rides ++
    count2 r.creds ++ count2 r.queued ++ [flag r.holdOff] ++ count2 r.releaseQ ++ count2 r.grantedQ ++
    count2 r.grants ++ count2 r.budget ++ [r.lineA.code, r.lineB.code, r.openSweep, r.lastClosed] ++
    count2 r.posted ++ count2 r.held

/-- Fields of STATION SET, in the order of R187 and R188, with their presence map: the line of a setting held per line
and the second mark may be absent, and an absent field holds zeros (R192, log 14). -/
def settingFields (name : Byte) (line : Option Line) (value : Nat) (low : Option Nat) : List Byte :=
  [presence [line.isSome, low.isSome], name, (line.map lineCode).getD 0#8] ++ count2 value ++ count2 (low.getD 0)

/-- The fields of a response as bytes (R192). -/
def Fields.bytes : Fields → List Byte
  | .none => []
  | .cred r => bytes3 r.number ++ [r.state.code, BitVec.ofNat 8 r.cls.val] ++ bytes2 r.counter ++ int2 r.balance ++
      count2 r.overdraft ++ count2 r.openRides ++ [r.mark]
  | .sweepCounts k l d => count2 k ++ count2 l ++ count2 d
  | .setting n l v low => settingFields n l v low
  | .level l => [BitVec.ofNat 8 l]
  | .rideClosed n c sh b => bytes2 n ++ count2 c ++ count2 sh ++ int2 b
  | .dock d r g => dockFields d r g
  | .ride r => rideFields r
  | .taken n r => count2 n ++ r.bytes
  | .station r => stationFields r
  | .events e => [e]
  | .eventMasks e m => [e, m]

/-- The response frame a COLLECT shifts out, given the events present and masked at its beginning (R175, R192). -/
def responseBytes (held : Option Response) (present masks : Byte) : List Byte :=
  match held with
  | none => withCheck [Status.noResponse.code, 0x00#8, present, masks, 0x00#8]
  | some r =>
    withCheck ([r.status.code, r.code, present, masks, BitVec.ofNat 8 r.fields.bytes.length] ++ r.fields.bytes)

end Sys2Proof.Machine
end

