-- ==== Sys2Proof/Machine/Lines.lean ====
section
/-! DEFINITION. Events of a dock line (chapter 7): TURN_START, COMMAND_DELIVERED, REPLY_START, STATUS_REPLY,
BUSY_REPLY, BAD_REPLY, REPLY_GAP_TIMEOUT, REPLY_WINDOW_EXPIRY, ERROR_PERIOD_BOUNDARY, BREAK_TIME_END, RECOVERY_END,
QUIET_ENTRY, QUIET_INTERVAL_EXPIRY, WAKE. An event whose condition does not hold does not occur (log 1). -/

namespace Sys2Proof.Machine

/-! ## Turns (R120) -/

/-- Is a line RUNNING or QUIET? -/
def State.lineOn (s : State) (l : Line) : Bool :=
  decide ((s.line l).state = .running ∨ (s.line l).state = .quiet)

/-- The QUEUED ride at a dock has OPEN in the turn in flight, unless a turn has delivered it already (R68). -/
def State.sendOpen (s : State) (d : DockIx) : State :=
  { s with rides := s.rides.map (fun r =>
      if r.dock = d ∧ r.state = .queued ∧ r.progress = .notSent then { r with progress := .inFlight } else r) }

/-- A turn starts at the polling position: command, acknowledgement and reply window are fixed (R117, R120, R140). -/
def State.startTurn (s : State) (l : Line) (a : Addr) : State :=
  let x := s.dock (dockIx l a)
  let s1 := s.updLine l (fun c => { c with
    turn := some ⟨a, x.pending, x.ack, s.settings.replyWindow, .sending⟩ })
  if x.pending = .openCmd then s1.sendOpen (dockIx l a) else s1

/-- TURN_START (R120): a round is in progress on a RUNNING or QUIET line and no turn is in flight. -/
def execTurnStart (l : Line) (s : State) : Outcome :=
  event (fun s =>
    let c := s.line l
    match c.pos, c.turn with
    | some a, none => if s.lineOn l ∧ c.roundOn = true then s.startTurn l a else s
    | _, _ => s) s

/-- Change the phase of the turn in flight. -/
def State.setPhase (s : State) (l : Line) (ph : TurnPhase) : State :=
  s.updLine l (fun c => { c with turn := c.turn.map (fun t => { t with phase := ph }) })

/-- The phase of the turn in flight on a RUNNING or QUIET line. -/
def State.phase (s : State) (l : Line) : Option TurnPhase :=
  if s.lineOn l then (s.line l).turn.map (fun t => t.phase) else none

/-- COMMAND_DELIVERED (R120): the last character of the command frame has been sent and the reply window starts. -/
def execCommandDelivered (l : Line) (s : State) : Outcome :=
  event (fun s => if s.phase l = some .sending then s.setPhase l .awaiting else s) s

/-! ## The end of a turn -/

/-- Is the event the end of a reply: a reply has begun, or its marked character arrives in the open window with the
event itself (log 6)? The marked character is the one given. -/
def State.replyOpen (s : State) (l : Line) (marked : Byte) : Bool :=
  decide (s.phase l = some .awaiting ∨ s.phase l = some (.receiving marked))

/-- A line error: the error count rises, and at the threshold LINE_DEGRADED is posted and the line restarts itself
(R128, R129, R169). -/
def State.lineError (s : State) (l : Line) : State :=
  let n := (s.line l).errors + 1
  let s1 := s.updLine l (fun c => { c with errors := n })
  if s.settings.errThreshold ≤ n then
    (s1.notice (.line l) (.lineDegraded n s.settings.errThreshold)).enterBreak l .errors
  else s1

/-- The turn in flight fails (R121, R124): the command was delivered, the busy streak becomes 0, the failed turns
rise, and a line error is counted after that (R128). -/
def State.endFailed (s : State) (l : Line) (t : Turn) (isError : Bool) : State :=
  let d := dockIx l t.addr
  let s1 := (settleOpen s d true).endTurn l
  let s2 := (s1.updDock d (fun x => { x with busy := 0 })).failTurn d
  if isError then s2.lineError l else s2

/-- The line's own writes at a good STATUS reply (R122). -/
def State.clearCounts (s : State) (d : DockIx) (t : Turn) : State :=
  s.updDock d (fun x => { x with
    failed := 0
    busy := 0
    pending := match t.cmd with
      | .showCmd c q => if x.pending = .showCmd c q then .none else x.pending
      | .none | .openCmd | .closeCmd => x.pending })

/-- OPEN follows a delivered SHOW at a QUEUED dock that holds a grant (R61, R122). -/
def State.openAfterShow (s : State) (d : DockIx) : State :=
  if (s.dock d).state = .queued ∧ s.granted d = true ∧ (s.dock d).pending = .none then s.setPending d .openCmd else s

/-- Quiet activity: the quiet timer becomes 0, and a QUIET line returns to RUNNING (R135, R137). -/
def State.quietActivity (s : State) (l : Line) : State :=
  (s.updLine l (fun c => { c with quietTimer := 0, quietDue := false })).quietReturn l

/-- A good STATUS reply to the turn in flight (R122). -/
def State.endStatus (s : State) (l : Line) (t : Turn) (r : StatusReply) : State :=
  let d := dockIx l t.addr
  let before := s.dock d
  let s1 := ((settleOpen s d true).endTurn l).clearCounts d t
  let s2 := (s1.handleStatus d r (decide (t.cmd = .closeCmd))).openAfterShow d
  if newToken before r || bikeChange before r then s2.quietActivity l else s2

/-- STATUS_REPLY (R122): a good STATUS reply from the dock whose turn it is. -/
def execStatusReply (l : Line) (r : StatusReply) (s : State) : Outcome :=
  event (fun s =>
    match (s.line l).turn with
    | some t => if s.replyOpen l (replyMark t.addr) then s.endStatus l t r else s
    | none => s) s

/-- A good BUSY reply to the turn in flight (R123). -/
def State.endBusy (s : State) (l : Line) (t : Turn) : State :=
  let d := dockIx l t.addr
  let before := s.dock d
  let s1 := ((settleOpen s d false).endTurn l).updDock d (fun x => { x with
    link := .online
    failed := if x.link = .lost then 0 else x.failed })
  let s2 := if before.link = .lost then s1.notice (.dock d) (.nodeBack .busy) else s1
  if Config.busyLimit ≤ before.busy + 1 then (s2.updDock d (fun x => { x with busy := 0 })).failTurn d
  else s2.updDock d (fun x => { x with busy := x.busy + 1 })

/-- BUSY_REPLY (R123). -/
def execBusyReply (l : Line) (s : State) : Outcome :=
  event (fun s =>
    match (s.line l).turn with
    | some t => if s.replyOpen l (replyMark t.addr) then s.endBusy l t else s
    | none => s) s

/-- BAD_REPLY (R121): the characters received are judged check failure or wrong address. -/
def execBadReply (l : Line) (marked : Byte) (rest : List Byte) (s : State) : Outcome :=
  event (fun s =>
    match (s.line l).turn with
    | some t =>
      if s.replyOpen l marked ∧ (judgeReply t.addr marked rest).bad = true then s.endFailed l t true else s
    | none => s) s

/-- REPLY_GAP_TIMEOUT (R121): a gap within a reply that has begun has it judged at once, as check failure or wrong
address. -/
def execReplyGapTimeout (l : Line) (s : State) : Outcome :=
  event (fun s =>
    match (s.line l).turn, s.phase l with
    | some t, some (.receiving _) => s.endFailed l t true
    | _, _ => s) s

/-- REPLY_WINDOW_EXPIRY (R121): no marked character before the window expired; a line error only at a dock whose
link is ONLINE. -/
def execReplyWindowExpiry (l : Line) (s : State) : Outcome :=
  event (fun s =>
    match (s.line l).turn with
    | some t =>
      if s.phase l = some .awaiting then
        s.endFailed l t (decide ((s.dock (dockIx l t.addr)).link = .online))
      else s
    | none => s) s

/-- REPLY_START (R121): a marked character in the open reply window begins the reply; elsewhere the character is
discarded (R115, R116). -/
def execReplyStart (l : Line) (marked : Byte) (s : State) : Outcome :=
  event (fun s => if s.phase l = some .awaiting then s.setPhase l (.receiving marked) else s) s

/-! ## Error periods and breaks (R127, R130, R131) -/

/-- ERROR_PERIOD_BOUNDARY (R127): the eighth tick of the period has come; count and timer start again. -/
def execErrorPeriodBoundary (l : Line) (s : State) : Outcome :=
  event (fun s =>
    match (s.line l).errTimer with
    | some t =>
      if Config.errorPeriod ≤ t then s.updLine l (fun c => { c with errors := 0, errTimer := some 0 }) else s
    | none => s) s

/-- BREAK_TIME_END (R130): 96 character times at the break level have passed; the line is released to idle. -/
def execBreakTimeEnd (l : Line) (s : State) : Outcome :=
  event (fun s =>
    if (s.line l).state = .brk ∧ (s.line l).breakTimer = .breakTime then
      s.updLine l (fun c => { c with breakTimer := .recovery })
    else s) s

/-- A line enters RUNNING at the end of its recovery time (R131, R169). -/
def State.recover (s : State) (l : Line) : State :=
  let s1 := (s.updLine l (fun c => { c with
    state := .running, breakTimer := .stopped, errTimer := some 0, quietTimer := 0, quietDue := false })).latch
      .n evLine
  let s2 := s1.notice (.line l) (.lineRestarted (s.line l).breakCause (s.line l).rate)
  s2.issueGrants.startRound l

/-- RECOVERY_END (R131): 12 character times of recovery have passed. -/
def execRecoveryEnd (l : Line) (s : State) : Outcome :=
  event (fun s => if (s.line l).state = .brk ∧ (s.line l).breakTimer = .recovery then s.recover l else s) s

/-! ## Quiet mode (R135 to R137) -/

/-- QUIET_ENTRY (R135): a tick has brought the quiet timer of a RUNNING line to the quiet delay, and the line still
has nothing to do (log 4). -/
def execQuietEntry (l : Line) (s : State) : Outcome :=
  event (fun s =>
    if (s.line l).state = .running ∧ s.settings.quiet l = true ∧ (s.line l).quietDue = true ∧ s.lineBusy l = false then
      (s.updLine l (fun c => { c with
        state := .quiet, quietDue := false, quietInterval := some ⟨0, s.settings.quietInterval⟩ })).latch .n evLine
    else s) s

/-- QUIET_INTERVAL_EXPIRY (R136): the timer starts again, and a round starts now or when the one in progress ends. -/
def execQuietIntervalExpiry (l : Line) (s : State) : Outcome :=
  event (fun s =>
    let c := s.line l
    match c.quietInterval with
    | some t =>
      if c.state = .quiet ∧ t.limit ≤ t.elapsed then
        let s1 := s.updLine l (fun c => { c with
          quietInterval := some ⟨0, s.settings.quietInterval⟩, roundOwed := c.roundOn })
        if c.roundOn then s1 else s1.startRound l
      else s
    | none => s) s

/-- WAKE (R137): outside a turn it returns a QUIET line to RUNNING; in the open reply window it is a wrong-address
reply of the turn; elsewhere it is discarded (R115, R116). -/
def execWake (l : Line) (s : State) : Outcome :=
  event (fun s =>
    match (s.line l).turn with
    | none => s.quietReturn l
    | some t => if s.phase l = some .awaiting then s.endFailed l t true else s) s

end Sys2Proof.Machine
end

