-- ==== Sys2Proof/WellFormed.lean ====
section
/-! DEFINITION. Which commands are well formed: those whose operands the interface of the part can carry. -/

namespace Sys2Proof

/-- A frame that R173 refuses BAD_FRAME: some bit was shifted, the first byte is not the COLLECT code (R172), and
the frame is cut within a byte or spells no request. -/
def badFrameWf (p : Port) (bytes : List Byte) (tail : List Bool) : Bool :=
  decide (tail.length < 8) && (!tail.isEmpty || !bytes.isEmpty) && decide (bytes.head? ≠ some Config.collectCode)
    && (!tail.isEmpty || (requestOfFrame p bytes).isNone)

/-- A STATUS reply that shows no bike carries bike tag 0 (R118). -/
def statusWf (r : StatusReply) : Bool := r.bike || decide (r.tag = 0#32)

/-- Well-formed commands. -/
def Instr.wellFormed : Instr → Bool
  | .dockFit _ _ as => decide (as.length ≤ 30)
  | .badFrame p bytes tail => badFrameWf p bytes tail
  | .statusReply _ r => statusWf r
  | .queueWaitExpiry n => decide (n ≠ 0#16)
  | .takeUpWindowExpiry n => decide (n ≠ 0#16)
  | .powerOnOrPinReset _ _ | .secondTick | .minuteRollover | .clockSet _ _ _ | .classSet _ _ _ _ _ _ _ _ _ _
  | .credLoad _ _ _ _ _ _ _ _ _ | .credState _ _ _ | .credBalance _ _ _ _ | .credRemove _ _ | .readCred _ _
  | .sweepOpen _ _ | .sweepClose _ _ | .sweepIdleExpiry | .stationSet _ _ _ _ | .kindSet _ _ _ | .rideClose _ _ _
  | .lineRestart _ _ | .tokenPresent _ _ _ | .dockHold _ _ | .dockFree _ _ | .readDock _ _ | .rideCancel _ _
  | .readRide _ _ _ | .take _ | .giveBack _ _ | .readStation _ | .maskSet _ _ | .maskClear _ _ | .eventClear _ _
  | .portClear _ | .collect _ _ | .admissionDecision | .turnStart _ | .commandDelivered _ | .busyReply _
  | .badReply _ _ _ | .replyGapTimeout _ | .replyWindowExpiry _ | .errorPeriodBoundary _ | .breakTimeEnd _
  | .recoveryEnd _ | .quietEntry _ | .quietIntervalExpiry _ | .wake _ | .replyStart _ _ | .transactionStart _
  | .emptyTransactionEnd _ => true

end Sys2Proof
end

