-- ==== Sys2Proof/Machine/Ports.lean ====
section
/-! DEFINITION. The ports themselves (chapter 10): READ_STATION, MASK_SET, MASK_CLEAR, EVENT_CLEAR, PORT_CLEAR,
COLLECT, BAD_FRAME, TRANSACTION_START, EMPTY_TRANSACTION_END. -/

namespace Sys2Proof.Machine

/-! ## READ STATION (R178) -/

/-- Station-wide counts and states, with the sending port's own list and held slots (R178). -/
def State.report (s : State) (p : Port) : StationReport :=
  { minute := s.minute, second := s.second, clockSet := s.clockSet, freeCount := s.free.length,
    rides := s.rides.length, creds := s.creds.length, queued := s.queue.length, holdOff := s.holdOff,
    releaseQ := s.releaseQ.length, grantedQ := s.releaseQ.countP (fun e => e.granted), grants := s.grants.length,
    budget := s.settings.budget, lineA := s.lineA.state, lineB := s.lineB.state, openSweep := s.sweep.openNo,
    lastClosed := s.sweep.lastClosed, posted := (s.postList p).length, held := (s.port p).taken.length }

def readStationRule (p : Port) (s : State) : State × Reply := answer s .ok (.station (s.report p))

def execReadStation (p : Port) (s : State) : Outcome := request p Req.readStation.code 3 (readStationRule p) s

/-! ## Masks and events (R180, R181) -/

def maskSetRule (p : Port) (e : Byte) (s : State) : State × Reply :=
  if eventsOk p e then
    let s1 := s.updPort p (fun x => { x with masks := x.masks ||| e })
    (s1, ⟨.ok, .eventMasks (s1.present p) (s1.port p).masks⟩)
  else answer s .badValue

def execMaskSet (p : Port) (e : Byte) (s : State) : Outcome := request p Req.maskSet.code 4 (maskSetRule p e) s

def maskClearRule (p : Port) (e : Byte) (s : State) : State × Reply :=
  if eventsOk p e then
    let s1 := s.updPort p (fun x => { x with masks := x.masks &&& ~~~e })
    (s1, ⟨.ok, .eventMasks (s1.present p) (s1.port p).masks⟩)
  else answer s .badValue

def execMaskClear (p : Port) (e : Byte) (s : State) : Outcome := request p Req.maskClear.code 4 (maskClearRule p e) s

def eventClearRule (p : Port) (e : Byte) (s : State) : State × Reply :=
  if eventsOk p e then
    let s1 := s.updPort p (fun x => { x with latched := x.latched &&& ~~~e })
    (s1, ⟨.ok, .events (s1.present p)⟩)
  else answer s .badValue

def execEventClear (p : Port) (e : Byte) (s : State) : Outcome := request p Req.eventClear.code 4 (eventClearRule p e) s

/-! ## PORT CLEAR (R183) -/

/-- Steps 1 to 4 of R183; step 5 is the response of any request. -/
def portClearRule (p : Port) (s : State) : State × Reply :=
  let s1 := s.updPort p (fun x => { x with held := none, latched := 0#8 })
  let s2 := s1.untake p
  (if p = .n then s2.abandonSweep .portClear none else s2, ⟨.ok, .none⟩)

def execPortClear (p : Port) (s : State) : Outcome := request p Req.portClear.code 3 (portClearRule p) s

/-! ## COLLECT (R175) -/

/-- The bytes a COLLECT shifts out: the fill value for its first byte, then the response, then the fill value
(R175, R192). -/
def collectOut (resp : List Byte) (bytes : Nat) : List Byte :=
  Config.fill :: (resp.take bytes ++ List.replicate (bytes - resp.length) Config.fill)

/-- A COLLECT whose transaction shifted this many whole bytes after the COLLECT code, with the events present and
masked at its beginning: the held response is removed when it was shifted whole (R175). -/
def State.collect (s : State) (p : Port) (present masks : Byte) (bytes : Nat) : State :=
  let resp := responseBytes (s.port p).held present masks
  (s.updPort p (fun x => { x with held := if resp.length ≤ bytes then none else x.held })).endTransaction p
    (collectOut resp bytes)

/-- COLLECT (R175). A COLLECT with no transaction begun reads the events now, as one that begins now (log 6). -/
def execCollect (p : Port) (bytes : Nat) (s : State) : Outcome :=
  match (s.port p).trans with
  | .ignored => .next (s.endTransaction p [])
  | .started present masks => event (fun s => s.collect p present masks bytes) s
  | .idle => event (fun s => s.collect p (s.present p) (s.port p).masks bytes) s

/-! ## BAD_FRAME (R173) -/

/-- The request code answered: the first byte of the frame, as received (R192); open for a frame that ended within
its first byte (log 11). -/
def frameCode (bytes : List Byte) (tail : List Bool) : Byte :=
  match bytes with
  | c :: _ => c
  | [] => Config.partialFrameCode tail

/-- BAD_FRAME: a frame that is refused replaces the held response and changes nothing else (R173, R174); a frame
that is not bad is not this event (log 1). -/
def execBadFrame (p : Port) (bytes : List Byte) (tail : List Bool) (s : State) : Outcome :=
  if badFrameWf p bytes tail then
    request p (frameCode bytes tail) bytes.length (fun s => answer s .badFrame) s
  else .next s

/-! ## Transactions (R172) -/

/-- TRANSACTION_START: the select line is asserted; the events a COLLECT would report are read (R172, R175). A line
that is asserted already starts nothing (log 1, R185). -/
def execTransactionStart (p : Port) (s : State) : Outcome :=
  event (fun s =>
    if (s.port p).trans = .idle then
      s.updPort p (fun x => { x with trans := .started (s.present p) x.masks, dataOut := [] })
    else s) s

/-- EMPTY_TRANSACTION_END: the select line is released with no byte shifted; no request is taken and the held
response stays (R172). -/
def execEmptyTransactionEnd (p : Port) (s : State) : Outcome :=
  event (fun s => if (s.port p).trans = .idle then s else s.endTransaction p []) s

end Sys2Proof.Machine
end

