-- ==== Sys2Proof/Machine/Records.lean ====
section
/-! DEFINITION. Requests about records (chapter 8): TAKE, GIVE_BACK, KIND_SET. -/

namespace Sys2Proof.Machine

/-! ## TAKE (R150) -/

/-- A post list without its head. -/
def State.dropHead (s : State) (p : Port) : State :=
  match p with
  | .n => { s with listN := s.listN.tail }
  | .k => { s with listK := s.listK.tail }

def takeRule (p : Port) (s : State) : State × Reply :=
  if Config.heldLimit p ≤ (s.port p).taken.length then answer s .limit
  else match s.postList p with
    | [] => answer s .empty
    | x :: _ =>
      ((s.dropHead p).updPort p (fun y => { y with taken := y.taken ++ [x] }), ⟨.ok, .taken x.slot x.record⟩)

def execTake (p : Port) (s : State) : Outcome := request p Req.take.code 3 (takeRule p) s

/-! ## GIVE BACK (R151) -/

def giveBackRule (p : Port) (n : Word16) (s : State) : State × Reply :=
  if 383 < n.toNat then answer s .badValue
  else if (s.port p).taken.any (fun x => decide (x.slot = n.toNat)) then
    ((s.updPort p (fun y => { y with taken := y.taken.filter (fun x => decide (x.slot ≠ n.toNat)) })).freeSlot n.toNat,
      ⟨.ok, .none⟩)
  else answer s .notFound

def execGiveBack (p : Port) (n : Word16) (s : State) : Outcome := request p Req.giveBack.code 5 (giveBackRule p n) s

/-! ## KIND SET (R154) -/

/-- The level a KIND SET stores: 0 to 3 for a notice kind, 1 to 3 for a trip record kind (R154). -/
def storedLevel (k : Kind) (level : Byte) : Fin 4 :=
  ⟨min 3 (if k.isTrip then max 1 level.toNat else level.toNat), by omega⟩

def kindSetRule (kind level : Byte) (s : State) : State × Reply :=
  match kindOfCode kind with
  | none => answer s .badValue
  | some k =>
    let v := storedLevel k level
    ({ s with levels := s.levels.set k.ix.val v k.ix.isLt }, ⟨okOr (decide (v.val ≠ level.toNat)), .level v.val⟩)

def execKindSet (p : Port) (kind level : Byte) (s : State) : Outcome :=
  request p Req.kindSet.code 5 (onlyN p (kindSetRule kind level)) s

end Sys2Proof.Machine
end

