-- ==== Sys2Proof/Machine/Rides.lean ====
section
/-! DEFINITION. Requests and expiries about rides (chapters 4 and 6): RIDE_CLOSE, RIDE_CANCEL, READ_RIDE,
QUEUE_WAIT_EXPIRY, TAKE_UP_WINDOW_EXPIRY. -/

namespace Sys2Proof.Machine

/-! ## RIDE CLOSE (R82) -/

def rideCloseRule (t : BikeTag) (endMinute : Minute) (s : State) : State × Reply :=
  if t = 0#32 then answer s .badValue
  else match s.rideOfTag t with
    | none => answer s .notFound
    | some r =>
      if r.state = .queued then answer s .badState
      else
        let f := s.figures r endMinute
        (s.finishRide r .closedRemote none endMinute, ⟨.ok, .rideClosed r.number f.charge f.shortfall f.balance⟩)

def execRideClose (p : Port) (t : BikeTag) (endMinute : Minute) (s : State) : Outcome :=
  request p Req.rideClose.code 9 (onlyN p (rideCloseRule t endMinute)) s

/-! ## RIDE CANCEL (R77) -/

def rideCancelRule (n : RideNo) (s : State) : State × Reply :=
  match s.findRide n with
  | none => answer s .notFound
  | some r =>
    match r.state with
    | .queued => (s.cancelRide r .cancelledPort, ⟨.ok, .none⟩)
    | .releasing => (s.relatchRide r, ⟨.ok, .none⟩)
    | .relatching | .opened => answer s .badState

def execRideCancel (p : Port) (n : RideNo) (s : State) : Outcome :=
  request p Req.rideCancel.code 5 (rideCancelRule n) s

/-! ## READ RIDE (R85) -/

/-- The ride a selector and a value name; a selector outside the table names nothing (R85, R192). -/
def rideNamed (s : State) (selector : Byte) (v : BitVec 32) : Option Ride :=
  if selector = 0#8 then (if v.toNat < 65536 then s.findRide (BitVec.ofNat 16 v.toNat) else none)
  else s.rideOfTag v

def readRideRule (selector : Byte) (v : BitVec 32) (s : State) : State × Reply :=
  if v = 0#32 ∨ 1 < selector.toNat then answer s .badValue
  else match rideNamed s selector v with
    | none => answer s .notFound
    | some r => answer s .ok (.ride r)

def execReadRide (p : Port) (selector : Byte) (v : BitVec 32) (s : State) : Outcome :=
  request p Req.readRide.code 8 (readRideRule selector v) s

/-! ## Expiries (R112, R71) -/

/-- QUEUE_WAIT_EXPIRY: the queue wait limit of a QUEUED ride has expired, and the ride is cancelled with
QUEUE_TIMEOUT (R112); otherwise there is no expiry (log 1). -/
def execQueueWaitExpiry (n : RideNo) (s : State) : Outcome :=
  event (fun s =>
    match s.findRide n with
    | some r => if r.state = .queued ∧ r.waitLeft = some 0 then s.cancelRide r .queueTimeout else s
    | none => s) s

/-- TAKE_UP_WINDOW_EXPIRY: the take-up window of a RELEASING ride has expired, and ride and dock go to RELATCHING
(R71); otherwise there is no expiry (log 1). -/
def execTakeUpWindowExpiry (n : RideNo) (s : State) : Outcome :=
  event (fun s =>
    match s.findRide n with
    | some r => if r.state = .releasing ∧ r.windowLeft = some 0 then s.relatchRide r else s
    | none => s) s

end Sys2Proof.Machine
end

