-- ==== Sys2Proof/Machine/StationSettings.lean ====
section
/-! DEFINITION. STATION_SET (chapter 11): writing one station setting, and what its change causes. -/

namespace Sys2Proof.Machine

/-- Hold-off compared with the marks after they are written (R44). -/
def State.reholdOff (s : State) : State :=
  if s.holdOff then { s with holdOff := decide (s.settings.low < s.queue.length) }
  else { s with holdOff := decide (s.settings.high < s.queue.length) }

/-- What the change of a numeric setting causes in the request's event: marks re-evaluate hold-off (R44), a raised
budget runs the grant procedure (R113), any other change nothing at once (R189). -/
def State.afterNum (s : State) (n : NumSetting) (old new : Nat) : State :=
  match n with
  | .high | .low => s.reholdOff
  | .budget => if old < new then s.issueGrants else s
  | .lookAhead | .skew | .takeUpWindow | .waitLimit | .idleLimit | .burst | .quietDelay | .quietInterval
  | .replyWindow | .errThreshold => s

/-- The low mark after a high mark is written (R188). -/
def lowFor (t : Settings) (n : NumSetting) (v : Nat) : Nat :=
  match n with
  | .high => if v ≤ t.low then v - 1 else t.low
  | .low | .lookAhead | .skew | .takeUpWindow | .waitLimit | .budget | .idleLimit | .burst | .quietDelay
  | .quietInterval | .replyWindow | .errThreshold => t.low

/-- A numeric setting is written: clamped into its range, a low mark held below a new high mark, and its effects
where the stored value changed (R187, R188). -/
def State.setNumber (s : State) (name : Byte) (n : NumSetting) (value : Nat) : State × Reply :=
  let t := s.settings
  let v := clampNat (n.range t).1 (n.range t).2 value
  let low := lowFor t n v
  let reply : Reply := ⟨okOr (decide (v ≠ value ∨ low ≠ t.low)), .setting name none v (if low ≠ t.low then some low else none)⟩
  if v = t.getNum n then (s, reply)
  else
    let s1 := { s with settings := ({ t with low := low }).setNum n v }
    (s1.afterNum n (t.getNum n) v, reply)

/-- Quiet enable is written for a line (R138, R187). -/
def State.setQuietEnable (s : State) (name : Byte) (l : Line) (q : Bool) : State × Reply :=
  let reply : Reply := ⟨.ok, .setting name (some l) (if q then 1 else 0) none⟩
  if q = s.settings.quiet l then (s, reply)
  else
    let s1 := { s with settings := s.settings.setQuiet l q }
    let s2 := if (s.line l).state = .running then
        s1.updLine l (fun c => { c with quietTimer := 0, quietDue := false })
      else s1
    (if q then s2 else s2.quietReturn l, reply)

/-- The rate of a line is written; a line that is not DISABLED takes it through a break (R139). -/
def State.setLineRate (s : State) (name : Byte) (l : Line) (r : Rate) : State × Reply :=
  let reply : Reply := ⟨.ok, .setting name (some l) r.code none⟩
  if r = s.settings.rate l then (s, reply)
  else
    let s1 := { s with settings := s.settings.setRate l r }
    (if (s.line l).state = .disabled then s1 else s1.enterBreak l .rate, reply)

/-- STATION SET by its rule (R187). -/
def stationSetRule (setting line : Byte) (value : Word16) (s : State) : State × Reply :=
  match settingOfCode setting with
  | none => answer s .badValue
  | some (.num n) => s.setNumber setting n value.toNat
  | some .quietEnable =>
    match lineOfCode line with
    | none => answer s .badValue
    | some l => s.setQuietEnable setting l (decide (value ≠ 0#16))
  | some .lineRate =>
    match lineOfCode line with
    | none => answer s .badValue
    | some l =>
      match rateOfCode value.toNat with
      | none => answer s .badValue
      | some r => s.setLineRate setting l r

def execStationSet (p : Port) (setting line : Byte) (value : Word16) (s : State) : Outcome :=
  request p Req.stationSet.code 7 (onlyN p (stationSetRule setting line value)) s

end Sys2Proof.Machine
end

