-- ==== Sys2Proof/Machine/Dispatch.lean ====
section
/-! DEFINITION. The meaning of each command: one arm for each constructor of Instr. -/

namespace Sys2Proof.Machine

def exec (i : Instr) (s : State) : Host.Outcome State Fault Refusal :=
  match i with
  | .powerOnOrPinReset selN selK => Sys2Proof.Machine.execPowerOnOrPinReset selN selK s
  | .secondTick => Sys2Proof.Machine.execSecondTick s
  | .minuteRollover => Sys2Proof.Machine.execMinuteRollover s
  | .clockSet p minute second => Sys2Proof.Machine.execClockSet p minute second s
  | .classSet p cls incl unit price cap minBal limit life held => Sys2Proof.Machine.execClassSet p cls incl unit price cap minBal limit life held s
  | .credLoad p cred state cls secret counter balance overdraft keep => Sys2Proof.Machine.execCredLoad p cred state cls secret counter balance overdraft keep s
  | .credState p cred state => Sys2Proof.Machine.execCredState p cred state s
  | .credBalance p cred mode amount => Sys2Proof.Machine.execCredBalance p cred mode amount s
  | .credRemove p cred => Sys2Proof.Machine.execCredRemove p cred s
  | .readCred p cred => Sys2Proof.Machine.execReadCred p cred s
  | .sweepOpen p number => Sys2Proof.Machine.execSweepOpen p number s
  | .sweepClose p number => Sys2Proof.Machine.execSweepClose p number s
  | .sweepIdleExpiry => Sys2Proof.Machine.execSweepIdleExpiry s
  | .stationSet p setting line value => Sys2Proof.Machine.execStationSet p setting line value s
  | .kindSet p kind level => Sys2Proof.Machine.execKindSet p kind level s
  | .dockFit p line addrs => Sys2Proof.Machine.execDockFit p line addrs s
  | .rideClose p tag endMinute => Sys2Proof.Machine.execRideClose p tag endMinute s
  | .lineRestart p line => Sys2Proof.Machine.execLineRestart p line s
  | .tokenPresent p token preferred => Sys2Proof.Machine.execTokenPresent p token preferred s
  | .dockHold p dock => Sys2Proof.Machine.execDockHold p dock s
  | .dockFree p dock => Sys2Proof.Machine.execDockFree p dock s
  | .readDock p dock => Sys2Proof.Machine.execReadDock p dock s
  | .rideCancel p ride => Sys2Proof.Machine.execRideCancel p ride s
  | .readRide p selector value => Sys2Proof.Machine.execReadRide p selector value s
  | .take p => Sys2Proof.Machine.execTake p s
  | .giveBack p slot => Sys2Proof.Machine.execGiveBack p slot s
  | .readStation p => Sys2Proof.Machine.execReadStation p s
  | .maskSet p events => Sys2Proof.Machine.execMaskSet p events s
  | .maskClear p events => Sys2Proof.Machine.execMaskClear p events s
  | .eventClear p events => Sys2Proof.Machine.execEventClear p events s
  | .portClear p => Sys2Proof.Machine.execPortClear p s
  | .collect p bytes => Sys2Proof.Machine.execCollect p bytes s
  | .badFrame p bytes tail => Sys2Proof.Machine.execBadFrame p bytes tail s
  | .admissionDecision => Sys2Proof.Machine.execAdmissionDecision s
  | .queueWaitExpiry ride => Sys2Proof.Machine.execQueueWaitExpiry ride s
  | .takeUpWindowExpiry ride => Sys2Proof.Machine.execTakeUpWindowExpiry ride s
  | .turnStart l => Sys2Proof.Machine.execTurnStart l s
  | .commandDelivered l => Sys2Proof.Machine.execCommandDelivered l s
  | .statusReply l r => Sys2Proof.Machine.execStatusReply l r s
  | .busyReply l => Sys2Proof.Machine.execBusyReply l s
  | .badReply l marked rest => Sys2Proof.Machine.execBadReply l marked rest s
  | .replyGapTimeout l => Sys2Proof.Machine.execReplyGapTimeout l s
  | .replyWindowExpiry l => Sys2Proof.Machine.execReplyWindowExpiry l s
  | .errorPeriodBoundary l => Sys2Proof.Machine.execErrorPeriodBoundary l s
  | .breakTimeEnd l => Sys2Proof.Machine.execBreakTimeEnd l s
  | .recoveryEnd l => Sys2Proof.Machine.execRecoveryEnd l s
  | .quietEntry l => Sys2Proof.Machine.execQuietEntry l s
  | .quietIntervalExpiry l => Sys2Proof.Machine.execQuietIntervalExpiry l s
  | .wake l => Sys2Proof.Machine.execWake l s
  | .replyStart l marked => Sys2Proof.Machine.execReplyStart l marked s
  | .transactionStart p => Sys2Proof.Machine.execTransactionStart p s
  | .emptyTransactionEnd p => Sys2Proof.Machine.execEmptyTransactionEnd p s

end Sys2Proof.Machine
end

