-- ==== Sys2Proof/Machine/Pins.lean ====
section
/-! DEFINITION. The pins of the part (R116, R194, R195): the characters of a dock line and their bits, what the part
drives on a line, the attention, select and data-out pins of a port, and the bits of an SPI transaction, each as a
function of State. Also the command that the characters of a reply, or the bits of a transaction, make up. -/

namespace Sys2Proof.Machine

/-! ## Characters of a dock line (R116, R194) -/

/-- A character: its eight data bits and its mark bit (R116). -/
structure LineChar where
  data   : Byte
  marked : Bool
  deriving DecidableEq, Repr

/-- One of the eleven bits of a character, by the part it plays (R194). -/
inductive LineBit where
  | start
  | value (b : Bool)
  | stop
  deriving DecidableEq, Repr

/-- The bits of a character in the order sent: start, eight data bits least significant first, mark, stop (R194). -/
def LineChar.bits (c : LineChar) : List LineBit :=
  [.start] ++ (List.range 8).map (fun k => .value (c.data.getLsbD k)) ++ [.value c.marked, .stop]

/-- The character that eleven bits make up, if they have its form (R194). -/
def charOfBits : List LineBit → Option LineChar
  | [.start, .value b0, .value b1, .value b2, .value b3, .value b4, .value b5, .value b6, .value b7, .value m, .stop] =>
      some ⟨bit b0 0 ||| bit b1 1 ||| bit b2 2 ||| bit b3 3 ||| bit b4 4 ||| bit b5 5 ||| bit b6 6 ||| bit b7 7, m⟩
  | _ => none

/-- A frame on a line: a marked character followed by unmarked characters (R116, R194). -/
def lineFrame : List Byte → List LineChar
  | [] => []
  | b :: bs => ⟨b, true⟩ :: bs.map (fun x => ⟨x, false⟩)

/-- The frame check of characters: over the data bits only (R194). -/
def lineCheck (cs : List LineChar) : Byte := crc8 (cs.map (fun c => c.data))

/-- The command frame a line is sending or has sent in the turn in flight (R117, R120). -/
def Turn.frame (t : Turn) : List LineChar := lineFrame (commandFrame t.addr t.cmd t.ack)

/-- WAKE: the marked character 40h alone, with no check (R194). -/
def wakeFrame : List LineChar := lineFrame [wakeMark]

/-- The reply among the characters received in an open reply window: unmarked characters before the marked one are
discarded (R121). None while no marked character has come. -/
def receivedReply (cs : List LineChar) : Option (Byte × List LineChar) :=
  match cs.dropWhile (fun c => !c.marked) with
  | [] => none
  | c :: rest => some (c.data, rest)

/-- The command that the characters received in the reply window of an address's turn make up, once the reply is
complete (R121). None while no reply has begun. The mark bits after the first are not distinguished (log 23). -/
def commandOfReply (l : Line) (a : Addr) (cs : List LineChar) : Option Instr :=
  (receivedReply cs).map fun x =>
    let rest := x.2.map (fun c => c.data)
    match judgeReply a x.1 rest with
    | .goodStatus r => .statusReply l r
    | .goodBusy => .busyReply l
    | .checkFailure | .wrongAddress => .badReply l x.1 rest

/-! ## What the part drives on a line (R115, R195) -/

/-- What the part puts on a dock line: nothing, the break level, or the characters of a frame (R115). -/
inductive LineOut where
  | released
  | breakLevel
  | sending (frame : List LineChar)
  deriving DecidableEq, Repr

/-- What the part puts on a line as its controller stands: the break level in the break time, a frame until its last
character has been sent, and nothing in recovery time, reply windows and DISABLED (R115, R120, R130). -/
def LineCtl.out (c : LineCtl) : LineOut :=
  if c.state = .brk ∧ c.breakTimer = .breakTime then .breakLevel
  else match c.turn with
    | some t => if t.phase = .sending then .sending t.frame else .released
    | none => .released

/-- Is the driver enable of a line asserted: while a frame is sent and while the break level is held (R195)? -/
def State.driverEnabled (s : State) (l : Line) : Bool := decide ((s.line l).out ≠ .released)

/-! ## Port pins (R195) -/

/-- The level of a pin. -/
inductive Level where
  | low | high
  deriving DecidableEq, Repr

/-- The attention line: low while the port's attention is asserted, high while it is released (R182, R195). -/
def State.attentionPin (s : State) (p : Port) : Level := if s.attention p then .low else .high

/-- The select line, active low: high while no transaction is in progress, low in one and where it was found
asserted at the end of a reset (R172, R185, R195). -/
def State.selectPin (s : State) (p : Port) : Level :=
  match (s.port p).trans with
  | .idle => .high
  | .ignored | .started _ _ => .low

/-- Data out at a level of select, with the bit the part shifts out: undriven while select is high (R195). -/
def dataOutPin (select : Level) (b : Bool) : Option Bool :=
  match select with
  | .high => none
  | .low => some b

/-! ## Bits of a transaction (R172, R195) -/

/-- The bits of a byte in the order shifted: most significant first (R195). -/
def spiBits (b : Byte) : List Bool :=
  [b.getLsbD 7, b.getLsbD 6, b.getLsbD 5, b.getLsbD 4, b.getLsbD 3, b.getLsbD 2, b.getLsbD 1, b.getLsbD 0]

/-- The whole bytes that bits make up, most significant bit first, and the bits of a last partial byte (R172,
R195). -/
def spiBytes : List Bool → List Byte × List Bool
  | b7 :: b6 :: b5 :: b4 :: b3 :: b2 :: b1 :: b0 :: rest =>
      let x := spiBytes rest
      ((bit b7 7 ||| bit b6 6 ||| bit b5 5 ||| bit b4 4 ||| bit b3 3 ||| bit b2 2 ||| bit b1 1 ||| bit b0 0) :: x.1, x.2)
  | tail => ([], tail)

/-- The two lines a processor drives while select is low. -/
structure SpiInput where
  clock  : Level
  dataIn : Bool
  deriving DecidableEq, Repr

/-- The bits sampled: data in at each rising edge of the clock, given the level before (R195). -/
def sampleRising (before : Level) : List SpiInput → List Bool
  | [] => []
  | x :: xs =>
    let rest := sampleRising x.clock xs
    if before = .low ∧ x.clock = .high then x.dataIn :: rest else rest

/-- What a processor drives to shift bits: the clock idles low, and each bit is put on data in while the clock is low
and held over the rising edge (R195). -/
def spiWave (bits : List Bool) : List SpiInput := bits.flatMap (fun b => [⟨.low, b⟩, ⟨.high, b⟩]) ++ [⟨.low, false⟩]

/-- Falling edges of the clock among the levels driven, given the level before. -/
def fallingEdges (before : Level) : List SpiInput → Nat
  | [] => 0
  | x :: xs => (if before = .high ∧ x.clock = .low then 1 else 0) + fallingEdges x.clock xs

/-- The bit on data out after a number of falling edges, while select is low: the bits of the bytes shifted out, the
first of them from the assertion of select (log 35), then those of the fill value (R175, R195). -/
def dataOutBit (out : List Byte) (falls : Nat) : Bool :=
  match (out.flatMap spiBits)[falls]? with
  | some b => b
  | none => (spiBits Config.fill).getD (falls % 8) false

/-- The command that the bytes of an ended transaction, and the bits of a last partial byte, make up (R172, R173). -/
def commandOfTransaction (p : Port) (bytes : List Byte) (tail : List Bool) : Instr :=
  match bytes with
  | [] => if tail = [] then .emptyTransactionEnd p else .badFrame p [] tail
  | code :: more =>
    if code = Config.collectCode then .collect p more.length
    else if tail = [] then (requestOfFrame p (code :: more)).getD (.badFrame p (code :: more) [])
    else .badFrame p (code :: more) tail

/-- The command that a processor's wave between the assertion and the release of select makes up (R172, R195). -/
def commandOfWave (p : Port) (wave : List SpiInput) : Instr :=
  let x := spiBytes (sampleRising .low wave)
  commandOfTransaction p x.1 x.2

end Sys2Proof.Machine
end

