-- ==== Sys2Proof/Safety.lean ====
section
/-! DEFINITION. What a sound state of the part is: the invariants that the manual states of its tables, queues, lists
and lines, each a decidable property of one state, and the terms in which a command's answer and its frame are stated. -/

namespace Sys2Proof.Machine

/-! ## Settings, classes and levels (R5, R153, R186) -/

/-- Every station setting lies in its range (R186). -/
abbrev SettingsInRange (t : Settings) : Prop :=
  (1 ≤ t.lookAhead ∧ t.lookAhead ≤ 4096) ∧ t.skew ≤ 15 ∧ (5 ≤ t.takeUpWindow ∧ t.takeUpWindow ≤ 60) ∧
  (10 ≤ t.waitLimit ∧ t.waitLimit ≤ 180) ∧ (1 ≤ t.budget ∧ t.budget ≤ 8) ∧ (4 ≤ t.high ∧ t.high ≤ 23) ∧
  t.low < t.high ∧ (60 ≤ t.idleLimit ∧ t.idleLimit ≤ 3600) ∧ (2 ≤ t.burst ∧ t.burst ≤ 15) ∧
  (60 ≤ t.quietDelay ∧ t.quietDelay ≤ 3600) ∧ (1 ≤ t.quietInterval ∧ t.quietInterval ≤ 10) ∧
  (4 ≤ t.replyWindow ∧ t.replyWindow ≤ 32) ∧ (4 ≤ t.errThreshold ∧ t.errThreshold ≤ 64)

/-- Every field of a class record lies in its range (R5). -/
abbrev ClassInRange (c : ClassRec) : Prop :=
  c.incl ≤ 240 ∧ (1 ≤ c.unit ∧ c.unit ≤ 240) ∧ c.price ≤ 1000 ∧ c.cap ≤ 30000 ∧
  (-32768 ≤ c.minBal ∧ c.minBal ≤ 32767) ∧ (1 ≤ c.limit ∧ c.limit ≤ 4) ∧ (1 ≤ c.life ∧ c.life ≤ 240)

/-- Settings and classes lie in their ranges, and no trip record kind has level 0 (R5, R153, R186). -/
abbrev ConfigInv (s : State) : Prop :=
  SettingsInRange s.settings ∧ (∀ c : Fin 4, ClassInRange (s.classes.get c)) ∧
  (∀ k ∈ Kind.all, k.isTrip = true → s.level k ≠ 0)

/-! ## Credentials (R20, R22, R29) -/

/-- Entries in strictly ascending order of number: the numbers are distinct (R20). -/
abbrev CredsSorted (s : State) : Prop := s.creds.Pairwise (fun a b => a.number < b.number)

/-- At most 2048 entries with distinct numbers, none of them 0, each balance between −D and 32767 (R20). -/
abbrev CredInv (s : State) : Prop :=
  CredsSorted s ∧ s.creds.length ≤ 2048 ∧
  (∀ e ∈ s.creds, e.number ≠ 0#24 ∧ e.overdraft ≤ 32767 ∧ -(e.overdraft : Int) ≤ e.balance ∧ e.balance ≤ 32767)

/-- Rides in strictly ascending order of number: the numbers are distinct (R64). -/
abbrev RidesSorted (s : State) : Prop := s.rides.Pairwise (fun a b => a.number < b.number)

/-- Every ride names an entry, every entry's open-ride count is the number of rides that name it and at most 4, and
no LAPSED entry has count 0 (R22, R29). -/
abbrev CountInv (s : State) : Prop :=
  RidesSorted s ∧ CredsSorted s ∧ (∀ c : Fin 4, (s.classes.get c).limit ≤ 4) ∧
  (∀ r ∈ s.rides, ∃ e ∈ s.creds, e.number = r.cred) ∧
  (∀ e ∈ s.creds, e.openRides = s.rides.countP (fun r => decide (r.cred = e.number)) ∧ e.openRides ≤ 4 ∧
    (e.state = .lapsed → e.openRides ≠ 0))

/-! ## Presentation queue and hold-off (R41, R43, R44) -/

/-- The queue holds at most 24 entries, at most the high mark while hold-off is not in force, and more than the low
mark while it is (R43, R44). -/
abbrev QueueInv (s : State) : Prop :=
  (4 ≤ s.settings.high ∧ s.settings.high ≤ 23) ∧ s.settings.low < s.settings.high ∧ s.queue.length ≤ 24 ∧
  (s.holdOff = false → s.queue.length ≤ s.settings.high) ∧ (s.holdOff = true → s.settings.low < s.queue.length)

/-! ## Rides, docks, the release queue and grants (R64, R66, R105 to R107) -/

/-- No bike tag appears in two rides, and no ride holds tag 0 (R64). -/
abbrev TagInv (s : State) : Prop :=
  s.rides.Pairwise (fun a b => a.tag ≠ b.tag) ∧ ∀ r ∈ s.rides, r.tag ≠ 0#32

/-- A dock that a QUEUED, RELEASING or RELATCHING ride names stores the tag of that ride (R57, R94). -/
abbrev DockTagInv (s : State) : Prop := ∀ r ∈ s.rides, r.state ≠ .opened → (s.dock r.dock).tag = r.tag

/-- The dock state of a ride that binds its dock (R66). -/
def RideState.dockState : RideState → Option DockState
  | .queued => some .queued
  | .releasing => some .releasing
  | .relatching => some .relatching
  | .opened => none

/-- Rides not OPEN name docks in the same state, no two of them the same dock, and a QUEUED or RELEASING dock is
named by one (R66). -/
abbrev BindInv (s : State) : Prop :=
  RidesSorted s ∧
  (∀ r ∈ s.rides, r.state ≠ .opened → some (s.dock r.dock).state = r.state.dockState) ∧
  s.rides.Pairwise (fun a b => a.state ≠ .opened → b.state ≠ .opened → a.dock ≠ b.dock) ∧
  (∀ d : DockIx, (s.dock d).state = .releasing → ∃ r ∈ s.rides, r.state = .releasing ∧ r.dock = d) ∧
  (∀ d : DockIx, (s.dock d).state = .queued → ∃ r ∈ s.rides, r.state = .queued ∧ r.dock = d)

/-- The release queue names each QUEUED dock once, with its QUEUED ride (R105). -/
abbrev ReleaseQInv (s : State) : Prop :=
  (s.releaseQ.map (fun e => e.dock)).Nodup ∧
  (∀ d : DockIx, (s.dock d).state = .queued → ∃ e ∈ s.releaseQ, e.dock = d) ∧
  (∀ e ∈ s.releaseQ, (s.dock e.dock).state = .queued ∧
    ∃ r ∈ s.rides, r.number = e.ride ∧ r.state = .queued ∧ r.dock = e.dock)

/-- The grant set names each dock once; it holds exactly the docks of granted entries and the RELEASING docks
(R66, R107). -/
abbrev GrantSetInv (s : State) : Prop :=
  s.grants.Nodup ∧
  (∀ d ∈ s.grants, (s.dock d).state = .releasing ∨ ∃ e ∈ s.releaseQ, e.dock = d ∧ e.granted = true) ∧
  (∀ e ∈ s.releaseQ, e.granted = true → e.dock ∈ s.grants) ∧
  (∀ d : DockIx, (s.dock d).state = .releasing → d ∈ s.grants)

/-- OPEN is pending, or has gone out for a QUEUED ride, only at a QUEUED dock that holds a grant; CLOSE is pending
exactly at RELATCHING docks; a granted QUEUED dock has OPEN or a SHOW pending (R66, R106, R109). -/
abbrev PendingInv (s : State) : Prop :=
  (∀ d : DockIx, (s.dock d).pending = .openCmd → (s.dock d).state = .queued ∧ d ∈ s.grants) ∧
  (∀ d : DockIx, (s.dock d).pending = .closeCmd ↔ (s.dock d).state = .relatching) ∧
  (∀ d ∈ s.grants, (s.dock d).state = .queued → (s.dock d).pending ≠ .none) ∧
  (∀ r ∈ s.rides, r.state = .queued → r.progress ≠ .notSent → r.dock ∈ s.grants)

/-- Rides, docks, release queue, grants and pending commands agree (R66, R105 to R109). -/
abbrev ReleaseInv (s : State) : Prop := BindInv s ∧ ReleaseQInv s ∧ GrantSetInv s ∧ PendingInv s

/-- The ride table holds at most 256 rides, at most 60 of them not OPEN (R57, R64). -/
abbrev RideBound (s : State) : Prop :=
  s.rides.length ≤ 256 ∧ s.rides.countP (fun r => decide (r.state ≠ .opened)) ≤ 60

/-- Grants held never exceed 8, and the budget lies in 1 to 8 (R107). -/
abbrev GrantBound (s : State) : Prop := s.grants.length ≤ 8 ∧ 1 ≤ s.settings.budget ∧ s.settings.budget ≤ 8

/-- After an event, grants held are at or above the budget, or no waiting entry has its line RUNNING or QUIET
(R108). -/
abbrev GrantsIssued (s : State) : Prop :=
  s.settings.budget ≤ s.grants.length ∨ ∀ e ∈ s.releaseQ, e.granted = false → s.lineRuns e.dock = false

/-! ## The record pool (R142, R146, R147, R158) -/

/-- The slot numbers of the six places of R142, one after another. -/
def State.allSlots (s : State) : List Nat :=
  s.free ++ s.rides.map (fun r => r.slot) ++ s.listN.map (fun x => x.slot) ++ s.listK.map (fun x => x.slot) ++
    s.portN.taken.map (fun x => x.slot) ++ s.portK.taken.map (fun x => x.slot)

/-- Each of the 384 slots is in exactly one of the six places (R142). -/
abbrev SlotInv (s : State) : Prop := RidesSorted s ∧ s.allSlots.Perm (List.range 384)

/-- A record of Port N: a trip record or a notice (R158). -/
def Body.forN : Body → Bool
  | .trip _ _ | .notice _ _ _ _ => true
  | .decision _ _ _ _ _ | .outcome _ _ _ _ => false

/-- The Port N list is ordered by level, the Port K list holds at most 32 records, the held limits hold, and each
port's records are of its own classes (R146, R147, R158). -/
abbrev ListsInv (s : State) : Prop :=
  s.listN.Pairwise (fun a b => b.record.level ≤ a.record.level) ∧ s.listK.length ≤ 32 ∧
  s.portN.taken.length ≤ 16 ∧ s.portK.taken.length ≤ 4 ∧
  (∀ x ∈ s.listN ++ s.portN.taken, x.record.body.forN = true) ∧
  (∀ x ∈ s.listK ++ s.portK.taken, x.record.body.forN = false ∧ x.record.level = 0)

/-! ## Dock records (R86) -/

/-- Counts of a dock record lie in their ranges, and the link is LOST when the failed turns have reached 3 (R62, R73,
R86, R123, R124). -/
abbrev DockInv (s : State) : Prop :=
  ∀ d : DockIx, (s.dock d).failed ≤ 3 ∧ (s.dock d).busy ≤ 7 ∧ (s.dock d).relatch ≤ 2 ∧ (s.dock d).mismatch ≤ 15 ∧
    ((s.dock d).failed = 3 → (s.dock d).link = .lost)

/-- The record of an UNFITTED dock holds its reset values (R86, R89). -/
abbrev UnfittedInv (s : State) : Prop := ∀ d : DockIx, (s.dock d).state = .unfitted → s.dock d = {}

/-! ## Lines (R114, R115) -/

/-- A line in DISABLED or BREAK runs nothing; the timers run in the states that use them; a round has a position and
a turn stands at it (R114, R119, R120, R127, R130, R136). -/
abbrev LineShape (c : LineCtl) : Prop :=
  (c.turn.isSome = true → c.roundOn = true ∧ c.turn.map (fun t => t.addr) = c.pos) ∧
  (c.roundOn = c.pos.isSome) ∧
  (c.roundOn = true → c.state = .running ∨ c.state = .quiet) ∧
  (c.errTimer.isSome = true ↔ c.state = .running ∨ c.state = .quiet) ∧
  (c.quietInterval.isSome = true ↔ c.state = .quiet) ∧
  (c.breakTimer ≠ .stopped ↔ c.state = .brk) ∧
  (c.errors ≠ 0 → c.state = .running ∨ c.state = .quiet)

/-- Both lines have that shape, and a line is DISABLED exactly when no dock of it is fitted (R134). -/
abbrev LineInv (s : State) : Prop :=
  ∀ l ∈ [Line.a, Line.b], LineShape (s.line l) ∧
    ((s.line l).state = .disabled ↔ ∀ a : Addr, s.fitted (dockIx l a) = false) ∧
    (∀ a ∈ (s.line l).pos, s.fitted (dockIx l a) = true)

/-! ## Answers and frames -/

/-- The state once a request of this code, in a frame of this many bytes, has been answered: the response is held,
the transaction is over, and the part has shifted out the fill value for each byte (R172, R174, R192). -/
def State.answered (s : State) (p : Port) (code : Byte) (frame : Nat) (st : Status) (f : Fields) : State :=
  s.setPort p { s.port p with
    held := some ⟨code, st, f⟩, trans := .idle, dataOut := List.replicate frame 0x00#8 }

/-- The port takes requests: its select line was not found asserted at a reset (R185). -/
abbrev State.takes (s : State) (p : Port) : Prop := (s.port p).trans ≠ .ignored

/-- The other port. -/
def otherPort : Port → Port
  | .n => .k
  | .k => .n

/-- The other line. -/
def otherLine : Line → Line
  | .a => .b
  | .b => .a

/-- A port keeps every item but its latched events. -/
abbrev KeepsItems (x y : PortState) : Prop :=
  y.held = x.held ∧ y.masks = x.masks ∧ y.taken = x.taken ∧ y.trans = x.trans ∧ y.dataOut = x.dataOut

/-- Both ports keep every item but their latched events. -/
abbrev PortsKept (s t : State) : Prop := KeepsItems s.portN t.portN ∧ KeepsItems s.portK t.portK

/-- The port holds this response, its transaction is over, and it keeps its masks and held slots; the other port
keeps every item but its latched events (R174). -/
abbrev Answers (s t : State) (p : Port) (r : Response) (frame : Nat) : Prop :=
  KeepsItems { s.port p with held := some r, trans := .idle, dataOut := List.replicate frame 0x00#8 } (t.port p) ∧
  KeepsItems (s.port (otherPort p)) (t.port (otherPort p))

/-- What no command about a ride, a dock or a line touches but by its own rule: clock, classes, sweep, ride number
counter, levels, settings and waiting commands. -/
abbrev SameBase (s t : State) : Prop :=
  t.minute = s.minute ∧ t.second = s.second ∧ t.clockSet = s.clockSet ∧ t.classes = s.classes ∧ t.sweep = s.sweep ∧
  t.nextRide = s.nextRide ∧ t.levels = s.levels ∧ t.settings = s.settings ∧ t.pending = s.pending

/-- The same, with the presentation queue and hold-off. -/
abbrev SameStation (s t : State) : Prop := SameBase s t ∧ t.queue = s.queue ∧ t.holdOff = s.holdOff

/-- The record pool is untouched. -/
abbrev SamePool (s t : State) : Prop := t.free = s.free ∧ t.listN = s.listN ∧ t.listK = s.listK

/-- The rides are the same but for how far OPEN has come (R120). -/
abbrev SameRides (s t : State) : Prop :=
  t.rides.map (fun r => { r with progress := .notSent }) = s.rides.map (fun r => { r with progress := .notSent })

/-- The rides but one are the same but for how far OPEN has come (R120). -/
abbrev OtherRidesKept (s t : State) (n : RideNo) : Prop :=
  (t.rides.filter (fun r => decide (r.number ≠ n))).map (fun r => { r with progress := .notSent }) =
    (s.rides.filter (fun r => decide (r.number ≠ n))).map (fun r => { r with progress := .notSent })

/-- Every dock but these keeps every field; where it had no pending command a grant may have set OPEN (R109). -/
abbrev DocksKept (s t : State) (but : List DockIx) : Prop :=
  ∀ d : DockIx, d ∉ but → t.dock d = { s.dock d with pending := (t.dock d).pending } ∧
    ((t.dock d).pending = (s.dock d).pending ∨ (s.dock d).pending = .none ∧ (t.dock d).pending = .openCmd)

/-- The newest record of the Port K list has these contents (R147). -/
abbrev PostedK (t : State) (b : Body) : Prop := ∃ n : Nat, t.listK.getLast? = some ⟨n, ⟨0, false, b⟩⟩

/-- The Port N list of t holds a record of these contents, posted at the level of its kind and with the clock-set flag
of s (R146, R158). -/
abbrev PostedN (s t : State) (slot : Nat) (k : Kind) (b : Body) : Prop :=
  (⟨slot, ⟨(s.level k).val, s.clockSet, b⟩⟩ : Posted) ∈ t.listN

/-- OVERFLOW is latched on a port (R148, R149, R192). -/
abbrev Overflowed (t : State) (p : Port) : Prop := (t.port p).latched &&& 0x08#8 = 0x08#8

/-- The free list and the Port K list after a Port K record is posted (R147, R148): the oldest posted record is evicted
where 32 are posted or no slot is free, and the head slot takes the record; with neither it is dropped. -/
def postPool (free : List Nat) (k : List Posted) (b : Body) : List Nat × List Posted :=
  let out := if 32 ≤ k.length ∨ free = [] then k.take 1 else []
  match free ++ out.map (fun x => x.slot) with
  | [] => ([], k.drop out.length)
  | n :: rest => (rest, k.drop out.length ++ [⟨n, ⟨0, false, b⟩⟩])

/-- The free list and the Port K list after a ride's cancellation (R74): its bound slot joins the tail of the free list,
and its outcome record is posted directly after. -/
def cancelPool (free : List Nat) (k : List Posted) (r : Ride) (o : RideOutcome) : List Nat × List Posted :=
  postPool (free ++ [r.slot]) k (.outcome r.number r.cred r.dock o)

/-- The same for several rides, one after another. -/
def cancelPools (free : List Nat) (k : List Posted) (q : List Ride) (o : RideOutcome) : List Nat × List Posted :=
  q.foldl (fun x r => cancelPool x.1 x.2 r o) (free, k)

/-- What the generation of a notice leaves, given the free list before it (R149, R155, R156): nothing changed at level 0
or under suppression; OVERFLOW with no slot free; else the record posted in the head slot. -/
abbrev Notified (s t : State) (free : List Nat) (subject : Subject) (b : NoticeBody) : Prop :=
  if s.level b.kind = 0 ∨ s.suppressed subject b.kind = true then t.free = free ∧ t.listN = s.listN
  else if free = [] then t.free = [] ∧ t.listN = s.listN ∧ Overflowed t .n
  else t.free = free.tail ∧ t.listN.length = s.listN.length + 1 ∧ (∀ x ∈ s.listN, x ∈ t.listN) ∧
    PostedN s t (free.headD 0) b.kind (.notice subject s.minute s.second b)

/-- The same for a notice that another may follow in the same event: u stands for the state between the two. -/
abbrev NotifiedThen (s t : State) (free : List Nat) (subject : Subject) (b : NoticeBody)
    (second : Option (Subject × NoticeBody)) : Prop :=
  ∃ u : State, Notified s u free subject b ∧ (Overflowed u .n → Overflowed t .n) ∧
    u.minute = s.minute ∧ u.second = s.second ∧ u.clockSet = s.clockSet ∧ u.levels = s.levels ∧
    u.portN.taken = s.portN.taken ∧
    match second with
    | none => t.free = u.free ∧ t.listN = u.listN
    | some (subject', b') => Notified u t u.free subject' b'

/-- A line as it stands after entering BREAK with a cause (R130). -/
def inBreak (rate : Rate) (cause : BreakCause) : LineCtl where
  state := .brk
  rate := rate
  breakTimer := .breakTime
  breakCause := some cause

/-- Every credential secret set to 0 (R20: the secret is returned by no request). -/
def State.hideSecrets (s : State) : State :=
  { s with creds := s.creds.map (fun e => { e with secret := 0#32 }) }

/-! ## The settlement of a ride (R14 to R17) -/

/-- The figures of a close in one formula: duration round the circle of minutes, units rounded up, charge at most the
cap, balance not below −D (R14 to R17). -/
def settlement (c : ClassRec) (e : Cred) (release endMinute : Minute) : CloseFigures :=
  let raw := (endMinute - release).toNat
  let dur := if raw ≤ 32767 then raw else 0
  let uncapped := (dur - c.incl + (c.unit - 1)) / c.unit * c.price
  let charge := min uncapped c.cap
  let bal := max (-(e.overdraft : Int)) (e.balance - (charge : Int))
  { duration := dur, clockStep := decide (32768 ≤ raw), charge := charge, capped := decide (c.cap < uncapped),
    shortfall := (bal - (e.balance - (charge : Int))).toNat, balance := bal }

/-- The credential entry after a close: debited, SUSPENDED on a shortfall if ACTIVE, one ride fewer; gone if it was
LAPSED and this was its last ride (R17, R18, R22, R29). -/
def settledEntry (e : Cred) (f : CloseFigures) : Option Cred :=
  if e.state = .lapsed ∧ e.openRides ≤ 1 then none
  else some { e with
    balance := f.balance
    state := if 0 < f.shortfall ∧ e.state = .active then .suspended else e.state
    openRides := e.openRides - 1 }

/-- The trip record of a settled ride (R159). -/
def settledTrip (r : Ride) (returnAt : Option DockIx) (endMinute : Minute) (f : CloseFigures) (late quick : Bool) : Trip :=
  { ride := some r.number, cred := r.cred, tag := r.tag, releaseAt := some r.dock, returnAt := returnAt,
    release := r.release, endMinute := endMinute, duration := some f.duration, charge := f.charge,
    shortfall := f.shortfall, balance := some f.balance, clockStep := f.clockStep, capped := f.capped,
    late := late, quick := quick }

/-- The credential entry after a cancellation: one ride fewer, gone if it was LAPSED and this was its last (R29,
R74). -/
def cancelledEntry (e : Cred) : Option Cred :=
  if e.state = .lapsed ∧ e.openRides ≤ 1 then none else some { e with openRides := e.openRides - 1 }

/-- OPEN and CLOSE become none, SHOW stays (R74, R97). -/
def withoutLatch : Pending → Pending
  | .showCmd c q => .showCmd c q
  | .none | .openCmd | .closeCmd => .none

/-! ## Release queue and grants after an event (R105, R108 to R110) -/

/-- The docks that the procedure of R108 grants once these docks are out of the release queue and the grant set: those of
the oldest waiting entries whose line is RUNNING or QUIET, as many as the budget leaves room for. -/
def newGrants (s : State) (gone : List DockIx) : List DockIx :=
  (((s.releaseQ.filter (fun e => decide (e.dock ∉ gone ∧ e.granted = false))).map (fun e => e.dock)).filter
    (fun d => s.lineRuns d)).take (s.settings.budget - (s.grants.filter (fun d => decide (d ∉ gone))).length)

/-- The release queue keeps its order without the docks gone, and granted becomes yes at exactly the new grants; the grant
set loses the docks gone and gains the new grants (R105, R106, R108, R110). -/
abbrev QueueMoved (s t : State) (gone : List DockIx) : Prop :=
  t.releaseQ = (s.releaseQ.filter (fun e => decide (e.dock ∉ gone))).map (fun e =>
    { e with granted := e.granted || decide (e.dock ∈ newGrants s gone) }) ∧
  t.grants = s.grants.filter (fun d => decide (d ∉ gone)) ++ newGrants s gone

/-- Every dock but these keeps its record, but that a newly granted one that had no pending command has OPEN (R109). -/
abbrev DocksMoved (s t : State) (gone but : List DockIx) : Prop :=
  ∀ d : DockIx, d ∉ but → t.dock d = { s.dock d with
    pending := if d ∈ newGrants s gone ∧ (s.dock d).pending = .none then .openCmd else (s.dock d).pending }

/-- Queue, grant set and docks after an event that takes these docks out of the first two, in a state whose tables agree
and that has no grant left unissued (ReleaseKept, GrantsIssuedKept). -/
abbrev GrantsMoved (s t : State) (gone but : List DockIx) : Prop :=
  ReleaseInv s → GrantsIssued s → QueueMoved s t gone ∧ DocksMoved s t gone but

/-- In such a state the event takes no dock out and issues no grant, and every dock but one keeps its record. -/
abbrev GrantsStand (s t : State) (d : DockIx) : Prop :=
  ReleaseInv s → GrantsIssued s →
    t.releaseQ = s.releaseQ ∧ t.grants = s.grants ∧ ∀ d' : DockIx, d' ≠ d → t.dock d' = s.dock d'

/-! ## A line after an event (R119, R136, R137) -/

/-- The lowest fitted address of a line from a bound up, or that there is none (R119). -/
def LowestFrom (s : State) (l : Line) (k : Nat) : Option Addr → Prop
  | none => ∀ a : Addr, k ≤ a.val → s.fitted (dockIx l a) = false
  | some a => k ≤ a.val ∧ s.fitted (dockIx l a) = true ∧
      ∀ a' : Addr, k ≤ a'.val → a'.val < a.val → s.fitted (dockIx l a') = false

/-- A line whose turn has ended, given the next fitted address above it and the lowest of the line: the position moves
on; after the highest, a new round starts at once in RUNNING or where one is owed, and else there is none (R119, R120,
R136). Every other item stays. -/
def afterTurn (c : LineCtl) (next first : Option Addr) : LineCtl :=
  match next with
  | some a => { c with turn := none, pos := some a }
  | none =>
    if c.state = .running ∨ c.roundOwed = true then
      { c with turn := none, roundOwed := false, roundOn := first.isSome, pos := first }
    else { c with turn := none, roundOn := false, pos := none }

/-- The line control that the end of this turn leaves (R119, R120, R136). -/
abbrev TurnEnded (s : State) (l : Line) (x : Turn) (c : LineCtl) : Prop :=
  ∃ next first : Option Addr, LowestFrom s l (x.addr.val + 1) next ∧ LowestFrom s l 0 first ∧
    c = afterTurn (s.line l) next first

/-- A line back in RUNNING from QUIET: the interval timer stopped, the quiet timer 0, the round in progress kept or one
started at the lowest fitted address (R137). Every other item stays. -/
def lineReturned (c : LineCtl) (first : Option Addr) : LineCtl :=
  { c with
    state := .running, quietInterval := none, quietTimer := 0, quietDue := false, roundOwed := false
    roundOn := c.roundOn || first.isSome
    pos := if c.roundOn then c.pos else first }

/-- The line has returned from QUIET, and LINE is latched (R115, R137). c is the line control before the return. -/
abbrev Returned (s t : State) (l : Line) (c : LineCtl) : Prop :=
  ∃ first : Option Addr, LowestFrom s l 0 first ∧ t.line l = lineReturned c first ∧ t.portN.latched &&& 0x10#8 = 0x10#8

/-- The line control c stands, but that a QUIET line one of whose docks has been given a pending command has returned to
RUNNING (R109, R137). -/
abbrev LineFollows (s t : State) (l : Line) (c : LineCtl) : Prop :=
  (c.state ≠ .quiet → t.line l = c) ∧
  (c.state = .quiet → (∃ a : Addr, (t.dock (dockIx l a)).pending ≠ .none ∧
    (t.dock (dockIx l a)).pending ≠ (s.dock (dockIx l a)).pending) → Returned s t l c) ∧
  (c.state = .quiet → (∀ a : Addr, (s.dock (dockIx l a)).pending = .none ∧ (t.dock (dockIx l a)).pending = .none) →
    t.line l = c)

/-- Both lines stand, but for a return from QUIET that a pending command causes (R109, R137). -/
abbrev LinesFollow (s t : State) : Prop := ∀ l ∈ [Line.a, Line.b], LineFollows s t l (s.line l)

/-! ## How far OPEN has come (R68, R120, R123, R125; the field is the model's, log 26) -/

/-- A ride whose OPEN was in flight to this dock has come so far; any other ride is as it was. -/
def Ride.settled (r : Ride) (d : DockIx) (p : OpenProgress) : Ride :=
  if r.dock = d ∧ r.progress = .inFlight then { r with progress := p } else r

/-- The rides once the turn in flight on a line is abandoned: its OPEN is delivered where the whole frame had been sent
(R125). -/
def abandonedRides (s : State) (l : Line) : List Ride :=
  match (s.line l).turn with
  | none => s.rides
  | some x => s.rides.map (fun r =>
      r.settled (dockIx l x.addr) (if x.phase = .sending then .notSent else .delivered))

/-- Every ride that an event leaves has come as far with OPEN as the end of a turn at this dock takes it. -/
abbrev ProgressSettled (s t : State) (d : DockIx) (p : OpenProgress) : Prop :=
  RidesSorted s → ∀ r ∈ s.rides, ∀ r' ∈ t.rides, r'.number = r.number → r'.progress = (r.settled d p).progress

/-! ## Cancellations (R28, R74) -/

/-- A ride is ended by a cancellation (R74): removed, its entry's count lowered, its outcome record in the pool, its dock
out of the release queue and the grant set, and its grant passed on; other rides and entries stay. -/
abbrev RideEnded (s t : State) (r : Ride) (e : Cred) (o : RideOutcome) : Prop :=
  t.findRide r.number = none ∧ OtherRidesKept s t r.number ∧ t.findCred r.cred = cancelledEntry e ∧
  (∀ c, c ≠ r.cred → t.findCred c = s.findCred c) ∧ t.listK = (cancelPool s.free s.listK r o).2 ∧
  (∀ y ∈ t.releaseQ, y.dock ≠ r.dock) ∧ r.dock ∉ t.grants ∧ GrantsMoved s t [r.dock] [r.dock]

/-- These QUEUED rides were cancelled, in order, because of their credentials (R28, R74): they leave the table, each
posts its outcome record with its slot returned, its dock is DOCKED with OPEN no longer pending, and out of the release
queue and the grant set, and their grants are passed on. A line that is not QUIET stands. The free list is left to the
statement, as a notice may follow. -/
abbrev CancelledAll (s t : State) (q : List Ride) : Prop :=
  t.rides = s.rides.filter (fun r => decide (r ∉ q)) ∧
  t.listK = (cancelPools s.free s.listK q .cancelledCredential).2 ∧
  (∀ r ∈ q, t.dock r.dock = { s.dock r.dock with
      state := .docked, relatch := 0, pending := withoutLatch (s.dock r.dock).pending } ∧
    (∀ y ∈ t.releaseQ, y.dock ≠ r.dock) ∧ r.dock ∉ t.grants) ∧
  DocksKept s t (q.map (fun r => r.dock)) ∧
  GrantsMoved s t (q.map (fun r => r.dock)) (q.map (fun r => r.dock)) ∧
  (∀ l ∈ [Line.a, Line.b], (s.line l).state ≠ .quiet → t.line l = s.line l)

/-! ## Replies (R90, R121, R122) -/

/-- A reply from the address whose turn is in flight is due: the reply window is open, or a reply has begun with the
right marked character (R121, log 6). -/
abbrev ReplyDue (s : State) (l : Line) (x : Turn) : Prop :=
  ((s.line l).state = .running ∨ (s.line l).state = .quiet) ∧ (s.line l).turn = some x ∧
  (x.phase = .awaiting ∨ x.phase = .receiving (replyMark x.addr))

/-- A reply gives rise to no notice of link or power: the link is not LOST and power low does not rise (R87, R100). -/
abbrev NoLinkNotice (x : Dock) (rep : StatusReply) : Prop :=
  x.link ≠ .lost ∧ (rep.powerLow = true → x.powerLow = true)

/-- The pending command after a good STATUS reply to a turn that carried a command: a delivered SHOW is cleared unless
another command has taken its place (R122). -/
def clearedPending (sent now : Pending) : Pending :=
  match sent with
  | .showCmd c q => if now = .showCmd c q then .none else now
  | .none | .openCmd | .closeCmd => now

/-- What every good STATUS reply writes in the record of its dock before the dock's state is looked at (R87, R90, R100,
R122). The acknowledgement follows TokenPresentQueues. -/
def replied (x : Dock) (rep : StatusReply) (ack : Byte) (pending : Pending) : Dock :=
  { x with link := .online, failed := 0, busy := 0, powerLow := rep.powerLow, ack := ack, pending := pending }

/-- The tag and docked-since minute of a dock that a reply leaves DOCKED: those stored while the reported tag is the
stored one, else the reported tag and now (R94). -/
def retagged (s : State) (x : Dock) (t : BikeTag) : Dock :=
  if t = x.tag then x else { x with tag := t, since := s.minute }

/-- A reply reports a bike latched where none was known: at an EMPTY dock, or at one whose stored tag is 0 and that the
reply leaves DOCKED with a real tag (R92, R94, R99). A reader fault hides it but at a RELATCHING dock (R98). -/
abbrev ReturnSeen (x : Dock) (rep : StatusReply) : Prop :=
  rep.bike = true ∧ rep.latch = .locked ∧ (rep.readerFault = true → x.state = .relatching) ∧
  (x.state = .empty ∨ (x.tag = 0#32 ∧ rep.tag ≠ 0#32 ∧
    (x.state = .docked ∨ x.state = .relatching ∨ x.state = .faulted .jammed ∨ x.state = .faulted .reader)))

/-- OPEN follows a SHOW that the reply has cleared, at a QUEUED dock that holds a grant (R61, R122). -/
def openNext (granted : Bool) (p : Pending) : Pending := if p = .none ∧ granted = true then .openCmd else p

/-- What a dock record says of its bike, as R135 compares a reply with it: a held tag or a state that a bike stands in
says present, EMPTY says none, and UNKNOWN and FAULTED without a tag leave it open (log 10). -/
def knownPresence (x : Dock) : Option Bool :=
  if x.tag ≠ 0#32 then some true
  else match x.state with
    | .docked | .queued | .releasing | .relatching => some true
    | .empty | .unfitted => some false
    | .unknown | .faulted _ => none

/-- A reply carries a new token or shows a bike change (R126, R135). -/
abbrev QuietBroken (x : Dock) (rep : StatusReply) : Prop :=
  (∃ k ∈ rep.token, k.seq ≠ x.ack) ∨ (rep.bike = true ∧ rep.tag ≠ x.tag) ∨ knownPresence x = some (!rep.bike)

/-- A reply carries no new token and shows no bike change (R126, R135). -/
abbrev QuietHolds (x : Dock) (rep : StatusReply) : Prop :=
  (∀ k ∈ rep.token, k.seq = x.ack) ∧ (rep.bike = true → rep.tag = x.tag) ∧ knownPresence x = some rep.bike

/-- The line of a good STATUS reply: its turn has ended; quiet activity makes the quiet timer 0 or returns the line from
QUIET, and so does a pending command that the reply sets; else the line stands (R119, R120, R135 to R137). -/
abbrev LineReplied (s t : State) (l : Line) (x : Turn) (rep : StatusReply) : Prop :=
  ∃ c : LineCtl, TurnEnded s l x c ∧
    (QuietBroken (s.dock (dockIx l x.addr)) rep →
      (c.state = .running → t.line l = { c with quietTimer := 0, quietDue := false }) ∧
      (c.state = .quiet → Returned s t l c)) ∧
    (QuietHolds (s.dock (dockIx l x.addr)) rep → LineFollows s t l c)

/-- An event fails the turn in flight, as a line error or not: characters judged bad, a WAKE in the open reply window, a
gap in a reply, or the expiry of the reply window, which is a line error only where the link is ONLINE (R121, R128,
R137). -/
abbrev FailsTurn (s : State) (l : Line) (x : Turn) (i : Instr) (isError : Bool) : Prop :=
  ((s.line l).state = .running ∨ (s.line l).state = .quiet) ∧ (s.line l).turn = some x ∧
  ((∃ (m : Byte) (rest : List Byte), i = .badReply l m rest ∧ isError = true ∧
      (x.phase = .awaiting ∨ x.phase = .receiving m) ∧ (judgeReply x.addr m rest).bad = true) ∨
    (∃ m : Byte, i = .replyGapTimeout l ∧ isError = true ∧ x.phase = .receiving m) ∨
    (i = .wake l ∧ isError = true ∧ x.phase = .awaiting) ∨
    (i = .replyWindowExpiry l ∧ x.phase = .awaiting ∧ isError = decide ((s.dock (dockIx l x.addr)).link = .online)))

/-- An event makes the third failed turn of a dock whose link is not LOST: a turn fails, its command delivered, or the
eighth BUSY in a row, its command not delivered (R120, R123, R124). -/
abbrev ThirdFailure (s : State) (l : Line) (x : Turn) (i : Instr) (isError : Bool) (p : OpenProgress) : Prop :=
  (s.dock (dockIx l x.addr)).failed = 2 ∧ (s.dock (dockIx l x.addr)).link ≠ .lost ∧
  ((FailsTurn s l x i isError ∧ p = .delivered) ∨
    (ReplyDue s l x ∧ i = .busyReply l ∧ 7 ≤ (s.dock (dockIx l x.addr)).busy ∧ isError = false ∧ p = .notSent))

/-- A line error that has brought the error count to the threshold has restarted the line (R128 to R130). -/
abbrev RestartsItself (s : State) (l : Line) (isError : Bool) : Prop :=
  isError = true ∧ s.settings.errThreshold ≤ (s.line l).errors + 1

/-- The line control once a turn has failed below the error threshold (R119, R120, R128). -/
abbrev TurnFailed (s : State) (l : Line) (x : Turn) (isError : Bool) (c : LineCtl) : Prop :=
  ∃ c0 : LineCtl, TurnEnded s l x c0 ∧ c = { c0 with errors := c0.errors + (if isError then 1 else 0) }

/-! ## The reasons of a decision (R48 to R55) -/

/-- A token fails checks 1 to 5 with this reason, the first that fails (R48 to R50, R10, R12). -/
def FailsFirstFive (s : State) (t : Token) : Reason → Prop
  | .clockUnset => s.clockSet = false
  | .unknownCredential => s.clockSet = true ∧ (t.cred = 0#24 ∨ s.findCred t.cred = none)
  | .checkMismatch => s.clockSet = true ∧ t.cred ≠ 0#24 ∧
      ∃ e ∈ s.findCred t.cred, checkWord e.secret t.cred t.counter t.issue ≠ t.tag
  | .counterStale => s.clockSet = true ∧ t.cred ≠ 0#24 ∧
      ∃ e ∈ s.findCred t.cred, checkWord e.secret t.cred t.counter t.issue = t.tag ∧
        (t.counter = e.counter ∨ 32768 ≤ (t.counter - e.counter).toNat)
  | .counterFar => s.clockSet = true ∧ t.cred ≠ 0#24 ∧
      ∃ e ∈ s.findCred t.cred, checkWord e.secret t.cred t.counter t.issue = t.tag ∧
        s.settings.lookAhead < (t.counter - e.counter).toNat ∧ (t.counter - e.counter).toNat ≤ 32767 ∧
        t.counter ≠ e.counter
  | .tokenExpired => s.clockSet = true ∧ t.cred ≠ 0#24 ∧
      ∃ e ∈ s.findCred t.cred, checkWord e.secret t.cred t.counter t.issue = t.tag ∧
        (1 ≤ (t.counter - e.counter).toNat ∧ (t.counter - e.counter).toNat ≤ s.settings.lookAhead ∧
          (t.counter - e.counter).toNat ≤ 32767) ∧
        ((s.minute - t.issue).toNat ≤ 32767 ∧ (s.classOf e).life < (s.minute - t.issue).toNat)
  | .tokenEarly => s.clockSet = true ∧ t.cred ≠ 0#24 ∧
      ∃ e ∈ s.findCred t.cred, checkWord e.secret t.cred t.counter t.issue = t.tag ∧
        (1 ≤ (t.counter - e.counter).toNat ∧ (t.counter - e.counter).toNat ≤ s.settings.lookAhead ∧
          (t.counter - e.counter).toNat ≤ 32767) ∧
        (32768 ≤ (s.minute - t.issue).toNat ∧ s.settings.skew < 65536 - (s.minute - t.issue).toNat)
  | .admitted | .suspended | .revoked | .lapsed | .noBike | .dockBusy | .dockHeld | .dockFaulted | .noDockFree
  | .rideLimit | .balanceLow | .storeFull => False

/-- A token passes checks 1 to 5 against this entry (R48 to R50). -/
abbrev PassesFirstFive (s : State) (t : Token) (e : Cred) : Prop :=
  s.clockSet = true ∧ t.cred ≠ 0#24 ∧ s.findCred t.cred = some e ∧
  checkWord e.secret t.cred t.counter t.issue = t.tag ∧
  (1 ≤ (t.counter - e.counter).toNat ∧ (t.counter - e.counter).toNat ≤ s.settings.lookAhead ∧
    (t.counter - e.counter).toNat ≤ 32767) ∧
  (((s.minute - t.issue).toNat ≤ 32767 ∧ (s.minute - t.issue).toNat ≤ (s.classOf e).life) ∨
    (32768 ≤ (s.minute - t.issue).toNat ∧ 65536 - (s.minute - t.issue).toNat ≤ s.settings.skew))

/-- The dock check refuses a dock with this reason, the first condition of R52 that is met. -/
def DockFails (s : State) (mayHeld : Bool) (d : DockIx) : Reason → Prop
  | .dockFaulted =>
      ((s.dock d).state = .unfitted ∨ (s.dock d).state = .unknown ∨ (s.dock d).state = .faulted .jammed ∨
        (s.dock d).state = .faulted .reader) ∨ (s.dock d).link ≠ .online ∨
      ((s.dock d).state = .docked ∧ ((s.dock d).tag = 0#32 ∨ ∃ r ∈ s.rides, r.tag = (s.dock d).tag))
  | .dockBusy => (s.dock d).link = .online ∧
      ((s.dock d).state = .queued ∨ (s.dock d).state = .releasing ∨ (s.dock d).state = .relatching)
  | .noBike => (s.dock d).link = .online ∧ (s.dock d).state = .empty
  | .dockHeld => (s.dock d).link = .online ∧ (s.dock d).state = .docked ∧ (s.dock d).tag ≠ 0#32 ∧
      (∀ r ∈ s.rides, r.tag ≠ (s.dock d).tag) ∧ (s.dock d).hold ≠ none ∧ mayHeld = false
  | .admitted | .clockUnset | .unknownCredential | .checkMismatch | .counterStale | .counterFar | .tokenExpired
  | .tokenEarly | .suspended | .revoked | .lapsed | .noDockFree | .rideLimit | .balanceLow | .storeFull => False

/-- The dock check passes a dock (R52, R53). -/
abbrev DockPasses (s : State) (mayHeld : Bool) (d : DockIx) : Prop :=
  (s.dock d).state = .docked ∧ (s.dock d).link = .online ∧ (s.dock d).tag ≠ 0#32 ∧
  (∀ r ∈ s.rides, r.tag ≠ (s.dock d).tag) ∧ ((s.dock d).hold = none ∨ mayHeld = true)

/-- A dock is eligible for the choice of R54. -/
abbrev Eligible (s : State) (mayHeld : Bool) (d : DockIx) : Prop :=
  DockPasses s mayHeld d ∧ ((s.line (lineOf d)).state = .running ∨ (s.line (lineOf d)).state = .quiet)

/-- The choice of R54: eligible, docked at least as long as any eligible dock, and of the lowest index of those docked
as long. -/
abbrev Chosen (s : State) (mayHeld : Bool) (d : DockIx) : Prop :=
  Eligible s mayHeld d ∧ ∀ d' : DockIx, Eligible s mayHeld d' →
    (s.minute - (s.dock d').since).toNat < (s.minute - (s.dock d).since).toNat ∨
    ((s.minute - (s.dock d').since).toNat = (s.minute - (s.dock d).since).toNat ∧ d.val ≤ d'.val)

/-- Check 7 passes with this dock: the source dock, the named dock or the chosen one (R52 to R54). -/
def DockFor (s : State) (mayHeld : Bool) (o : Origin) (d : DockIx) : Prop :=
  match o with
  | .dock d' _ => d = d' ∧ DockPasses s mayHeld d
  | .kiosk (some d') => d = d' ∧ DockPasses s mayHeld d
  | .kiosk none => Chosen s mayHeld d

/-- Check 7 fails with this reason (R52 to R54). -/
def DockReason (s : State) (mayHeld : Bool) (o : Origin) (r : Reason) : Prop :=
  match o with
  | .dock d _ => DockFails s mayHeld d r
  | .kiosk (some d) => DockFails s mayHeld d r
  | .kiosk none => r = .noDockFree ∧ ∀ d : DockIx, ¬ Eligible s mayHeld d

/-- A token that has passed checks 1 to 5 for an entry fails checks 6 to 10 with this reason, the first that fails (R51
to R55). -/
def FailsLastFive (s : State) (o : Origin) (e : Cred) : Reason → Prop
  | .suspended => e.state = .suspended
  | .revoked => e.state = .revoked
  | .lapsed => e.state = .lapsed
  | .noBike => e.state = .active ∧ DockReason s (s.classOf e).mayHeld o .noBike
  | .dockBusy => e.state = .active ∧ DockReason s (s.classOf e).mayHeld o .dockBusy
  | .dockHeld => e.state = .active ∧ DockReason s (s.classOf e).mayHeld o .dockHeld
  | .dockFaulted => e.state = .active ∧ DockReason s (s.classOf e).mayHeld o .dockFaulted
  | .noDockFree => e.state = .active ∧ DockReason s (s.classOf e).mayHeld o .noDockFree
  | .rideLimit => e.state = .active ∧ (∃ d, DockFor s (s.classOf e).mayHeld o d) ∧
      (s.classOf e).limit ≤ e.openRides
  | .balanceLow => e.state = .active ∧ (∃ d, DockFor s (s.classOf e).mayHeld o d) ∧
      e.openRides < (s.classOf e).limit ∧ e.balance < (s.classOf e).minBal
  | .storeFull => e.state = .active ∧ (∃ d, DockFor s (s.classOf e).mayHeld o d) ∧
      e.openRides < (s.classOf e).limit ∧ (s.classOf e).minBal ≤ e.balance ∧ s.free = []
  | .admitted | .clockUnset | .unknownCredential | .checkMismatch | .counterStale | .counterFar | .tokenExpired
  | .tokenEarly => False

/-- Checks 6 to 10 pass with this dock (R51 to R55). -/
abbrev PassesLastFive (s : State) (o : Origin) (e : Cred) (d : DockIx) : Prop :=
  e.state = .active ∧ DockFor s (s.classOf e).mayHeld o d ∧ e.openRides < (s.classOf e).limit ∧
  (s.classOf e).minBal ≤ e.balance ∧ s.free ≠ []

/-! ## What a decision leaves (R59, R60, R62, R63, R67) -/

/-- Does a refusal raise the mismatch count of a dock: CHECK_MISMATCH for that dock as source, and fitted (R62)? -/
abbrev Mismatched (s : State) (x : Presentation) (r : Reason) (d : DockIx) : Prop :=
  r = .checkMismatch ∧ x.origin.source = some d ∧ (s.dock d).state ≠ .unfitted

/-- The mismatch count that such a refusal leaves (R62). -/
def mismatchAfter (x : Dock) : Nat := min (x.mismatch + 1) 15

/-- The hold that such a refusal leaves: AUTO where the count reaches the burst threshold at a dock not held (R63). -/
def holdAfter (burst : Nat) (x : Dock) : Option HoldOrigin :=
  if burst ≤ mismatchAfter x ∧ x.hold = none then some .auto else x.hold

/-- The pending command of a source dock after a refusal: SHOW REFUSE, but OPEN and CLOSE stand, as does a SHOW at a
QUEUED dock, and an UNFITTED dock is sent none (R60). -/
def refusedPending (x : Dock) (seq : Byte) : Pending :=
  match x.state, x.pending with
  | .unfitted, p => p
  | _, .openCmd => .openCmd
  | _, .closeCmd => .closeCmd
  | .queued, .showCmd c q => .showCmd c q
  | _, _ => .showCmd .refuse seq

/-- What a refused decision leaves besides the credential table: the queue, the docks with their SHOW, mismatch count
and hold, a QUIET line returned by that SHOW, the decision record, and AUTH_BURST at the threshold; the order of those two
records is open (log 9). -/
abbrev Refused (s t : State) (x : Presentation) (rest : List Presentation) (r : Reason) : Prop :=
  let b : Body := .decision x.origin.source x.token.cred r none none
  let burst : DockIx → Prop := fun d => Mismatched s x r d ∧ s.settings.burst ≤ mismatchAfter (s.dock d)
  t.queue = rest ∧ t.holdOff = (s.holdOff && decide (s.settings.low < rest.length)) ∧ t.rides = s.rides ∧
  SameBase s t ∧ PortsKept s t ∧
  (∀ d : DockIx, t.dock d = { s.dock d with
    mismatch := if Mismatched s x r d then mismatchAfter (s.dock d) else (s.dock d).mismatch
    hold := if Mismatched s x r d then holdAfter s.settings.burst (s.dock d) else (s.dock d).hold
    pending := (t.dock d).pending }) ∧
  (∀ (d : DockIx) (q : Byte), x.origin = .dock d q → (t.dock d).pending = refusedPending (s.dock d) q) ∧
  (∀ d : DockIx, x.origin.source ≠ some d → (t.dock d).pending = (s.dock d).pending ∨
    (s.dock d).pending = .none ∧ (t.dock d).pending = .openCmd) ∧
  ((∀ d : DockIx, x.origin.source = some d → (s.line (lineOf d)).state ≠ .quiet) →
    (∀ d : DockIx, x.origin.source ≠ some d → (t.dock d).pending = (s.dock d).pending) ∧ t.grants = s.grants ∧
    t.releaseQ = s.releaseQ ∧ t.lineA = s.lineA ∧ t.lineB = s.lineB) ∧
  (GrantsIssued s → (∀ d : DockIx, x.origin.source ≠ some d → (t.dock d).pending = (s.dock d).pending) ∧
    t.grants = s.grants ∧ t.releaseQ = s.releaseQ) ∧
  LinesFollow s t ∧
  ((∀ d : DockIx, ¬ burst d ∨ s.level .authBurst = 0 ∨ s.suppressed (.dock d) .authBurst = true) →
    (t.free, t.listK) = postPool s.free s.listK b ∧ t.listN = s.listN ∧
    (s.free = [] → s.listK = [] → Overflowed t .k)) ∧
  (∀ d : DockIx, burst d → s.level .authBurst ≠ 0 → s.suppressed (.dock d) .authBurst = false → 2 ≤ s.free.length →
    PostedK t b ∧ ∃ slot ∈ s.free, PostedN s t slot .authBurst (.notice (.dock d) s.minute s.second
      (.authBurst (mismatchAfter (s.dock d)) x.token.cred (holdAfter s.settings.burst (s.dock d)))))

/-- The ride number so many steps round from one, 0 passed over (R65). -/
def numberAfter : Nat → RideNo → RideNo
  | 0, n => n
  | k + 1, n => numberAfter k (if n = 0xFFFF#16 then 1#16 else n + 1)

/-- Which ride an admission ages out: none below 256 rides; at 256 the OPEN ride whose take-up lies furthest back, of
several the lowest number (R67). -/
def AgedOut (s : State) : Option Ride → Prop
  | none => s.rides.length < 256
  | some r => s.rides.length = 256 ∧ r ∈ s.rides ∧ r.state = .opened ∧ ∀ y ∈ s.rides, y.state = .opened →
      (s.minute - y.takeUp.getD 0#16).toNat < (s.minute - r.takeUp.getD 0#16).toNat ∨
      ((s.minute - y.takeUp.getD 0#16).toNat = (s.minute - r.takeUp.getD 0#16).toNat ∧
        r.number.toNat ≤ y.number.toNat)

/-- The rides that an ageing out leaves. -/
def ridesLeft (s : State) : Option Ride → List Ride
  | none => s.rides
  | some r => s.rides.filter (fun y => decide (y.number ≠ r.number))

/-- The figures of an AGED_OUT record: the duration, no charge, the balance as it stands (R67, R84). -/
def agedFigures (e : Cred) (release now : Minute) : CloseFigures :=
  { duration := if (now - release).toNat ≤ 32767 then (now - release).toNat else 0,
    clockStep := decide (32768 ≤ (now - release).toNat), charge := 0, capped := false, shortfall := 0,
    balance := e.balance }

/-! ## The bytes of a record slot (R192, R193) -/

/-- The number that a layout holds at a byte offset in so many bytes, most significant byte first (R192). -/
def fieldAt (bytes : List Byte) (offset width : Nat) : Nat :=
  ((bytes.drop offset).take width).foldl (fun v b => v * 256 + b.toNat) 0

/-- The number whose bits these are, bit 0 first. -/
def bitsOf : List Bool → Nat
  | [] => 0
  | b :: bs => (if b then 1 else 0) + 2 * bitsOf bs

/-- Presence map and kind-specific fields of a notice, by the second table of R193. -/
def NoticeLaidOut (bytes : List Byte) (b : NoticeBody) : Prop :=
  let num := fieldAt bytes
  match b with
  | .nodeLost ride => num 0 1 = 0x01 ∧ num 2 1 = bitsOf [ride.isSome] ∧ num 9 2 = (ride.map (fun x => x.1.toNat)).getD 0 ∧
      num 11 1 = (match ride with
        | none => 0
        | some (_, .cancelled) => 1
        | some (_, .toRelatching) => 2
        | some (_, .unchanged) => 3) ∧ num 12 20 = 0
  | .nodeBack k => num 0 1 = 0x02 ∧ num 2 1 = 0 ∧ num 9 1 = (match k with
        | .status => 0
        | .busy => 1) ∧ num 10 22 = 0
  | .latchJam tag c ride => num 0 1 = 0x03 ∧ num 2 1 = bitsOf [ride.isSome] ∧ num 9 4 = tag.toNat ∧
      num 13 1 = (match c with
        | .node => 1
        | .relatch => 2) ∧ num 14 2 = (ride.map (fun x => x.toNat)).getD 0 ∧ num 16 16 = 0
  | .unauthRemoval tag ride => num 0 1 = 0x04 ∧ num 2 1 = bitsOf [ride.isSome] ∧ num 9 4 = tag.toNat ∧
      num 13 2 = (ride.map (fun x => x.toNat)).getD 0 ∧ num 15 17 = 0
  | .rideStarted n c late => num 0 1 = 0x05 ∧ num 2 1 = 0 ∧ num 9 2 = n.toNat ∧ num 11 3 = c.toNat ∧
      num 14 1 = bitsOf [late] ∧ num 15 17 = 0
  | .authBurst n c h => num 0 1 = 0x06 ∧ num 2 1 = 0 ∧ num 9 1 = n % 256 ∧ num 10 3 = c.toNat ∧
      num 13 1 = (match h with
        | none => 0
        | some .n => 1
        | some .k => 2
        | some .auto => 3) ∧ num 14 18 = 0
  | .lineDegraded n limit => num 0 1 = 0x07 ∧ num 2 1 = 0 ∧ num 9 1 = n % 256 ∧ num 10 1 = limit % 256 ∧ num 11 21 = 0
  | .lineRestarted c rate => num 0 1 = 0x08 ∧ num 2 1 = 0 ∧ num 9 1 = (match c with
        | none => 0
        | some .fit => 1
        | some .request => 2
        | some .errors => 3
        | some .rate => 4) ∧ num 10 1 = (match rate with
        | .r19200 => 0
        | .r38400 => 1
        | .r57600 => 2
        | .r115200 => 3) ∧ num 11 21 = 0
  | .sweepDone n kept lapsed deleted => num 0 1 = 0x09 ∧ num 2 1 = 0 ∧ num 9 1 = n.toNat ∧ num 10 2 = kept % 65536 ∧
      num 12 2 = lapsed % 65536 ∧ num 14 2 = deleted % 65536 ∧ num 16 16 = 0
  | .sweepAbandoned n c new => num 0 1 = 0x0A ∧ num 2 1 = bitsOf [new.isSome] ∧ num 9 1 = n.toNat ∧
      num 10 1 = (match c with
        | .idle => 1
        | .reopen => 2
        | .portClear => 3) ∧ num 11 1 = (new.map (fun x => x.toNat)).getD 0 ∧ num 12 20 = 0
  | .readerFault tag => num 0 1 = 0x0B ∧ num 2 1 = 0 ∧ num 9 4 = tag.toNat ∧ num 13 19 = 0
  | .nodePowerLow => num 0 1 = 0x0C ∧ num 2 1 = 0 ∧ num 9 23 = 0

/-- The 32 bytes of a slot are those of the tables of R193, the codes those of section 12.4. That an absent field holds
zeros is the model's choice (log 36). -/
def RecordLaidOut (r : Record) : Prop :=
  let num := fieldAt r.bytes
  r.bytes.length = 32 ∧ num 1 1 = r.level % 256 ∧
  match r.body with
  | .trip k t => num 0 1 = (match k with
        | .closedHere => 0x10
        | .closedRemote => 0x11
        | .agedOut => 0x12
        | .foreignReturn => 0x13) ∧
      num 2 1 = bitsOf [t.ride.isSome, t.releaseAt.isSome, t.returnAt.isSome, t.release.isSome, t.duration.isSome,
        t.balance.isSome] ∧
      num 3 1 = bitsOf [t.clockStep, t.capped, t.late, t.quick, false, false, false, r.clockSet] ∧
      num 4 2 = (t.ride.map (fun x => x.toNat)).getD 0 ∧ num 6 3 = t.cred.toNat ∧ num 9 4 = t.tag.toNat ∧
      num 13 1 = (t.releaseAt.map (fun x => x.val)).getD 0 ∧ num 14 1 = (t.returnAt.map (fun x => x.val)).getD 0 ∧
      num 15 2 = (t.release.map (fun x => x.toNat)).getD 0 ∧ num 17 2 = t.endMinute.toNat ∧
      num 19 2 = t.duration.getD 0 % 65536 ∧ num 21 2 = t.charge % 65536 ∧ num 23 2 = t.shortfall % 65536 ∧
      num 25 2 = (t.balance.getD 0 % 65536).toNat ∧ num 27 5 = 0
  | .notice subject m sec b => NoticeLaidOut r.bytes b ∧
      num 3 1 = bitsOf [false, false, false, false, false, false, false, r.clockSet] ∧
      (num 4 1, num 5 1) = (match subject with
        | .dock d => (0, d.val)
        | .line .a => (1, 0)
        | .line .b => (1, 1)
        | .none => (2, 0)) ∧ num 6 2 = m.toNat ∧ num 8 1 = sec.val
  | .decision src c reason n d => num 0 1 = 0x20 ∧ num 2 1 = bitsOf [n.isSome, d.isSome] ∧
      num 3 1 = bitsOf [false, false, false, false, false, false, false, r.clockSet] ∧
      num 4 1 = (src.map (fun x => x.val)).getD 0x80 ∧ num 5 3 = c.toNat ∧
      num 8 1 = [Reason.admitted, .clockUnset, .unknownCredential, .checkMismatch, .counterStale, .counterFar,
        .tokenExpired, .tokenEarly, .suspended, .revoked, .lapsed, .noBike, .dockBusy, .dockHeld, .dockFaulted,
        .noDockFree, .rideLimit, .balanceLow, .storeFull].idxOf reason ∧
      num 9 2 = (n.map (fun x => x.toNat)).getD 0 ∧ num 11 1 = (d.map (fun x => x.val)).getD 0 ∧ num 12 20 = 0
  | .outcome n c d o => num 0 1 = 0x21 ∧ num 2 1 = 0 ∧
      num 3 1 = bitsOf [false, false, false, false, false, false, false, r.clockSet] ∧
      num 4 2 = n.toNat ∧ num 6 3 = c.toNat ∧ num 9 1 = d.val ∧
      num 10 1 = [RideOutcome.taken, .notTaken, .queueTimeout, .cancelledPort, .cancelledCredential, .latchFault,
        .dockLost].idxOf o ∧ num 11 21 = 0

end Sys2Proof.Machine
end

