-- ==== Sys2Proof/Certificates/Slice0/Obligations.lean ====
section
/-! DEFINITION. The statements about the part, from the numbered rules of the manual. -/

section

open Sys2Proof Sys2Proof.Machine

/-! ## The step, reset, and what holds of every command -/

/-- One step takes the command at the front of the queue and runs it with the rest of the queue; with none waiting the
part idles (the model's choice, log 2). -/
def Obligations.StepTakesFront : Prop :=
  (∀ (c : Instr) (rest : List Instr) (s : State),
    step { s with pending := c :: rest } = exec c { s with pending := rest }) ∧
  (∀ s : State, s.pending = [] → step s = .next s)

/-- Every command completes in every state, and none touches the commands that wait. An event whose condition does not hold
changes nothing (the model's reading, log 1). -/
def Obligations.EveryCommandCompletes : Prop :=
  ∀ (c : Instr) (s : State), ∃ t : State, exec c s = .next t ∧ t.pending = s.pending

/-- R185 and the rule of each item: what power-on or pin reset leaves; a select line found asserted starts no
transaction. -/
def Obligations.ResetValues : Prop :=
  ∀ (selN selK : Bool) (s : State), ∃ t : State,
    exec (.powerOnOrPinReset selN selK) s = .next t ∧
    (t.minute = 0#16 ∧ t.second.val = 0 ∧ t.clockSet = false) ∧
    (∀ c : Fin 4, t.classes.get c = ⟨0, 1, 0, 0, 0, 1, 10, false⟩) ∧
    (t.creds = [] ∧ t.sweep = ⟨0#8, 0#8, none⟩) ∧
    (t.queue = [] ∧ t.holdOff = false ∧ t.rides = [] ∧ t.nextRide = 1#16) ∧
    (∀ d : DockIx, t.dock d = ⟨.unfitted, .unknown, 0#32, 0#16, none, .none, 0, 0, 0#8, 0, 0, false⟩) ∧
    (t.releaseQ = [] ∧ t.grants = []) ∧
    (∀ l : Line, t.line l =
      ⟨.disabled, .r38400, false, none, none, 0, none, 0, none, .stopped, none, false, false⟩) ∧
    (t.free = List.range 384 ∧ t.listN = [] ∧ t.listK = []) ∧
    (t.levels.toList.map (fun x => x.val) = [2, 1, 3, 3, 1, 2, 2, 1, 1, 2, 2, 1, 1, 1, 1, 1]) ∧
    t.settings = ⟨64, 2, 20, 45, 4, 16, 8, 600, 5, false, false, 300, 2, 6, 12, .r38400, .r38400⟩ ∧
    t.portN = ⟨none, 0#8, 0x3F#8, [], if selN then .ignored else .idle, []⟩ ∧
    t.portK = ⟨none, 0#8, 0x0F#8, [], if selK then .ignored else .idle, []⟩ ∧
    (t.present .n = 0x02#8 ∧ t.present .k = 0#8 ∧ t.attention .n = false ∧ t.attention .k = false) ∧
    t.pending = s.pending

/-- R177: a request on a port that does not accept it is refused WRONG_PORT and changes nothing but the held response
of its own port (R173, R174). -/
def Obligations.WrongPortRefused : Prop :=
  ∀ (i : Instr) (q : Req) (p : Port) (body : List Byte) (s : State),
    requestParts i = some (q, p, body) → i.wellFormed = true → s.takes p →
    (p = .k ∧ q ∈ [Req.credLoad, .credState, .credBalance, .credRemove, .sweepOpen, .sweepClose, .clockSet, .classSet,
        .stationSet, .kindSet, .dockFit, .rideClose, .lineRestart] ∨ p = .n ∧ q = .tokenPresent) →
    exec i s = .next (s.answered p q.code (body.length + 3) .wrongPort .none)

/-- R184: a request on one port changes no item of the other port but its latched events. -/
def Obligations.OtherPortUntouched : Prop :=
  ∀ (i : Instr) (q : Req) (p : Port) (body : List Byte) (s t : State),
    requestParts i = some (q, p, body) → exec i s = .next t →
    KeepsItems (s.port (otherPort p)) (t.port (otherPort p))

/-- R20: no command but the admission decision reads a secret. Two stations that differ in the secrets alone give the
same next state but for the secrets. -/
def Obligations.SecretHidden : Prop :=
  ∀ (c : Instr) (s t : State), c ≠ .admissionDecision → exec c s = .next t →
    ∃ u : State, exec c s.hideSecrets = .next u ∧ u.hideSecrets = t.hideSecrets

/-! ## Arithmetic of chapter 1 -/

/-- R8, R10, R12: the check word as exact arithmetic modulo 2^32; the counter window and the token time window, each with
its three results. -/
def Obligations.TokenArithmetic : Prop :=
  (∀ (secret : BitVec 32) (c : CredNo) (n : Word16) (m : Minute),
    let a : Nat := (n.toNat * 65536 + m.toNat) ^^^ secret.toNat
    let k := n.toNat % 32
    let b := (a * 2 ^ k) % 2 ^ 32 + a / 2 ^ (32 - k)
    (checkWord secret c n m).toNat = (b + c.toNat * 40503) % 2 ^ 32) ∧
  (∀ (last n : Word16) (w : Nat), w ≤ 32767 →
    let d := (n.toNat + 65536 - last.toNat) % 65536
    (counterTest last n w = some .counterStale ↔ d = 0 ∨ 32768 ≤ d) ∧
    (counterTest last n w = none ↔ 1 ≤ d ∧ d ≤ w) ∧
    (counterTest last n w = some .counterFar ↔ w + 1 ≤ d ∧ d ≤ 32767)) ∧
  (∀ (now issue : Minute) (life skew : Nat), life ≤ 32767 → skew ≤ 32767 →
    let age := (now.toNat + 65536 - issue.toNat) % 65536
    (timeTest now issue life skew = none ↔ age ≤ life ∨ (32768 ≤ age ∧ 65536 - age ≤ skew)) ∧
    (timeTest now issue life skew = some .tokenExpired ↔ age ≤ 32767 ∧ life < age) ∧
    (timeTest now issue life skew = some .tokenEarly ↔ 32768 ≤ age ∧ skew < 65536 - age))

/-- R15: the charging units are the billable minutes divided by the unit length, rounded up. -/
def Obligations.ChargeUnits : Prop :=
  ∀ (c : ClassRec) (duration : Nat), 1 ≤ c.unit → c.unit ≤ 240 → duration ≤ 32767 →
    let billable := if c.incl < duration then duration - c.incl else 0
    chargeUnits c duration = (billable + c.unit - 1) / c.unit ∧
    billable ≤ chargeUnits c duration * c.unit ∧ chargeUnits c duration * c.unit < billable + c.unit ∧
    (chargeUnits c duration = 0 ↔ billable = 0) ∧ billable ≤ 32767 ∧ chargeUnits c duration ≤ 32767

/-- R14 to R18: the figures of every close, and what they leave in the entry, agree with the one formula. -/
def Obligations.Settlement : Prop :=
  ∀ (c : ClassRec) (e : Cred) (release endMinute : Minute),
    closeFigures c e release endMinute = settlement c e release endMinute ∧
    (-(e.overdraft : Int) ≤ e.balance → e.balance ≤ 32767 →
      let f := closeFigures c e release endMinute
      (-(e.overdraft : Int) ≤ f.balance) ∧ f.balance ≤ e.balance ∧ f.charge ≤ c.cap ∧
      f.balance = e.balance - (f.charge : Int) + (f.shortfall : Int) ∧
      (0 < f.shortfall → f.balance = -(e.overdraft : Int)) ∧ (f.clockStep = true → f.charge = 0))

/-! ## Clock and classes -/

/-- R1, R2, R62: the second tick, the minute rollover with its wrap, and every window that counts seconds. What falls
due at the tick is an event of its own (log 4); at second 59 MINUTE_ROLLOVER is that tick (log 3). -/
def Obligations.SecondTickCounts : Prop :=
  ∀ s : State, ∃ t : State, exec .secondTick s = .next t ∧
    (s.second.val = 59 → exec .minuteRollover s = .next t) ∧
    (s.second.val < 59 → t.second.val = s.second.val + 1 ∧ t.minute = s.minute ∧ ∀ d : DockIx, t.dock d = s.dock d) ∧
    (s.second.val = 59 → t.second.val = 0 ∧ t.minute.toNat = (s.minute.toNat + 1) % 65536 ∧
      ∀ d : DockIx, t.dock d = { s.dock d with mismatch := 0 }) ∧
    t.rides = s.rides.map (fun r =>
      { r with waitLeft := r.waitLeft.map (fun x => x - 1), windowLeft := r.windowLeft.map (fun x => x - 1) }) ∧
    t.sweep = { s.sweep with idle := s.sweep.idle.map (fun x => ⟨min (x.elapsed + 1) x.limit, x.limit⟩) } ∧
    (∀ l : Line, t.line l = { s.line l with
      errTimer := (s.line l).errTimer.map (fun x => min (x + 1) 8)
      quietInterval := (s.line l).quietInterval.map (fun x => ⟨min (x.elapsed + 1) x.limit, x.limit⟩)
      quietTimer := (t.line l).quietTimer
      quietDue := (t.line l).quietDue }) ∧
    (∀ l : Line, if (s.line l).state = .running ∧ s.settings.quiet l = true then
        (s.lineBusy l = true → (t.line l).quietTimer = 0 ∧ (t.line l).quietDue = false) ∧
        (s.lineBusy l = false → (t.line l).quietTimer = min ((s.line l).quietTimer + 1) 3600 ∧
          ((t.line l).quietDue = true ↔ s.settings.quietDelay ≤ (t.line l).quietTimer))
      else (t.line l).quietTimer = (s.line l).quietTimer ∧ (t.line l).quietDue = (s.line l).quietDue) ∧
    t.clockSet = s.clockSet ∧ t.classes = s.classes ∧ t.creds = s.creds ∧ t.queue = s.queue ∧ t.holdOff = s.holdOff ∧
    t.nextRide = s.nextRide ∧ t.releaseQ = s.releaseQ ∧ t.grants = s.grants ∧ SamePool s t ∧ t.levels = s.levels ∧
    t.settings = s.settings ∧ t.portN = s.portN ∧ t.portK = s.portK ∧ t.pending = s.pending

/-- R3, R4: CLOCK SET writes the counters and sets the flag; a second above 59 is clamped; nothing else changes. -/
def Obligations.ClockSetWrites : Prop :=
  ∀ (s : State) (m : Word16) (b : Byte), s.takes .n →
    exec (.clockSet .n m b) s = .next
      (State.answered { s with minute := m, second := Fin.ofNat 60 (min b.toNat 59), clockSet := true }
        .n 0x07#8 6 (if 59 < b.toNat then .clamped else .ok) .none)

/-- R6: CLASS SET replaces the whole record with its checked values; a class number above 3 is refused BAD_VALUE; on
Port K it is refused WRONG_PORT. -/
def Obligations.ClassSetReplaces : Prop :=
  ∀ (s : State) (cls incl unit : Byte) (price cap minBal : Word16) (limit : Byte) (life : Word16) (held : Byte),
    (s.takes .n → (h : cls.toNat < 4) →
      exec (.classSet .n cls incl unit price cap minBal limit life held) s = .next
        (State.answered { s with classes := s.classes.set cls.toNat (
            { incl := min incl.toNat 240, unit := max 1 (min unit.toNat 240), price := min price.toNat 1000,
              cap := min cap.toNat 30000, minBal := minBal.toInt, limit := max 1 (min limit.toNat 4),
              life := max 1 (min life.toNat 240), mayHeld := decide (held ≠ 0#8) } : ClassRec) h }
          .n 0x08#8 16
          (if incl.toNat ≤ 240 ∧ (1 ≤ unit.toNat ∧ unit.toNat ≤ 240) ∧ price.toNat ≤ 1000 ∧ cap.toNat ≤ 30000 ∧
              (1 ≤ limit.toNat ∧ limit.toNat ≤ 4) ∧ (1 ≤ life.toNat ∧ life.toNat ≤ 240) then .ok else .clamped)
          .none)) ∧
    (s.takes .n → 4 ≤ cls.toNat →
      exec (.classSet .n cls incl unit price cap minBal limit life held) s = .next
        (s.answered .n 0x08#8 16 .badValue .none)) ∧
    (s.takes .k → exec (.classSet .k cls incl unit price cap minBal limit life held) s = .next
        (s.answered .k 0x08#8 16 .wrongPort .none))

/-! ## Credentials and sweeps -/

/-- R24, R25, R33, R38: a CRED LOAD of state ACTIVE or SUSPENDED that passes its checks creates or replaces its entry,
with keep-local, clamping, mark and the restart of the idle timer, and touches nothing else. One refused BAD_VALUE or
FULL changes no entry; it restarts the idle timer of an open sweep like any other. -/
def Obligations.CredLoadWrites : Prop :=
  ∀ (s : State) (c : CredNo) (st cls : Byte) (secret : BitVec 32) (counter balance overdraft : Word16) (keep : Byte),
    s.takes .n →
    let sweep : Sweep := if s.sweep.openNo = 0#8 then s.sweep else { s.sweep with idle := some ⟨0, s.settings.idleLimit⟩ }
    let room : Prop := (s.findCred c).isSome = true ∨ s.creds.length < 2048
    (c = 0#24 ∨ 3 ≤ st.toNat ∨ 4 ≤ cls.toNat →
      exec (.credLoad .n c st cls secret counter balance overdraft keep) s = .next
        (State.answered { s with sweep := sweep } .n 0x01#8 19 .badValue .none)) ∧
    (c ≠ 0#24 → st.toNat < 3 → cls.toNat < 4 → ¬ room →
      exec (.credLoad .n c st cls secret counter balance overdraft keep) s = .next
        (State.answered { s with sweep := sweep } .n 0x01#8 19 .full .none)) ∧
    (c ≠ 0#24 → st.toNat < 2 → (h : cls.toNat < 4) → room →
      let d := min overdraft.toNat 32767
      let kept := if keep = 0#8 then none else s.findCred c
      let b := (kept.map (fun e => e.balance)).getD balance.toInt
      let e : Cred := { number := c, state := if st = 0#8 then .active else .suspended, cls := ⟨cls.toNat, h⟩,
                        secret := secret, counter := (kept.map (fun e => e.counter)).getD counter,
                        balance := max (-(d : Int)) (min 32767 b), overdraft := d,
                        openRides := ((s.findCred c).map (fun e => e.openRides)).getD 0,
                        mark := if s.sweep.openNo = 0#8 then s.sweep.lastClosed else s.sweep.openNo }
      ∃ t : State, exec (.credLoad .n c st cls secret counter balance overdraft keep) s = .next t ∧
        t.findCred c = some e ∧ (∀ c', c' ≠ c → t.findCred c' = s.findCred c') ∧
        t = State.answered { s with creds := t.creds, sweep := sweep }
          .n 0x01#8 19 (if d = overdraft.toNat ∧ e.balance = b then .ok else .clamped) .none)

/-- R26: CRED STATE to ACTIVE or SUSPENDED sets the state of the entry and nothing else; LAPSED and codes outside the
table are refused BAD_VALUE before the number is looked up, and an unknown number NOT_FOUND. R28: an entry that becomes
REVOKED, by CRED STATE or by CRED LOAD, loses its QUEUED rides, each cancelled with CANCELLED_CREDENTIAL, and keeps its
others; its open-ride count falls by the number cancelled. REVOKED for a REVOKED entry changes nothing. R24, R25, R33, R38:
CRED LOAD with REVOKED writes every field as any other CRED LOAD does, of an entry that exists and of a new one. -/
def Obligations.CredStateSets : Prop :=
  ∀ (s : State) (c : CredNo), s.takes .n → CredsSorted s →
    let queued := s.rides.filter (fun r => decide (r.cred = c ∧ r.state = .queued))
    (∀ st : Byte, 3 ≤ st.toNat → exec (.credState .n c st) s = .next (s.answered .n 0x02#8 7 .badValue .none)) ∧
    (∀ st : Byte, st.toNat < 3 → s.findCred c = none →
      exec (.credState .n c st) s = .next (s.answered .n 0x02#8 7 .notFound .none)) ∧
    (∀ st : Byte, st.toNat < 2 → (s.findCred c).isSome = true →
      exec (.credState .n c st) s = .next
        (State.answered { s with creds := s.creds.map (fun e =>
            if e.number = c then { e with state := if st = 0#8 then .active else .suspended } else e) }
          .n 0x02#8 7 .ok .none)) ∧
    (∀ e : Cred, s.findCred c = some e → e.state = .revoked →
      exec (.credState .n c 2#8) s = .next (s.answered .n 0x02#8 7 .ok .none)) ∧
    (∀ e : Cred, RidesSorted s → s.findCred c = some e → e.state ≠ .revoked →
      ∃ t : State, exec (.credState .n c 2#8) s = .next t ∧ CancelledAll s t queued ∧
        t.free = (cancelPools s.free s.listK queued .cancelledCredential).1 ∧
        t.findCred c = some { e with state := .revoked, openRides := e.openRides - queued.length } ∧
        (∀ c', c' ≠ c → t.findCred c' = s.findCred c') ∧
        Answers s t .n ⟨0x02#8, .ok, .none⟩ 7 ∧ SameStation s t ∧ t.listN = s.listN) ∧
    (∀ (cls keep : Byte) (secret : BitVec 32) (counter balance overdraft : Word16) (h : cls.toNat < 4), c ≠ 0#24 →
      let sweep : Sweep :=
        if s.sweep.openNo = 0#8 then s.sweep else { s.sweep with idle := some ⟨0, s.settings.idleLimit⟩ }
      let mark := if s.sweep.openNo = 0#8 then s.sweep.lastClosed else s.sweep.openNo
      let d := min overdraft.toNat 32767
      (∀ e : Cred, RidesSorted s → s.findCred c = some e →
        let b := if keep = 0#8 then balance.toInt else e.balance
        let e' : Cred := { number := c, state := .revoked, cls := ⟨cls.toNat, h⟩, secret := secret,
                           counter := if keep = 0#8 then counter else e.counter,
                           balance := max (-(d : Int)) (min 32767 b), overdraft := d,
                           openRides := e.openRides - queued.length, mark := mark }
        ∃ t : State, exec (.credLoad .n c 2#8 cls secret counter balance overdraft keep) s = .next t ∧
          CancelledAll s t queued ∧ t.free = (cancelPools s.free s.listK queued .cancelledCredential).1 ∧
          t.findCred c = some e' ∧ (∀ c', c' ≠ c → t.findCred c' = s.findCred c') ∧ t.listN = s.listN ∧
          Answers s t .n ⟨0x01#8, if d = overdraft.toNat ∧ e'.balance = b then .ok else .clamped, .none⟩ 19 ∧
          SameStation { s with sweep := sweep } t) ∧
      (s.findCred c = none → s.creds.length < 2048 → (∀ r ∈ s.rides, r.cred ≠ c) →
        let e' : Cred := { number := c, state := .revoked, cls := ⟨cls.toNat, h⟩, secret := secret, counter := counter,
                           balance := max (-(d : Int)) (min 32767 balance.toInt), overdraft := d, openRides := 0,
                           mark := mark }
        ∃ t : State, exec (.credLoad .n c 2#8 cls secret counter balance overdraft keep) s = .next t ∧
          t.findCred c = some e' ∧ (∀ c', c' ≠ c → t.findCred c' = s.findCred c') ∧
          t = State.answered { s with creds := t.creds, sweep := sweep }
            .n 0x01#8 19 (if d = overdraft.toNat ∧ e'.balance = balance.toInt then .ok else .clamped) .none))

/-- R27: CRED BALANCE sets or adds exactly and clamps into −D to 32767; the state and every other field stay; an
unknown number is refused NOT_FOUND, a mode other than SET or ADD BAD_VALUE, and Port K WRONG_PORT. That an unknown
number is NOT_FOUND for every mode, a bad one included, is the model's reading (log 21): R27 gives the two refusals no
order. -/
def Obligations.CredBalanceWrites : Prop :=
  ∀ (s : State) (c : CredNo) (mode : Byte) (amount : Word16),
    (s.takes .n → s.findCred c = none →
      exec (.credBalance .n c mode amount) s = .next (s.answered .n 0x03#8 9 .notFound .none)) ∧
    (s.takes .n → (s.findCred c).isSome = true → 2 ≤ mode.toNat →
      exec (.credBalance .n c mode amount) s = .next (s.answered .n 0x03#8 9 .badValue .none)) ∧
    (∀ e : Cred, s.takes .n → CredsSorted s → s.findCred c = some e → mode.toNat < 2 →
      let new : Int := if mode = 0#8 then amount.toInt else e.balance + amount.toInt
      let stored : Int := max (-(e.overdraft : Int)) (min 32767 new)
      exec (.credBalance .n c mode amount) s = .next
        (State.answered { s with creds := s.creds.map (fun x =>
            if x.number = c then { x with balance := stored } else x) }
          .n 0x03#8 9 (if stored = new then .ok else .clamped) .none)) ∧
    (s.takes .k → exec (.credBalance .k c mode amount) s = .next (s.answered .k 0x03#8 9 .wrongPort .none))

/-- R28 to R30: CRED REMOVE deletes an entry without rides; an entry with rides becomes LAPSED, its QUEUED rides are
cancelled with CANCELLED_CREDENTIAL, and it is deleted if none is left; for an entry LAPSED already nothing changes. -/
def Obligations.CredRemoveWithdraws : Prop :=
  ∀ (s : State) (c : CredNo), s.takes .n →
    (s.findCred c = none → exec (.credRemove .n c) s = .next (s.answered .n 0x04#8 6 .notFound .none)) ∧
    (∀ e : Cred, s.findCred c = some e → e.openRides = 0 →
      exec (.credRemove .n c) s = .next
        (State.answered { s with creds := s.creds.filter (fun x => decide (x.number ≠ c)) } .n 0x04#8 6 .ok .none)) ∧
    (∀ e : Cred, s.findCred c = some e → e.openRides ≠ 0 → e.state = .lapsed →
      exec (.credRemove .n c) s = .next (s.answered .n 0x04#8 6 .ok .none)) ∧
    (∀ e : Cred, CountInv s → s.findCred c = some e → e.openRides ≠ 0 → e.state ≠ .lapsed →
      let queued := s.rides.filter (fun r => decide (r.cred = c ∧ r.state = .queued))
      ∃ t : State, exec (.credRemove .n c) s = .next t ∧ CancelledAll s t queued ∧
        t.free = (cancelPools s.free s.listK queued .cancelledCredential).1 ∧
        t.findCred c = (if t.rides.countP (fun r => decide (r.cred = c)) = 0 then none
          else some { e with state := .lapsed, openRides := t.rides.countP (fun r => decide (r.cred = c)) }) ∧
        (∀ c', c' ≠ c → t.findCred c' = s.findCred c') ∧
        Answers s t .n ⟨0x04#8, .ok, .none⟩ 6 ∧ SameStation s t ∧ t.listN = s.listN)

/-- R34, R37, R38: SWEEP OPEN of 0 is refused BAD_VALUE; SWEEP OPEN with no sweep open; the abandonment of an open sweep
by SWEEP OPEN or by the idle timer: no entry changes, SWEEP is latched, and the notice is posted by its level and the
free list. -/
def Obligations.SweepOpenAndAbandon : Prop :=
  ∀ (s : State) (n : Byte),
    (s.takes .n → exec (.sweepOpen .n 0#8) s = .next (s.answered .n 0x05#8 4 .badValue .none)) ∧
    (s.takes .n → n ≠ 0#8 → s.sweep.openNo = 0#8 →
      exec (.sweepOpen .n n) s = .next
        (State.answered { s with sweep := ⟨n, s.sweep.lastClosed, some ⟨0, s.settings.idleLimit⟩⟩ }
          .n 0x05#8 4 .ok .none)) ∧
    (s.takes .n → n ≠ 0#8 → s.sweep.openNo ≠ 0#8 →
      ∃ t : State, exec (.sweepOpen .n n) s = .next t ∧
        t.sweep = ⟨n, s.sweep.lastClosed, some ⟨0, s.settings.idleLimit⟩⟩ ∧
        t.portN.latched &&& evSweep = evSweep ∧ t.creds = s.creds ∧ t.rides = s.rides ∧ t.docks = s.docks ∧
        t.listK = s.listK ∧ Answers s t .n ⟨0x05#8, .ok, .none⟩ 4 ∧
        Notified s t s.free .none (.sweepAbandoned s.sweep.openNo .reopen (some n))) ∧
    (∀ x : Timer, s.sweep.idle = some x → x.elapsed = x.limit → s.sweep.openNo ≠ 0#8 →
      ∃ t : State, exec .sweepIdleExpiry s = .next t ∧
        t.sweep = ⟨0#8, s.sweep.lastClosed, none⟩ ∧ t.portN.latched &&& evSweep = evSweep ∧
        t.creds = s.creds ∧ t.rides = s.rides ∧ t.docks = s.docks ∧ t.listK = s.listK ∧ PortsKept s t ∧
        Notified s t s.free .none (.sweepAbandoned s.sweep.openNo .idle none))

/-- R35, R36, R28: SWEEP CLOSE with the open number: marked entries are kept as they are, unmarked ones without rides
deleted and with rides LAPSED, their QUEUED rides cancelled with CANCELLED_CREDENTIAL, and such an entry stays with the
number of rides left, or goes with the last; the three counts are answered, sum to the entries present, and go out in
SWEEP_DONE. With no sweep open it is refused STATE; with another number BAD_VALUE,
and the idle timer starts again (R38). -/
def Obligations.SweepCloseWithdraws : Prop :=
  ∀ (s : State) (n : Byte), s.takes .n →
    (s.sweep.openNo = 0#8 → exec (.sweepClose .n n) s = .next (s.answered .n 0x06#8 4 .badState .none)) ∧
    (s.sweep.openNo ≠ 0#8 → s.sweep.openNo ≠ n →
      exec (.sweepClose .n n) s = .next
        (State.answered { s with sweep := { s.sweep with idle := some ⟨0, s.settings.idleLimit⟩ } }
          .n 0x06#8 4 .badValue .none)) ∧
    (CountInv s → n ≠ 0#8 → s.sweep.openNo = n →
      let queued := s.rides.filter (fun r =>
        decide (r.state = .queued) && s.creds.any (fun e => decide (e.number = r.cred ∧ e.mark ≠ n)))
      ∃ (t : State) (kept lapsed deleted : Nat), exec (.sweepClose .n n) s = .next t ∧
        t.sweep = ⟨0#8, n, none⟩ ∧ t.portN.latched &&& evSweep = evSweep ∧
        kept = s.creds.countP (fun e => decide (e.mark = n)) ∧
        lapsed = s.creds.countP (fun e => decide (e.mark ≠ n ∧ 0 < e.openRides)) ∧
        deleted = s.creds.countP (fun e => decide (e.mark ≠ n ∧ e.openRides = 0)) ∧
        kept + lapsed + deleted = s.creds.length ∧
        Answers s t .n ⟨0x06#8, .ok, .sweepCounts kept lapsed deleted⟩ 4 ∧
        (∀ e ∈ s.creds, e.mark = n → t.findCred e.number = some e) ∧
        (∀ e ∈ s.creds, e.mark ≠ n → e.openRides = 0 → t.findCred e.number = none) ∧
        (∀ e ∈ s.creds, e.mark ≠ n → e.openRides ≠ 0 →
          let left := t.rides.countP (fun r => decide (r.cred = e.number))
          t.findCred e.number = if left = 0 then none else some { e with state := .lapsed, openRides := left }) ∧
        (∀ e ∈ t.creds, e.mark ≠ n → e.state = .lapsed) ∧
        CancelledAll s t queued ∧
        Notified s t (cancelPools s.free s.listK queued .cancelledCredential).1 .none
          (.sweepDone n kept lapsed deleted) ∧
        t.minute = s.minute ∧ t.second = s.second ∧ t.queue = s.queue ∧ t.settings = s.settings ∧ t.levels = s.levels)

/-! ## Reads -/

/-- R31, R85, R104, R178: the four reads answer with what they name as it stands, and change nothing but the held
response; an index above 59, a selector other than 0 or 1 and a value of 0 are refused BAD_VALUE. -/
def Obligations.ReadsChangeNothing : Prop :=
  ∀ (s : State) (p : Port), s.takes p →
    (∀ c : CredNo, exec (.readCred p c) s = .next (match s.findCred c with
      | none => s.answered p 0x17#8 6 .notFound .none
      | some e => s.answered p 0x17#8 6 .ok
          (.cred ⟨e.number, e.state, e.cls, e.counter, e.balance, e.overdraft, e.openRides, e.mark⟩))) ∧
    (∀ n : RideNo, n ≠ 0#16 → exec (.readRide p 0#8 (n.setWidth 32)) s = .next (match s.findRide n with
      | none => s.answered p 0x18#8 8 .notFound .none
      | some r => s.answered p 0x18#8 8 .ok (.ride r))) ∧
    (∀ v : BitVec 32, 65536 ≤ v.toNat →
      exec (.readRide p 0#8 v) s = .next (s.answered p 0x18#8 8 .notFound .none)) ∧
    (∀ g : BikeTag, g ≠ 0#32 → exec (.readRide p 1#8 g) s = .next (match s.rideOfTag g with
      | none => s.answered p 0x18#8 8 .notFound .none
      | some r => s.answered p 0x18#8 8 .ok (.ride r))) ∧
    (∀ (sel : Byte) (v : BitVec 32), 2 ≤ sel.toNat ∨ v = 0#32 →
      exec (.readRide p sel v) s = .next (s.answered p 0x18#8 8 .badValue .none)) ∧
    (∀ d : DockIx, exec (.readDock p (BitVec.ofNat 8 d.val)) s = .next (s.answered p 0x16#8 4 .ok
      (.dock (s.dock d) ((s.rideAt d).map (fun r => r.number)) (decide (d ∈ s.grants))))) ∧
    (∀ b : Byte, 60 ≤ b.toNat → exec (.readDock p b) s = .next (s.answered p 0x16#8 4 .badValue .none)) ∧
    exec (.readStation p) s = .next (s.answered p 0x19#8 3 .ok (.station
      { minute := s.minute, second := s.second, clockSet := s.clockSet, freeCount := s.free.length,
        rides := s.rides.length, creds := s.creds.length, queued := s.queue.length, holdOff := s.holdOff,
        releaseQ := s.releaseQ.length, grantedQ := (s.releaseQ.filter (fun e => e.granted)).length,
        grants := s.grants.length, budget := s.settings.budget, lineA := s.lineA.state, lineB := s.lineB.state,
        openSweep := s.sweep.openNo, lastClosed := s.sweep.lastClosed, posted := (s.postList p).length,
        held := (s.port p).taken.length }))

/-! ## Presentations and admission -/

/-- R43, R46: TOKEN PRESENT joins the tail while hold-off is not in force, and starts hold-off when the queue then
exceeds the high mark; under hold-off it is refused HOLDOFF, and a dock from 60 to 254 BAD_VALUE before that. R45, R126,
R135: a good STATUS reply with a token of another sequence than the last acknowledged joins the tail in the same way and
is acknowledged, but under hold-off nothing is taken; either way the line is RUNNING with quiet timer 0. A reply with a
repeated token, or with none, offers nothing. That the reply may be taken from the open window is log 6. -/
def Obligations.TokenPresentQueues : Prop :=
  (∀ (s : State) (t : Token), s.takes .k →
    (∀ pref : Option DockIx, s.holdOff = false →
      exec (.tokenPresent .k t (match pref with
        | none => 0xFF#8
        | some d => BitVec.ofNat 8 d.val)) s = .next
        (State.answered { s with queue := s.queue ++ [⟨.kiosk pref, t⟩]
                                 holdOff := decide (s.settings.high < s.queue.length + 1) }
          .k 0x10#8 15 .ok .none)) ∧
    (∀ b : Byte, 60 ≤ b.toNat → b.toNat ≤ 254 →
      exec (.tokenPresent .k t b) s = .next (s.answered .k 0x10#8 15 .badValue .none)) ∧
    (∀ b : Byte, b.toNat < 60 ∨ b = 0xFF#8 → s.holdOff = true →
      exec (.tokenPresent .k t b) s = .next (s.answered .k 0x10#8 15 .holdOff .none))) ∧
  (∀ (s : State) (l : Line) (x : Turn) (rep : StatusReply), let d := dockIx l x.addr
    ReplyDue s l x →
    ∃ t : State, exec (.statusReply l rep) s = .next t ∧
      (∀ k : TokenRead, rep.token = some k → k.seq ≠ (s.dock d).ack →
        (t.line l).state = .running ∧ (t.line l).quietTimer = 0) ∧
      (∀ k : TokenRead, rep.token = some k → k.seq ≠ (s.dock d).ack → s.holdOff = false →
        t.queue = s.queue ++ [⟨.dock d k.seq, k.token⟩] ∧ t.holdOff = decide (s.settings.high < s.queue.length + 1) ∧
        (t.dock d).ack = k.seq) ∧
      (s.holdOff = true ∨ rep.token = none ∨ (∃ k : TokenRead, rep.token = some k ∧ k.seq = (s.dock d).ack) →
        t.queue = s.queue ∧ t.holdOff = s.holdOff ∧ (t.dock d).ack = (s.dock d).ack))

/-- R48 to R55, R59, R60, R62, R63, R43: a decision refused at checks 1 to 5 takes the head from the queue, writes no
entry, admits no ride and posts its record to Port K; one refused at checks 6 to 10 does the same but for the counter,
which is spent. A source dock gets its SHOW REFUSE; CHECK_MISMATCH raises its count, holds it AUTO at the threshold and
posts AUTH_BURST there (which of the two records takes its slot first is open, log 9). R109, R137: the SHOW brings a
QUIET line back to RUNNING. -/
def Obligations.RefusedDecision : Prop :=
  ∀ (s : State) (x : Presentation) (rest : List Presentation) (r : Reason), s.queue = x :: rest →
    (FailsFirstFive s x.token r →
      ∃ t : State, exec .admissionDecision s = .next t ∧ t.creds = s.creds ∧ Refused s t x rest r) ∧
    (∀ e : Cred, PassesFirstFive s x.token e → FailsLastFive s x.origin e r →
      ∃ t : State, exec .admissionDecision s = .next t ∧
        t.creds = s.creds.map (fun c => if c.number = x.token.cred then { c with counter := x.token.counter } else c) ∧
        Refused s t x rest r)

/-- R48, R54, R56 to R60, R65, R67, R108: the decision for a token that passes all ten checks with dock d, its own, the
named or the chosen one, admits it: the counter is spent and the count raised, the head slot bound, a QUEUED ride of the
next free number created, the dock QUEUED and appended to the release queue, a grant issued exactly when one is free and
the line runs, the SHOW set for a dock source, and the record posted. At 256 rides the oldest OPEN ride is aged out
first: it leaves the table, its AGED_OUT record stands in its bound slot and its entry's count falls. R109, R137: the SHOW
or OPEN brings a QUIET line back to RUNNING. That the ride starts with OPEN not sent is the model's own field (log 26). -/
def Obligations.AdmissionAtDock : Prop :=
  ∀ (s : State) (d : DockIx) (x : Presentation) (rest : List Presentation) (e : Cred) (slot : Nat) (free : List Nat)
    (aged : Option Ride),
    s.queue = x :: rest → PassesFirstFive s x.token e → PassesLastFive s x.origin e d →
    RidesSorted s → ReleaseQInv s → GrantSetInv s → GrantsIssued s → s.nextRide ≠ 0#16 →
    s.free = slot :: free → AgedOut s aged →
    let grant : Prop := s.grants.length < s.settings.budget ∧ s.lineRuns d = true
    let left := ridesLeft s aged
    ∃ (t : State) (k : Nat), let n := numberAfter k s.nextRide
      exec .admissionDecision s = .next t ∧
      (n ≠ 0#16 ∧ (∀ y ∈ left, y.number ≠ n) ∧ (∀ j < k, ∃ y ∈ left, y.number = numberAfter j s.nextRide) ∧
        t.nextRide = numberAfter 1 n) ∧
      t.findRide n = some {
        number := n, cred := x.token.cred, cls := e.cls, dock := d, tag := (s.dock d).tag, state := .queued,
        admMinute := s.minute, admSecond := s.second, release := none, takeUp := none, late := false, slot := slot,
        source := (match x.origin with
          | .dock _ _ => .dock
          | .kiosk _ => .kiosk),
        waitLeft := some s.settings.waitLimit, windowLeft := none, progress := .notSent } ∧
      (∀ m, m ≠ n → t.findRide m = left.find? (fun y => decide (y.number = m))) ∧
      (aged = none → t.findCred x.token.cred = some { e with
          counter := x.token.counter, openRides := e.openRides + 1 } ∧
        (∀ c, c ≠ x.token.cred → t.findCred c = s.findCred c) ∧ t.listN = s.listN) ∧
      (∀ (r : Ride) (ea : Cred) (rel : Minute), aged = some r → s.findCred r.cred = some ea → r.release = some rel →
        t.findCred x.token.cred = some { e with
          counter := x.token.counter
          openRides := (if r.cred = x.token.cred then e.openRides - 1 else e.openRides) + 1 } ∧
        (r.cred ≠ x.token.cred → t.findCred r.cred = cancelledEntry ea) ∧
        (∀ c, c ≠ x.token.cred → c ≠ r.cred → t.findCred c = s.findCred c) ∧
        PostedN s t r.slot .agedOut
          (.trip .agedOut (settledTrip r none s.minute (agedFigures ea rel s.minute) r.late false)) ∧
        t.listN.length = s.listN.length + 1) ∧
      t.queue = rest ∧ t.holdOff = (s.holdOff && decide (s.settings.low < rest.length)) ∧
      (d ∈ t.grants ↔ grant) ∧ (∀ d', d' ≠ d → (d' ∈ t.grants ↔ d' ∈ s.grants)) ∧
      t.releaseQ = s.releaseQ ++ [⟨d, n, decide (d ∈ t.grants)⟩] ∧
      t.dock d = { s.dock d with
        state := .queued
        mismatch := (match x.origin with
          | .dock _ _ => 0
          | .kiosk _ => (s.dock d).mismatch)
        pending := (match x.origin with
          | .dock _ q => .showCmd (if grant then .accept else .wait) q
          | .kiosk _ => if grant ∧ (s.dock d).pending = .none then .openCmd else (s.dock d).pending) } ∧
      (∀ d', d' ≠ d → t.dock d' = s.dock d') ∧
      (t.free, t.listK) = postPool free s.listK
        (.decision x.origin.source x.token.cred .admitted (some n) (some d)) ∧
      (free = [] → s.listK = [] → Overflowed t .k) ∧
      LinesFollow s t ∧ PortsKept s t ∧ t.classes = s.classes ∧ t.minute = s.minute ∧ t.second = s.second ∧
      t.sweep = s.sweep ∧ t.settings = s.settings ∧ t.levels = s.levels

/-- R50: at a decision a last accepted counter stays, or moves forward by 1 to W steps around the circle. -/
def Obligations.CounterMovesForward : Prop :=
  ∀ (s t : State) (c : CredNo) (e e' : Cred), exec .admissionDecision s = .next t →
    s.findCred c = some e → t.findCred c = some e' →
    e'.counter = e.counter ∨
      1 ≤ (e'.counter - e.counter).toNat ∧ (e'.counter - e.counter).toNat ≤ s.settings.lookAhead

/-! ## Rides -/

/-- R74, R75, R77, R112: RIDE CANCEL of a QUEUED ride and the expiry of its queue wait limit end it: the slot is freed,
the count lowered, the outcome record always placed, the ride gone, the dock DOCKED and out of the release queue and
the grant set, its grant passed on to the oldest waiting entry that can take it (R105, R108 to R110). R71, R77: RIDE CANCEL of a RELEASING ride and the expiry of the take-up window move ride and dock to
RELATCHING with CLOSE pending, and return the grant. R77: RIDE CANCEL of a RELATCHING or OPEN ride is refused STATE, of
an unknown number NOT_FOUND. -/
def Obligations.RideCancelAndExpiries : Prop :=
  (∀ (s : State) (p : Port) (n : RideNo), s.takes p →
    (s.findRide n = none → exec (.rideCancel p n) s = .next (s.answered p 0x13#8 5 .notFound .none)) ∧
    (∀ r : Ride, s.findRide n = some r → r.state = .relatching ∨ r.state = .opened →
      exec (.rideCancel p n) s = .next (s.answered p 0x13#8 5 .badState .none))) ∧
  (∀ (s : State) (r : Ride) (e : Cred) (i : Instr) (o : RideOutcome),
    s.findRide r.number = some r → s.findCred r.cred = some e → r.state = .queued →
    ((∃ p : Port, s.takes p ∧ i = .rideCancel p r.number ∧ o = .cancelledPort) ∨
      (r.waitLeft = some 0 ∧ i = .queueWaitExpiry r.number ∧ o = .queueTimeout)) →
    ∃ t : State, exec i s = .next t ∧ RideEnded s t r e o ∧
      t.rides = s.rides.filter (fun x => decide (x.number ≠ r.number)) ∧
      PostedK t (.outcome r.number r.cred r.dock o) ∧ t.free = (cancelPool s.free s.listK r o).1 ∧
      t.dock r.dock = { s.dock r.dock with
        state := .docked, relatch := 0, pending := withoutLatch (s.dock r.dock).pending } ∧
      DocksKept s t [r.dock] ∧ (ReleaseInv s → LinesFollow s t) ∧ t.listN = s.listN ∧ SameStation s t ∧
      (∀ p, i = .rideCancel p r.number → Answers s t p ⟨0x13#8, .ok, .none⟩ 5)) ∧
  (∀ (s : State) (r : Ride) (i : Instr),
    s.findRide r.number = some r → r.state = .releasing → (∀ x ∈ s.releaseQ, x.dock ≠ r.dock) →
    ((∃ p : Port, s.takes p ∧ i = .rideCancel p r.number) ∨
      (r.windowLeft = some 0 ∧ i = .takeUpWindowExpiry r.number)) →
    ∃ t : State, exec i s = .next t ∧
      t.rides = s.rides.map (fun x =>
        if x.number = r.number then { x with state := .relatching, windowLeft := none } else x) ∧
      t.dock r.dock = { s.dock r.dock with state := .relatching, relatch := 0, pending := .closeCmd } ∧
      r.dock ∉ t.grants ∧ DocksKept s t [r.dock] ∧ GrantsMoved s t [r.dock] [r.dock] ∧
      (ReleaseInv s → LinesFollow s t) ∧
      t.creds = s.creds ∧ SamePool s t ∧ SameStation s t ∧
      (∀ p, i = .rideCancel p r.number → Answers s t p ⟨0x13#8, .ok, .none⟩ 5))

/-- R80 to R82, R84: RIDE CLOSE charges and debits a ride that is OPEN, RELEASING or RELATCHING, posts its CLOSED_REMOTE
record in the bound slot and removes it. A ride not OPEN is taken up in the same event: QUICK_RETURN is set, and
LATE_TAKEUP for a RELATCHING one, TAKEN goes to Port K, and its dock is RELATCHING with CLOSE pending and no grant, the
grant passed on (R108, R110). An OPEN ride is closed whatever has become of the dock it was released from (R66). A
QUEUED ride is refused STATE, an unknown tag NOT_FOUND and tag 0 BAD_VALUE. -/
def Obligations.RideCloseSettles : Prop :=
  ∀ (s : State) (g : BikeTag) (m : Minute), s.takes .n →
    (exec (.rideClose .n 0#32 m) s = .next (s.answered .n 0x0C#8 9 .badValue .none)) ∧
    (g ≠ 0#32 → s.rideOfTag g = none →
      exec (.rideClose .n g m) s = .next (s.answered .n 0x0C#8 9 .notFound .none)) ∧
    (∀ r : Ride, g ≠ 0#32 → s.rideOfTag g = some r → r.state = .queued →
      exec (.rideClose .n g m) s = .next (s.answered .n 0x0C#8 9 .badState .none)) ∧
    (∀ (r : Ride) (e : Cred) (rel : Minute), g ≠ 0#32 → s.rideOfTag g = some r → r.state ≠ .queued →
      r.release = some rel → s.findCred r.cred = some e →
      (r.state ≠ .opened → ∀ y ∈ s.releaseQ, y.dock ≠ r.dock) →
      let f := settlement (s.classOf e) e rel m
      let early := decide (r.state ≠ .opened)
      let late := r.late || decide (r.state = .relatching)
      ∃ t : State, exec (.rideClose .n g m) s = .next t ∧
        t.findCred r.cred = settledEntry e f ∧ (∀ c, c ≠ r.cred → t.findCred c = s.findCred c) ∧
        t.rides = s.rides.filter (fun x => decide (x.number ≠ r.number)) ∧
        PostedN s t r.slot .closedRemote (.trip .closedRemote (settledTrip r none m f late early)) ∧
        t.listN.length = s.listN.length + 1 ∧
        Answers s t .n ⟨0x0C#8, .ok, .rideClosed r.number f.charge f.shortfall f.balance⟩ 9 ∧ SameStation s t ∧
        (r.state = .opened → t.docks = s.docks ∧ t.releaseQ = s.releaseQ ∧ t.grants = s.grants ∧ t.free = s.free ∧
          t.listK = s.listK ∧ t.lineA = s.lineA ∧ t.lineB = s.lineB) ∧
        (r.state ≠ .opened →
          (t.free, t.listK) = postPool s.free s.listK (.outcome r.number r.cred r.dock .taken) ∧
          t.dock r.dock = { s.dock r.dock with state := .relatching, relatch := 0, pending := .closeCmd } ∧
          r.dock ∉ t.grants ∧ DocksKept s t [r.dock] ∧ GrantsMoved s t [r.dock] [r.dock] ∧
          (ReleaseInv s → LinesFollow s t)))

/-! ## Docks -/

/-- R102: DOCK HOLD holds a fitted dock with the origin of the sending port and changes nothing else; an index above 59
is refused BAD_VALUE and an UNFITTED dock STATE. R103: DOCK FREE frees a dock of any hold, whatever its origin, and
changes nothing else; an index above 59 is refused BAD_VALUE. -/
def Obligations.HoldAndFree : Prop :=
  ∀ (s : State) (p : Port) (b : Byte), s.takes p →
    (60 ≤ b.toNat → exec (.dockHold p b) s = .next (s.answered p 0x11#8 4 .badValue .none) ∧
      exec (.dockFree p b) s = .next (s.answered p 0x12#8 4 .badValue .none)) ∧
    (∀ d : DockIx, d.val = b.toNat → (s.dock d).state = .unfitted →
      exec (.dockHold p b) s = .next (s.answered p 0x11#8 4 .badState .none)) ∧
    (∀ d : DockIx, d.val = b.toNat → (s.dock d).state ≠ .unfitted →
      exec (.dockHold p b) s = .next
        (State.answered { s with docks := s.docks.set d.val { s.docks.get d with
            hold := some (match p with
              | .n => HoldOrigin.n
              | .k => HoldOrigin.k) } d.isLt }
          p 0x11#8 4 .ok .none)) ∧
    (∀ d : DockIx, d.val = b.toNat →
      exec (.dockFree p b) s = .next
        (State.answered { s with docks := s.docks.set d.val { s.docks.get d with hold := none } d.isLt }
          p 0x12#8 4 .ok .none))

/-- R88, R89, R130, R134: a DOCK FIT that passes its checks writes the map of its line and breaks or disables the line;
one that would unfit a bound dock, or names a wrong line or address, changes nothing. R125: an OPEN in the turn so
abandoned is delivered where its frame had been sent (how far it has come is log 26). That a DISABLED line keeps its
break cause (log 29) and its rate in force (log 27) is the model's reading: R134 does not say. -/
def Obligations.DockFitRefits : Prop :=
  ∀ (s : State) (l : Line) (addrs : List Byte), s.takes .n → addrs.length ≤ 30 →
    let b : Byte := match l with
      | .a => 0#8
      | .b => 1#8
    let listed : Addr → Prop := fun a => ∃ x ∈ addrs, x.toNat = a.val + 1
    let bound : Addr → Prop := fun a => (s.dock (dockIx l a)).state = .queued ∨
      (s.dock (dockIx l a)).state = .releasing ∨ (s.dock (dockIx l a)).state = .relatching
    (∀ x : Byte, 2 ≤ x.toNat →
      exec (.dockFit .n x addrs) s = .next (s.answered .n 0x0B#8 (5 + addrs.length) .badValue .none)) ∧
    ((∃ x ∈ addrs, x.toNat = 0 ∨ 30 < x.toNat) →
      exec (.dockFit .n b addrs) s = .next (s.answered .n 0x0B#8 (5 + addrs.length) .badValue .none)) ∧
    ((∀ x ∈ addrs, 1 ≤ x.toNat ∧ x.toNat ≤ 30) → (∃ a, ¬ listed a ∧ bound a) →
      exec (.dockFit .n b addrs) s = .next (s.answered .n 0x0B#8 (5 + addrs.length) .badState .none)) ∧
    ((∀ x ∈ addrs, 1 ≤ x.toNat ∧ x.toNat ≤ 30) → (∀ a, bound a → listed a) →
      ∃ t : State, exec (.dockFit .n b addrs) s = .next t ∧
        (∀ a, listed a → (s.dock (dockIx l a)).state = .unfitted →
          t.dock (dockIx l a) = { state := .unknown, link := .unknown }) ∧
        (∀ a, listed a → (s.dock (dockIx l a)).state ≠ .unfitted → t.dock (dockIx l a) = s.dock (dockIx l a)) ∧
        (∀ a, ¬ listed a → (s.dock (dockIx l a)).state ≠ .unfitted → t.dock (dockIx l a) = { state := .unfitted }) ∧
        (∀ a, ¬ listed a → (s.dock (dockIx l a)).state = .unfitted → t.dock (dockIx l a) = s.dock (dockIx l a)) ∧
        (∀ a, t.dock (dockIx (otherLine l) a) = s.dock (dockIx (otherLine l) a)) ∧
        (addrs ≠ [] → t.line l = inBreak (s.settings.rate l) .fit) ∧
        (addrs = [] → t.line l =
          { state := .disabled, rate := (s.line l).rate, breakCause := (s.line l).breakCause }) ∧
        t.line (otherLine l) = s.line (otherLine l) ∧ t.rides = abandonedRides s l ∧ t.creds = s.creds ∧ t.releaseQ = s.releaseQ ∧
        t.grants = s.grants ∧ SamePool s t ∧ SameStation s t ∧
        Answers s t .n ⟨0x0B#8, .ok, .none⟩ (5 + addrs.length))

/-! ## Lines -/

/-- R130, R132, R133: LINE RESTART breaks a RUNNING or QUIET line, or starts a break again, with cause REQUEST; every
dock record, ride, grant and release queue entry stays; a DISABLED line is refused STATE. R120, R125: an OPEN in the turn
so abandoned is delivered where its frame had been sent to its last character, and else is not (how far OPEN has come is
the model's field, log 26). -/
def Obligations.LineRestartBreaks : Prop :=
  ∀ (s : State) (l : Line), s.takes .n →
    let b : Byte := match l with
      | .a => 0#8
      | .b => 1#8
    (∀ x : Byte, 2 ≤ x.toNat → exec (.lineRestart .n x) s = .next (s.answered .n 0x0D#8 4 .badValue .none)) ∧
    ((s.line l).state = .disabled →
      exec (.lineRestart .n b) s = .next (s.answered .n 0x0D#8 4 .badState .none)) ∧
    ((s.line l).state ≠ .disabled →
      ∃ t : State, exec (.lineRestart .n b) s = .next t ∧
        t.line l = inBreak (s.settings.rate l) .request ∧ t.line (otherLine l) = s.line (otherLine l) ∧
        t.portN.latched = (if (s.line l).state = .brk then s.portN.latched else s.portN.latched ||| 0x10#8) ∧
        t.portK = s.portK ∧ t.docks = s.docks ∧ t.rides = abandonedRides s l ∧ t.creds = s.creds ∧ t.releaseQ = s.releaseQ ∧
        t.grants = s.grants ∧ SamePool s t ∧ SameStation s t ∧ Answers s t .n ⟨0x0D#8, .ok, .none⟩ 4)

/-- R115, R120, R121, R127, R130, R135, R136: the events of a line that change its controller alone (and, for OPEN at the
start of a turn, how far OPEN has come: it is now in flight for the QUEUED ride at the dock, the model's field of log 26): the start of a turn fixes command, acknowledgement and window; the end of the
frame opens the reply window; a marked character begins the reply; the error period starts again; the break time turns
into the recovery time; QUIET is entered; a quiet round starts at the interval, or is owed when one is in progress (the
owed round is the model's own field, log 31). -/
def Obligations.LineEvents : Prop :=
  ∀ (s : State) (l : Line), let c := s.line l
    (∀ a : Addr, c.state = .running ∨ c.state = .quiet → c.roundOn = true → c.pos = some a → c.turn = none →
      ∃ t : State, exec (.turnStart l) s = .next t ∧
        t = { s.setLine l { c with turn := some ⟨a, (s.dock (dockIx l a)).pending, (s.dock (dockIx l a)).ack,
                              s.settings.replyWindow, .sending⟩ } with rides := t.rides } ∧
        ((s.dock (dockIx l a)).pending ≠ .openCmd → t.rides = s.rides) ∧
        ((s.dock (dockIx l a)).pending = .openCmd → t.rides = s.rides.map (fun r =>
          if r.dock = dockIx l a ∧ r.state = .queued ∧ r.progress = .notSent then { r with progress := .inFlight }
          else r))) ∧
    (∀ x : Turn, c.state = .running ∨ c.state = .quiet → c.turn = some x → x.phase = .sending →
      exec (.commandDelivered l) s = .next (s.setLine l { c with turn := some { x with phase := .awaiting } })) ∧
    (∀ (x : Turn) (m : Byte), c.state = .running ∨ c.state = .quiet → c.turn = some x → x.phase = .awaiting →
      exec (.replyStart l m) s = .next (s.setLine l { c with turn := some { x with phase := .receiving m } })) ∧
    (c.errTimer = some 8 →
      exec (.errorPeriodBoundary l) s = .next (s.setLine l { c with errors := 0, errTimer := some 0 })) ∧
    (c.state = .brk → c.breakTimer = .breakTime →
      exec (.breakTimeEnd l) s = .next (s.setLine l { c with breakTimer := .recovery })) ∧
    (c.state = .running → s.settings.quiet l = true → c.quietDue = true → s.lineBusy l = false →
      exec (.quietEntry l) s = .next ((s.setLine l { c with
        state := .quiet, quietDue := false, quietInterval := some ⟨0, s.settings.quietInterval⟩ }).latch .n 0x10#8)) ∧
    (∀ x : Timer, c.state = .quiet → c.quietInterval = some x → x.elapsed = x.limit → c.roundOn = true →
      exec (.quietIntervalExpiry l) s = .next (s.setLine l { c with
        quietInterval := some ⟨0, s.settings.quietInterval⟩, roundOwed := true })) ∧
    (∀ (x : Timer) (a : Addr), c.state = .quiet → c.quietInterval = some x → x.elapsed = x.limit → c.roundOn = false →
      s.fitted (dockIx l a) = true → (∀ a' : Addr, a'.val < a.val → s.fitted (dockIx l a') = false) →
      exec (.quietIntervalExpiry l) s = .next (s.setLine l { c with
        quietInterval := some ⟨0, s.settings.quietInterval⟩, roundOwed := false, roundOn := true, pos := some a }))

/-- R69, R72, R110, R122: a good STATUS reply that shows the bike gone from a RELEASING dock is the take-up, and from a
RELATCHING one the late take-up: the ride OPEN, the dock EMPTY with no CLOSE pending, the grant passed on to the oldest
waiting entry that can take it (R105, R108), TAKEN posted to Port K and then RIDE_STARTED to Port N. The two records' slots are given for a reply that brings no notice of link or power. That the
reply may be taken from the open window is log 6. -/
def Obligations.TakeUp : Prop :=
  ∀ (s : State) (l : Line) (x : Turn) (r : Ride) (rep : StatusReply), let d := dockIx l x.addr
    ReplyDue s l x → RidesSorted s → s.rideAt d = some r → r.state = .releasing ∨ r.state = .relatching →
    (∀ y ∈ s.releaseQ, y.dock ≠ d) → rep.bike = false → rep.latch ≠ .jammed →
    let late := decide (r.state = .relatching)
    let b : Body := .outcome r.number r.cred d .taken
    let pending := clearedPending x.cmd (s.dock d).pending
    ∃ t : State, exec (.statusReply l rep) s = .next t ∧
      t.findRide r.number = some { r.settled d .delivered with
        state := .opened, takeUp := some s.minute, late := r.late || late, windowLeft := none } ∧
      OtherRidesKept s t r.number ∧
      t.dock d = { replied (s.dock d) rep (t.dock d).ack (if pending = .closeCmd then .none else pending) with
        state := .empty, tag := 0#32, since := 0#16, relatch := 0 } ∧
      d ∉ t.grants ∧ DocksKept s t [d] ∧ GrantsMoved s t [d] [d] ∧
      (3 ≤ s.free.length ∨ s.listK ≠ [] → PostedK t b) ∧
      (NoLinkNotice (s.dock d) rep → t.listK = (postPool s.free s.listK b).2 ∧
        Notified s t (postPool s.free s.listK b).1 (.dock d) (.rideStarted r.number r.cred late)) ∧
      t.creds = s.creds ∧ SameBase s t ∧ PortsKept s t

/-- R68, R75, R95: the replies to a QUEUED dock with its QUEUED ride, the latch not jammed. With the latch open after OPEN
was delivered the ride and dock become RELEASING, the release minute is stamped, the take-up window starts and the dock
leaves the release queue; with the bike gone in the same reply the take-up follows at once. With the bike present
otherwise nothing changes but the pending command: a SHOW the turn delivered is cleared and OPEN follows it where the dock
holds a grant, and an OPEN stays (R61, R68, R122). With the bike gone otherwise the ride is cancelled with LATCH_FAULT and the dock is EMPTY with
UNAUTH_REMOVAL of the tag it held, which is the ride's (R167, RideTableKept). That OPEN counts as delivered by the ride's progress is the model's field (log 26); that the reply may be
taken from the open window is log 6. -/
def Obligations.LatchOpenAcknowledged : Prop :=
  ∀ (s : State) (l : Line) (x : Turn) (r : Ride) (rep : StatusReply), let d := dockIx l x.addr
    ReplyDue s l x → RidesSorted s → s.rideAt d = some r → r.state = .queued → (s.dock d).state = .queued →
    rep.latch ≠ .jammed →
    let acked : Prop := rep.latch = .unlatched ∧ r.progress ≠ .notSent
    let r' := r.settled d .delivered
    ∃ t : State, exec (.statusReply l rep) s = .next t ∧ OtherRidesKept s t r.number ∧
      DocksKept s t [d] ∧ SameBase s t ∧ PortsKept s t ∧
      (acked → rep.bike = true →
        t.findRide r.number = some { r' with
          state := .releasing, release := some s.minute, waitLeft := none,
          windowLeft := some s.settings.takeUpWindow } ∧
        t.dock d = { replied (s.dock d) rep (t.dock d).ack .none with state := .releasing } ∧
        (∀ y ∈ t.releaseQ, y.dock ≠ d) ∧ t.creds = s.creds ∧
        (ReleaseInv s → GrantsIssued s →
          t.releaseQ = s.releaseQ.filter (fun y => decide (y.dock ≠ d)) ∧ t.grants = s.grants ∧ d ∈ t.grants ∧
          ∀ d' : DockIx, d' ≠ d → t.dock d' = s.dock d') ∧
        (NoLinkNotice (s.dock d) rep → SamePool s t)) ∧
      (acked → rep.bike = false →
        t.findRide r.number = some { r' with
          state := .opened, release := some s.minute, takeUp := some s.minute, waitLeft := none, windowLeft := none } ∧
        t.dock d = { replied (s.dock d) rep (t.dock d).ack .none with
          state := .empty, tag := 0#32, since := 0#16, relatch := 0 } ∧
        (∀ y ∈ t.releaseQ, y.dock ≠ d) ∧ d ∉ t.grants ∧ t.creds = s.creds ∧ GrantsMoved s t [d] [d] ∧
        (NoLinkNotice (s.dock d) rep →
          let pool := postPool s.free s.listK (.outcome r.number r.cred d .taken)
          t.listK = pool.2 ∧ Notified s t pool.1 (.dock d) (.rideStarted r.number r.cred false))) ∧
      (¬ acked → rep.bike = true →
        t.findRide r.number = some r' ∧
        t.dock d = replied (s.dock d) rep (t.dock d).ack (t.dock d).pending ∧ t.creds = s.creds ∧
        (GrantsIssued s →
          (t.dock d).pending = openNext (decide (d ∈ s.grants)) (clearedPending x.cmd (s.dock d).pending)) ∧
        GrantsStand s t d ∧
        (NoLinkNotice (s.dock d) rep → SamePool s t)) ∧
      (∀ e : Cred, ¬ acked → rep.bike = false → s.findCred r.cred = some e →
        RideEnded s t r e .latchFault ∧
        t.dock d = { replied (s.dock d) rep (t.dock d).ack (withoutLatch (clearedPending x.cmd (s.dock d).pending)) with
          state := .empty, tag := 0#32, since := 0#16, relatch := 0 } ∧
        (NoLinkNotice (s.dock d) rep →
          Notified s t (cancelPool s.free s.listK r .latchFault).1 (.dock d)
            (.unauthRemoval (s.dock d).tag (some r.number))))

/-- R70, R72, R73, R96: the replies that show the bike present at a dock RELEASING or RELATCHING. Latched again: the ride
is cancelled with NOT_TAKEN and the dock DOCKED. Latch open: a RELEASING ride goes on; a RELATCHING one stays, an attempt
is counted when the turn carried CLOSE, and at the third the ride is cancelled with LATCH_FAULT and the dock is
FAULTED(JAMMED) with LATCH_JAM. A RELATCHING dock without a ride is settled in the same way, its tag 0 or not (a real tag
read at last where 0 was stored is ReturnClosesRide and BikeWithoutRide), and becomes EMPTY without a notice when the bike is
gone. That the reply may be taken from the open window is log 6. -/
def Obligations.RelatchResolves : Prop :=
  (∀ (s : State) (l : Line) (x : Turn) (r : Ride) (e : Cred) (rep : StatusReply), let d := dockIx l x.addr
    ReplyDue s l x → RidesSorted s → s.rideAt d = some r → r.state = .releasing ∨ r.state = .relatching →
    some (s.dock d).state = r.state.dockState → s.findCred r.cred = some e → (∀ y ∈ s.releaseQ, y.dock ≠ d) →
    (s.dock d).tag ≠ 0#32 → rep.bike = true →
    let counted : Prop := r.state = .relatching ∧ x.cmd = .closeCmd
    let pending := clearedPending x.cmd (s.dock d).pending
    ∃ t : State, exec (.statusReply l rep) s = .next t ∧ DocksKept s t [d] ∧ SameBase s t ∧ PortsKept s t ∧
      (rep.latch = .locked → RideEnded s t r e .notTaken ∧
        t.dock d = { replied (retagged s (s.dock d) rep.tag) rep (t.dock d).ack (withoutLatch pending) with
          state := .docked, relatch := 0 } ∧
        (NoLinkNotice (s.dock d) rep →
          t.free = (cancelPool s.free s.listK r .notTaken).1 ∧ t.listN = s.listN)) ∧
      (rep.latch = .unlatched → ¬ counted ∨ (s.dock d).relatch < 2 →
        SameRides s t ∧ t.creds = s.creds ∧ GrantsStand s t d ∧
        t.dock d = { replied (s.dock d) rep (t.dock d).ack pending with
          relatch := if counted then (s.dock d).relatch + 1 else (s.dock d).relatch } ∧
        (NoLinkNotice (s.dock d) rep → SamePool s t)) ∧
      (rep.latch = .unlatched → counted → 2 ≤ (s.dock d).relatch →
        RideEnded s t r e .latchFault ∧
        t.dock d = { replied (s.dock d) rep (t.dock d).ack (withoutLatch pending) with
          state := .faulted .jammed, relatch := 0 } ∧
        (NoLinkNotice (s.dock d) rep →
          Notified s t (cancelPool s.free s.listK r .latchFault).1 (.dock d)
            (.latchJam (s.dock d).tag .relatch (some r.number))))) ∧
  (∀ (s : State) (l : Line) (x : Turn) (rep : StatusReply), let d := dockIx l x.addr
    ReplyDue s l x → s.rideAt d = none → (s.dock d).state = .relatching → (∀ y ∈ s.releaseQ, y.dock ≠ d) →
    ¬ ReturnSeen (s.dock d) rep →
    let pending := clearedPending x.cmd (s.dock d).pending
    let noClose := if pending = .closeCmd then Pending.none else pending
    ∃ t : State, exec (.statusReply l rep) s = .next t ∧ DocksKept s t [d] ∧ SameRides s t ∧ t.creds = s.creds ∧
      SameBase s t ∧ PortsKept s t ∧ t.listK = s.listK ∧ GrantsStand s t d ∧
      (rep.bike = false → rep.latch ≠ .jammed →
        t.dock d = { replied (s.dock d) rep (t.dock d).ack noClose with
          state := .empty, tag := 0#32, since := 0#16, relatch := 0 } ∧
        (NoLinkNotice (s.dock d) rep → SamePool s t)) ∧
      (rep.bike = true → rep.latch = .locked →
        t.dock d = { replied (retagged s (s.dock d) rep.tag) rep (t.dock d).ack noClose with
          state := .docked, relatch := 0 } ∧
        (NoLinkNotice (s.dock d) rep → SamePool s t)) ∧
      (rep.bike = true → rep.latch = .unlatched → x.cmd ≠ .closeCmd ∨ (s.dock d).relatch < 2 →
        t.dock d = { replied (s.dock d) rep (t.dock d).ack pending with
          relatch := if x.cmd = .closeCmd then (s.dock d).relatch + 1 else (s.dock d).relatch } ∧
        (NoLinkNotice (s.dock d) rep → SamePool s t)) ∧
      (rep.bike = true → rep.latch = .unlatched → x.cmd = .closeCmd → 2 ≤ (s.dock d).relatch →
        t.dock d = { replied (s.dock d) rep (t.dock d).ack (withoutLatch pending) with
          state := .faulted .jammed, relatch := 0 } ∧
        (NoLinkNotice (s.dock d) rep →
          Notified s t s.free (.dock d) (.latchJam (s.dock d).tag .relatch none))))

/-- R79 to R81, R84, R92, R94, R99: a bike latched at an EMPTY dock, or a tag read at last at a dock whose stored tag is 0,
is docked there. The OPEN ride that holds the tag is closed with a CLOSED_HERE record in its bound slot, whatever has become
of the dock it was released from (R66). A ride RELEASING
or RELATCHING at another dock is the quick return: taken up and closed in one event, QUICK_RETURN set, TAKEN posted, its
dock RELATCHING with CLOSE pending and no grant, the grant passed on (R108, R110). That the reply may be taken from the open window is log 6. -/
def Obligations.ReturnClosesRide : Prop :=
  ∀ (s : State) (l : Line) (x : Turn) (r : Ride) (e : Cred) (rel : Minute) (rep : StatusReply),
    let d := dockIx l x.addr
    ReplyDue s l x → s.rideAt d = none → ReturnSeen (s.dock d) rep → rep.tag ≠ 0#32 →
    s.rideOfTag rep.tag = some r → r.release = some rel → s.findCred r.cred = some e →
    (r.state = .opened ∨
      ((r.state = .releasing ∨ r.state = .relatching) ∧ r.dock ≠ d ∧ ∀ y ∈ s.releaseQ, y.dock ≠ r.dock)) →
    let f := settlement (s.classOf e) e rel s.minute
    let early := decide (r.state ≠ .opened)
    let late := r.late || decide (r.state = .relatching)
    ∃ t : State, exec (.statusReply l rep) s = .next t ∧
      t.dock d = { replied (s.dock d) rep (t.dock d).ack (t.dock d).pending with
        state := .docked, tag := rep.tag, since := s.minute, relatch := (t.dock d).relatch } ∧
      ((∀ y ∈ s.releaseQ, y.dock ≠ d) →
        let pending := clearedPending x.cmd (s.dock d).pending
        ((s.dock d).state ≠ .relatching → (t.dock d).pending = pending ∧ (t.dock d).relatch = (s.dock d).relatch) ∧
        ((s.dock d).state = .relatching →
          (t.dock d).pending = (if pending = .closeCmd then .none else pending) ∧ (t.dock d).relatch = 0)) ∧
      t.findRide r.number = none ∧ OtherRidesKept s t r.number ∧
      t.findCred r.cred = settledEntry e f ∧ (∀ c, c ≠ r.cred → t.findCred c = s.findCred c) ∧
      PostedN s t r.slot .closedHere (.trip .closedHere (settledTrip r (some d) s.minute f late early)) ∧
      (NoLinkNotice (s.dock d) rep → t.listN.length = s.listN.length + 1) ∧
      SameBase s t ∧ PortsKept s t ∧
      (r.state = .opened → DocksKept s t [d] ∧ GrantsStand s t d ∧ t.listK = s.listK ∧
        (NoLinkNotice (s.dock d) rep → t.free = s.free)) ∧
      (r.state ≠ .opened →
        t.dock r.dock = { s.dock r.dock with state := .relatching, relatch := 0, pending := .closeCmd } ∧
        r.dock ∉ t.grants ∧ DocksKept s t [d, r.dock] ∧ GrantsMoved s t [r.dock] [d, r.dock] ∧
        (NoLinkNotice (s.dock d) rep →
          (t.free, t.listK) = postPool s.free s.listK (.outcome r.number r.cred r.dock .taken)))

/-- R78, R79, R93, R94, R149, R162, R167: a bike of no ride, or of a QUEUED one, latched at an EMPTY dock, or a tag read at last
at a dock whose stored tag is 0, is a FOREIGN_RETURN in a slot from the free list, lost to OVERFLOW with none free; a
DOCKED dock that reports no bike becomes EMPTY with UNAUTH_REMOVAL carrying the tag it held; one that reports another tag
takes it and posts nothing; one whose latch is open becomes RELATCHING with CLOSE pending (R78), its tag 0 or not. That the reply may be taken from the open window is log 6. -/
def Obligations.BikeWithoutRide : Prop :=
  ∀ (s : State) (l : Line) (x : Turn) (rep : StatusReply), let d := dockIx l x.addr
    ReplyDue s l x → s.rideAt d = none →
    let pending := clearedPending x.cmd (s.dock d).pending
    (ReturnSeen (s.dock d) rep → (rep.tag = 0#32 ∨ s.rideOfTag rep.tag = none ∨
        ∃ r : Ride, s.rideOfTag rep.tag = some r ∧ r.state = .queued) →
      ∃ t : State, exec (.statusReply l rep) s = .next t ∧
        t.dock d = { replied (s.dock d) rep (t.dock d).ack (t.dock d).pending with
          state := .docked, tag := rep.tag, since := s.minute, relatch := (t.dock d).relatch } ∧
        ((∀ y ∈ s.releaseQ, y.dock ≠ d) →
          ((s.dock d).state ≠ .relatching → (t.dock d).pending = pending ∧ (t.dock d).relatch = (s.dock d).relatch) ∧
          ((s.dock d).state = .relatching →
            (t.dock d).pending = (if pending = .closeCmd then .none else pending) ∧ (t.dock d).relatch = 0)) ∧
        GrantsStand s t d ∧
        (NoLinkNotice (s.dock d) rep → s.free = [] → t.free = [] ∧ t.listN = s.listN ∧ Overflowed t .n) ∧
        (∀ (slot : Nat) (rest : List Nat), NoLinkNotice (s.dock d) rep → s.free = slot :: rest →
          t.free = rest ∧ t.listN.length = s.listN.length + 1 ∧
          PostedN s t slot .foreignReturn (.trip .foreignReturn
            ⟨none, 0#24, rep.tag, none, some d, none, s.minute, none, 0, 0, none, false, false, false, false⟩)) ∧
        DocksKept s t [d] ∧ SameRides s t ∧ t.creds = s.creds ∧ t.listK = s.listK ∧ SameBase s t ∧ PortsKept s t) ∧
    ((s.dock d).state = .docked → rep.bike = false → rep.latch ≠ .jammed → rep.readerFault = false →
      ∃ t : State, exec (.statusReply l rep) s = .next t ∧
        t.dock d = { replied (s.dock d) rep (t.dock d).ack (t.dock d).pending with
          state := .empty, tag := 0#32, since := 0#16, relatch := 0 } ∧
        ((∀ y ∈ s.releaseQ, y.dock ≠ d) → (t.dock d).pending = pending) ∧ GrantsStand s t d ∧
        (NoLinkNotice (s.dock d) rep → Notified s t s.free (.dock d) (.unauthRemoval (s.dock d).tag none)) ∧
        DocksKept s t [d] ∧ SameRides s t ∧ t.creds = s.creds ∧ t.listK = s.listK ∧ SameBase s t ∧ PortsKept s t) ∧
    ((s.dock d).state = .docked → rep.bike = true → rep.readerFault = false → ¬ ReturnSeen (s.dock d) rep →
      rep.latch = .locked ∨ rep.latch = .unlatched →
      ∃ t : State, exec (.statusReply l rep) s = .next t ∧
        (rep.latch = .locked →
          t.dock d = replied (retagged s (s.dock d) rep.tag) rep (t.dock d).ack (t.dock d).pending ∧
          ((∀ y ∈ s.releaseQ, y.dock ≠ d) → (t.dock d).pending = pending)) ∧ GrantsStand s t d ∧
        (rep.latch = .unlatched →
          t.dock d = { replied (s.dock d) rep (t.dock d).ack .closeCmd with state := .relatching, relatch := 0 }) ∧
        (NoLinkNotice (s.dock d) rep → SamePool s t) ∧
        DocksKept s t [d] ∧ SameRides s t ∧ t.creds = s.creds ∧ t.listK = s.listK ∧ SameBase s t ∧ PortsKept s t)

/-- R87, R90, R91, R92, R100, R122, R135: every good STATUS reply makes the link ONLINE, clears failed turns and busy
streak, writes the power-low field and ends the turn, and an OPEN it carried is delivered (log 26). R119, R120, R136: the
polling position moves to the next fitted address, and after the highest a new round starts in RUNNING or where one is owed,
and else none. R135, R137: a new token or a bike change makes the quiet timer 0 and returns a QUIET line to RUNNING, as does
a pending command that the reply sets for a dock of it; without either the line stands. From LOST it posts NODE_BACK, and a power-low field that rises posts NODE_POWER_LOW after it. The first reply of
an UNKNOWN dock gives it its state, with no return lookup. An EMPTY dock without a latched bike stays as it is. That the
reply may be taken from the open window is log 6. -/
def Obligations.LinkAndFirstReply : Prop :=
  ∀ (s : State) (l : Line) (x : Turn) (rep : StatusReply), let d := dockIx l x.addr
    ReplyDue s l x →
    ∃ t : State, exec (.statusReply l rep) s = .next t ∧
      t.dock d = { replied (t.dock d) rep (t.dock d).ack (t.dock d).pending with
        hold := (s.dock d).hold, mismatch := (s.dock d).mismatch } ∧
      (t.line l).turn = none ∧ (t.line l).errors = (s.line l).errors ∧ SameBase s t ∧ PortsKept s t ∧
      ProgressSettled s t d .delivered ∧
      (ReleaseInv s → s.fitted d = true →
        LineReplied s t l x rep ∧ LineFollows s t (otherLine l) (s.line (otherLine l))) ∧
      (rep.bike = true → rep.tag ≠ (s.dock d).tag → (t.line l).state = .running ∧ (t.line l).quietTimer = 0) ∧
      (s.rideAt d = none → rep.latch ≠ .jammed → rep.readerFault = false → (∀ y ∈ s.releaseQ, y.dock ≠ d) →
        let pending := clearedPending x.cmd (s.dock d).pending
        ((s.dock d).state = .unknown ∨ (s.dock d).state = .empty ∧ ¬ (rep.bike = true ∧ rep.latch = .locked) →
          DocksKept s t [d] ∧ GrantsStand s t d ∧ SameRides s t ∧ t.creds = s.creds ∧ t.listK = s.listK ∧
          ((s.dock d).link ≠ .lost → (rep.powerLow = true → (s.dock d).powerLow = true) → SamePool s t) ∧
          ((s.dock d).link = .lost → (rep.powerLow = true → (s.dock d).powerLow = true) →
            Notified s t s.free (.dock d) (.nodeBack .status)) ∧
          ((s.dock d).link ≠ .lost → rep.powerLow = true → (s.dock d).powerLow = false →
            Notified s t s.free (.dock d) .nodePowerLow) ∧
          (∀ (n1 n2 : Nat) (rest : List Nat), (s.dock d).link = .lost → rep.powerLow = true →
            (s.dock d).powerLow = false → s.free = n1 :: n2 :: rest → s.level .nodeBack ≠ 0 →
            s.level .nodePowerLow ≠ 0 → s.suppressed (.dock d) .nodeBack = false →
            s.suppressed (.dock d) .nodePowerLow = false →
            t.free = rest ∧
            PostedN s t n1 .nodeBack (.notice (.dock d) s.minute s.second (.nodeBack .status)) ∧
            PostedN s t n2 .nodePowerLow (.notice (.dock d) s.minute s.second .nodePowerLow))) ∧
        ((s.dock d).state = .unknown → rep.bike = false →
          t.dock d = { replied (s.dock d) rep (t.dock d).ack pending with
            state := .empty, tag := 0#32, since := 0#16, relatch := 0 }) ∧
        ((s.dock d).state = .unknown → rep.bike = true → rep.latch = .locked →
          t.dock d = { replied (s.dock d) rep (t.dock d).ack pending with
            state := .docked, tag := rep.tag, since := s.minute }) ∧
        ((s.dock d).state = .unknown → rep.bike = true → rep.latch = .unlatched →
          t.dock d = { replied (s.dock d) rep (t.dock d).ack .closeCmd with
            state := .relatching, tag := rep.tag, since := s.minute, relatch := 0 }) ∧
        ((s.dock d).state = .empty → ¬ (rep.bike = true ∧ rep.latch = .locked) →
          t.dock d = replied (s.dock d) rep (t.dock d).ack pending))

/-- R97 to R99, R75: a reply that shows the latch jammed makes the dock FAULTED(JAMMED) with LATCH_JAM, once, and cancels
the ride at the dock with LATCH_FAULT; a reader fault makes an UNKNOWN, EMPTY or DOCKED dock FAULTED(READER) with
READER_FAULT; a FAULTED dock clears on a reply without fault that shows no bike or a latched one, and else stays. That
the reply may be taken from the open window is log 6. -/
def Obligations.DockFaults : Prop :=
  (∀ (s : State) (l : Line) (x : Turn) (r : Ride) (e : Cred) (rep : StatusReply), let d := dockIx l x.addr
    ReplyDue s l x → RidesSorted s → s.rideAt d = some r → s.findCred r.cred = some e → rep.latch = .jammed →
    ∃ t : State, exec (.statusReply l rep) s = .next t ∧ RideEnded s t r e .latchFault ∧
      t.dock d = { replied (s.dock d) rep (t.dock d).ack (withoutLatch (clearedPending x.cmd (s.dock d).pending)) with
        state := .faulted .jammed, relatch := 0 } ∧
      (NoLinkNotice (s.dock d) rep →
        Notified s t (cancelPool s.free s.listK r .latchFault).1 (.dock d)
          (.latchJam (s.dock d).tag .node (some r.number))) ∧
      DocksKept s t [d] ∧ SameBase s t ∧ PortsKept s t) ∧
  (∀ (s : State) (l : Line) (x : Turn) (rep : StatusReply), let d := dockIx l x.addr
    ReplyDue s l x → s.rideAt d = none → (∀ y ∈ s.releaseQ, y.dock ≠ d) →
    let pending := clearedPending x.cmd (s.dock d).pending
    let faulted : Prop := (s.dock d).state = .faulted .jammed ∨ (s.dock d).state = .faulted .reader
    let clear : Prop := faulted ∧ rep.latch ≠ .jammed ∧ rep.readerFault = false
    ∃ t : State, exec (.statusReply l rep) s = .next t ∧ SameBase s t ∧ PortsKept s t ∧
      (rep.latch = .jammed ∨ rep.readerFault = true ∧
          ((s.dock d).state = .unknown ∨ (s.dock d).state = .empty ∨ (s.dock d).state = .docked) ∨
          faulted ∧ ¬ ReturnSeen (s.dock d) rep →
        DocksKept s t [d] ∧ GrantsStand s t d ∧ SameRides s t ∧ t.creds = s.creds ∧ t.listK = s.listK) ∧
      (rep.latch = .jammed → (s.dock d).state ≠ .faulted .jammed →
        t.dock d = { replied (s.dock d) rep (t.dock d).ack (withoutLatch pending) with
          state := .faulted .jammed, relatch := 0 } ∧
        (NoLinkNotice (s.dock d) rep →
          Notified s t s.free (.dock d) (.latchJam (s.dock d).tag .node none))) ∧
      (rep.latch ≠ .jammed → rep.readerFault = true →
        (s.dock d).state = .unknown ∨ (s.dock d).state = .empty ∨ (s.dock d).state = .docked →
        t.dock d = { replied (s.dock d) rep (t.dock d).ack pending with state := .faulted .reader } ∧
        (NoLinkNotice (s.dock d) rep → Notified s t s.free (.dock d) (.readerFault (s.dock d).tag))) ∧
      ((s.dock d).state = .faulted .jammed ∧ rep.latch = .jammed ∨
          faulted ∧ rep.latch ≠ .jammed ∧ (rep.readerFault = true ∨ rep.bike = true ∧ rep.latch = .unlatched) →
        t.dock d = replied (s.dock d) rep (t.dock d).ack pending ∧ (NoLinkNotice (s.dock d) rep → SamePool s t)) ∧
      (clear → rep.bike = false →
        t.dock d = { replied (s.dock d) rep (t.dock d).ack pending with
          state := .empty, tag := 0#32, since := 0#16, relatch := 0 } ∧
        (NoLinkNotice (s.dock d) rep → (s.dock d).tag = 0#32 → SamePool s t) ∧
        (NoLinkNotice (s.dock d) rep → (s.dock d).tag ≠ 0#32 →
          Notified s t s.free (.dock d) (.unauthRemoval (s.dock d).tag none))) ∧
      (clear → rep.bike = true → rep.latch = .locked → (s.dock d).tag ≠ 0#32 ∨ rep.tag = 0#32 →
        t.dock d = { replied (retagged s (s.dock d) rep.tag) rep (t.dock d).ack pending with state := .docked } ∧
        (NoLinkNotice (s.dock d) rep → SamePool s t)))

/-- R87, R121, R123, R124, R128: a good BUSY reply makes the link ONLINE, with NODE_BACK from LOST, and raises the busy
streak; the eighth in a row is a failed turn without a line error. A bad reply, a WAKE in the open reply window (R137, log
22), a gap in a reply and the expiry of the reply window fail the turn: the busy streak is 0, the failed turns rise by one
up to 3, and the line's error count rises where the failure is a line error. R119, R120, R136: the turn is over and the
polling position moves on, a new round following the last dock in RUNNING or where one is owed; an OPEN the turn carried is
delivered, but not where it was answered BUSY (log 26). Below the third failure and the error threshold every other item
stays, the timers and counts of the line among them. That a reply may be taken from the open window is log 6. -/
def Obligations.TurnsWithoutStatus : Prop :=
  (∀ (s : State) (l : Line) (x : Turn), let d := dockIx l x.addr
    ReplyDue s l x → ((s.dock d).busy < 7 ∨ (s.dock d).failed < 2 ∨ (s.dock d).link = .lost) →
    ∃ t : State, exec (.busyReply l) s = .next t ∧
      t.dock d = { s.dock d with
        link := .online
        busy := if (s.dock d).busy < 7 then (s.dock d).busy + 1 else 0
        failed := (if (s.dock d).link = .lost then 0 else (s.dock d).failed) +
          (if (s.dock d).busy < 7 then 0 else 1) } ∧
      (∀ d', d' ≠ d → t.dock d' = s.dock d') ∧ t.rides = s.rides.map (fun r => r.settled d .notSent) ∧
      TurnEnded s l x (t.line l) ∧ t.line (otherLine l) = s.line (otherLine l) ∧ t.creds = s.creds ∧
      t.releaseQ = s.releaseQ ∧ t.grants = s.grants ∧ t.listK = s.listK ∧ SameStation s t ∧ PortsKept s t ∧
      ((s.dock d).link ≠ .lost → SamePool s t ∧ t.portN = s.portN ∧ t.portK = s.portK) ∧
      ((s.dock d).link = .lost → Notified s t s.free (.dock d) (.nodeBack .busy))) ∧
  (∀ (s : State) (l : Line) (x : Turn) (i : Instr) (isError : Bool), let d := dockIx l x.addr
    FailsTurn s l x i isError → (s.dock d).failed < 2 ∨ (s.dock d).failed = 3 → ¬ RestartsItself s l isError →
    ∃ t : State, exec i s = .next t ∧
      t.dock d = { s.dock d with busy := 0, failed := min ((s.dock d).failed + 1) 3 } ∧
      (∀ d', d' ≠ d → t.dock d' = s.dock d') ∧ TurnFailed s l x isError (t.line l) ∧
      t.line (otherLine l) = s.line (otherLine l) ∧ t.rides = s.rides.map (fun r => r.settled d .delivered) ∧
      t.creds = s.creds ∧ t.releaseQ = s.releaseQ ∧ t.grants = s.grants ∧ SamePool s t ∧ SameStation s t ∧
      t.portN = s.portN ∧ t.portK = s.portK)

/-- R75, R76, R87, R124, R166: the third consecutive failed turn, the eighth BUSY in a row among them (R123), makes the link
LOST, from UNKNOWN or ONLINE, and posts NODE_LOST: with no ride at the dock; with its QUEUED ride cancelled with DOCK_LOST
and the dock DOCKED; with its RELEASING ride and the dock gone to RELATCHING; with its RELATCHING ride unchanged. The grant
is passed on (R108, R110). R128 to R130, R169: the error that reaches the threshold, at a third failure or any other, posts
LINE_DEGRADED after that and breaks the line with cause ERRORS; else the line's turn is over (R119, R120). A command is
delivered but where the turn was answered BUSY (log 26). That a reply may be taken from the open window is log 6, and that a
WAKE there is a wrong address for every line state log 22. -/
def Obligations.LossAndRestart : Prop :=
  (∀ (s : State) (l : Line) (x : Turn) (i : Instr) (isError : Bool) (p : OpenProgress), let d := dockIx l x.addr
    ThirdFailure s l x i isError p → RidesSorted s →
    let degraded : Option (Subject × NoticeBody) :=
      if RestartsItself s l isError then
        some (.line l, .lineDegraded ((s.line l).errors + 1) s.settings.errThreshold)
      else none
    ∃ t : State, exec i s = .next t ∧ DocksKept s t [d] ∧ SameStation s t ∧ PortsKept s t ∧ ProgressSettled s t d p ∧
      (RestartsItself s l isError →
        t.line l = inBreak (s.settings.rate l) .errors ∧ t.portN.latched &&& 0x10#8 = 0x10#8) ∧
      (¬ RestartsItself s l isError → (t.line l).errors = (s.line l).errors + (if isError then 1 else 0)) ∧
      (ReleaseInv s →
        (¬ RestartsItself s l isError → ∃ c : LineCtl, TurnFailed s l x isError c ∧ LineFollows s t l c) ∧
        LineFollows s t (otherLine l) (s.line (otherLine l))) ∧
      (s.rideAt d = none →
        t.dock d = { s.dock d with busy := 0, failed := 3, link := .lost } ∧
        NotifiedThen s t s.free (.dock d) (.nodeLost none) degraded ∧ GrantsStand s t d ∧
        t.rides = s.rides.map (fun r => r.settled d p) ∧ t.creds = s.creds ∧ t.listK = s.listK) ∧
      (∀ (r : Ride) (e : Cred), s.rideAt d = some r → s.findCred r.cred = some e → r.state = .queued →
        RideEnded s t r e .dockLost ∧
        t.dock d = { s.dock d with busy := 0, failed := 3, link := .lost, state := .docked, relatch := 0,
                                   pending := withoutLatch (s.dock d).pending } ∧
        NotifiedThen s t (cancelPool s.free s.listK r .dockLost).1 (.dock d)
          (.nodeLost (some (r.number, .cancelled))) degraded) ∧
      (∀ r : Ride, s.rideAt d = some r → r.state = .releasing → (∀ y ∈ s.releaseQ, y.dock ≠ d) →
        t.findRide r.number = some { r.settled d p with state := .relatching, windowLeft := none } ∧
        OtherRidesKept s t r.number ∧
        t.dock d = { s.dock d with busy := 0, failed := 3, link := .lost, state := .relatching, relatch := 0,
                                   pending := .closeCmd } ∧
        d ∉ t.grants ∧ GrantsMoved s t [d] [d] ∧
        NotifiedThen s t s.free (.dock d) (.nodeLost (some (r.number, .toRelatching))) degraded ∧
        t.creds = s.creds ∧ t.listK = s.listK) ∧
      (∀ r : Ride, s.rideAt d = some r → r.state = .relatching →
        t.dock d = { s.dock d with busy := 0, failed := 3, link := .lost } ∧
        NotifiedThen s t s.free (.dock d) (.nodeLost (some (r.number, .unchanged))) degraded ∧ GrantsStand s t d ∧
        t.rides = s.rides.map (fun y => y.settled d p) ∧ t.creds = s.creds ∧ t.listK = s.listK)) ∧
  (∀ (s : State) (l : Line) (x : Turn) (i : Instr) (isError : Bool), let d := dockIx l x.addr
    FailsTurn s l x i isError → (s.dock d).failed < 2 ∨ (s.dock d).failed = 3 → RestartsItself s l isError →
    ∃ t : State, exec i s = .next t ∧
      t.line l = inBreak (s.settings.rate l) .errors ∧ t.line (otherLine l) = s.line (otherLine l) ∧
      t.portN.latched &&& 0x10#8 = 0x10#8 ∧
      Notified s t s.free (.line l) (.lineDegraded ((s.line l).errors + 1) s.settings.errThreshold) ∧
      t.dock d = { s.dock d with busy := 0, failed := min ((s.dock d).failed + 1) 3 } ∧
      (∀ d', d' ≠ d → t.dock d' = s.dock d') ∧ t.rides = s.rides.map (fun r => r.settled d .delivered) ∧
      t.releaseQ = s.releaseQ ∧ t.grants = s.grants ∧ t.creds = s.creds ∧ t.listK = s.listK ∧ SameStation s t ∧
      PortsKept s t)

/-- R145, R148, R149: every command but a reset latches STORE_LOW on both ports when it takes the free count below 16 from
16 or more, and none newly latches it otherwise. With no slot free and none posted to Port K a decision's record is
dropped with OVERFLOW on Port K; with none free a FOREIGN_RETURN or a SWEEP_ABANDONED notice is lost with OVERFLOW on
Port N, and what it reports takes place all the same. -/
def Obligations.StoreLowAndOverflow : Prop :=
  (∀ (c : Instr) (s t : State), exec c s = .next t →
    (16 ≤ s.free.length → t.free.length < 16 →
      t.portN.latched &&& 0x04#8 = 0x04#8 ∧ t.portK.latched &&& 0x04#8 = 0x04#8) ∧
    (∀ p : Port, (s.port p).latched &&& 0x04#8 = 0#8 → (t.port p).latched &&& 0x04#8 ≠ 0#8 →
      16 ≤ s.free.length ∧ t.free.length < 16)) ∧
  (∀ (s : State) (x : Presentation) (rest : List Presentation), s.queue = x :: rest → s.clockSet = false →
    s.free = [] → s.listK = [] →
    ∃ t : State, exec .admissionDecision s = .next t ∧ Overflowed t .k ∧ t.listK = [] ∧ t.free = [] ∧
      t.queue = rest) ∧
  (∀ (s : State) (l : Line) (x : Turn) (rep : StatusReply), let d := dockIx l x.addr
    ReplyDue s l x → s.rideAt d = none → (s.dock d).state = .empty → rep.bike = true → rep.latch = .locked →
    rep.readerFault = false → rep.tag = 0#32 → s.free = [] →
    ∃ t : State, exec (.statusReply l rep) s = .next t ∧ Overflowed t .n ∧ t.free = [] ∧ t.listN = s.listN ∧
      t.listK = s.listK ∧ (t.dock d).state = .docked ∧ (t.dock d).since = s.minute) ∧
  (∀ (s : State) (y : Timer), s.sweep.idle = some y → y.elapsed = y.limit → s.sweep.openNo ≠ 0#8 → s.free = [] →
    s.level .sweepAbandoned ≠ 0 →
    ∃ t : State, exec .sweepIdleExpiry s = .next t ∧ Overflowed t .n ∧ t.free = [] ∧ t.listN = s.listN ∧
      t.sweep = ⟨0#8, s.sweep.lastClosed, none⟩)

/-- R131, R137, R119, R108: at the end of the recovery time, and at a WAKE outside a turn on a QUIET line, the line is
RUNNING, LINE is latched and the grant procedure has run: the oldest waiting entries that the budget allows are granted, the
entries of a line just started among them, and OPEN is set (R105, R109, R111). A round is in progress from the lowest fitted
address; one in progress at the WAKE continues. -/
def Obligations.LineStarts : Prop :=
  ∀ (s : State) (l : Line) (a : Addr) (i : Instr),
    s.fitted (dockIx l a) = true → (∀ a' : Addr, a'.val < a.val → s.fitted (dockIx l a') = false) →
    ((s.line l).state = .brk ∧ (s.line l).breakTimer = .recovery ∧ i = .recoveryEnd l ∨
      (s.line l).state = .quiet ∧ (s.line l).turn = none ∧ i = .wake l) →
    ∃ t : State, exec i s = .next t ∧
      (t.line l).state = .running ∧ (t.line l).roundOn = true ∧
      (t.line l).quietTimer = 0 ∧ t.portN.latched &&& 0x10#8 = 0x10#8 ∧ GrantsIssued t ∧
      (i = .recoveryEnd l →
        t.line l = { s.line l with
          state := .running, breakTimer := .stopped, errTimer := some 0, quietTimer := 0, quietDue := false
          roundOn := true, pos := some a } ∧
        ∀ slot rest, s.free = slot :: rest → s.level .lineRestarted ≠ 0 →
          s.suppressed (.line l) .lineRestarted = false →
          t.free = rest ∧ PostedN s t slot .lineRestarted (.notice (.line l) s.minute s.second
            (.lineRestarted (s.line l).breakCause (s.line l).rate))) ∧
      (i = .wake l →
        t.line l = { s.line l with
          state := .running, quietInterval := none, quietTimer := 0, quietDue := false, roundOwed := false
          roundOn := true, pos := if (s.line l).roundOn then (s.line l).pos else some a } ∧ SamePool s t) ∧
      (ReleaseInv s →
        QueueMoved { s with lineA := t.lineA, lineB := t.lineB } t [] ∧
        DocksMoved { s with lineA := t.lineA, lineB := t.lineB } t [] [] ∧
        LineFollows s t (otherLine l) (s.line (otherLine l))) ∧
      t.rides = s.rides ∧ t.creds = s.creds ∧ t.listK = s.listK ∧ SameStation s t ∧ PortsKept s t ∧ DocksKept s t []

/-! ## Records -/

/-- R150, R151: TAKE moves the head of the port's list to its held slots and answers slot and record; GIVE BACK returns a
held slot to the tail of the free list; the refusals LIMIT, EMPTY, BAD_VALUE and NOT_FOUND change nothing. -/
def Obligations.TakeAndGiveBack : Prop :=
  ∀ (s : State) (p : Port), s.takes p →
    let limit := match p with
      | .n => 16
      | .k => 4
    (limit ≤ (s.port p).taken.length → exec (.take p) s = .next (s.answered p 0x14#8 3 .limit .none)) ∧
    ((s.port p).taken.length < limit → s.postList p = [] →
      exec (.take p) s = .next (s.answered p 0x14#8 3 .empty .none)) ∧
    (∀ (x : Posted) (xs : List Posted), (s.port p).taken.length < limit → s.postList p = x :: xs →
      exec (.take p) s = .next (State.answered
        (State.setPort { s with
            listN := if p = .n then xs else s.listN
            listK := if p = .k then xs else s.listK } p { s.port p with taken := (s.port p).taken ++ [x] })
        p 0x14#8 3 .ok (.taken x.slot x.record))) ∧
    (∀ n : Word16, 383 < n.toNat → exec (.giveBack p n) s = .next (s.answered p 0x15#8 5 .badValue .none)) ∧
    (∀ n : Word16, n.toNat ≤ 383 → (∀ x ∈ (s.port p).taken, x.slot ≠ n.toNat) →
      exec (.giveBack p n) s = .next (s.answered p 0x15#8 5 .notFound .none)) ∧
    (∀ (n : Word16) (x : Posted), n.toNat ≤ 383 → x ∈ (s.port p).taken → x.slot = n.toNat →
      exec (.giveBack p n) s = .next (State.answered
        (State.setPort { s with free := s.free ++ [n.toNat] } p
          { s.port p with taken := (s.port p).taken.filter (fun y => decide (y.slot ≠ n.toNat)) })
        p 0x15#8 5 .ok .none))

/-- R154: KIND SET stores the level clamped to 0 to 3 for a notice kind and 1 to 3 for a trip record kind, and answers it;
a kind outside the table is refused BAD_VALUE, and Port K WRONG_PORT. -/
def Obligations.KindSetStores : Prop :=
  ∀ (s : State) (kind level : Byte),
    (s.takes .n → (∀ k ∈ Kind.all, k.code ≠ kind) →
      exec (.kindSet .n kind level) s = .next (s.answered .n 0x0A#8 5 .badValue .none)) ∧
    (∀ k : Kind, s.takes .n → k.code = kind →
      let low := if k.isTrip then 1 else 0
      let v := max low (min level.toNat 3)
      exec (.kindSet .n kind level) s = .next
        (State.answered { s with levels := s.levels.set k.ix.val (Fin.ofNat 4 v) k.ix.isLt }
          .n 0x0A#8 5 (if v = level.toNat then .ok else .clamped) (.level v))) ∧
    (s.takes .k → exec (.kindSet .k kind level) s = .next (s.answered .k 0x0A#8 5 .wrongPort .none))

/-! ## Station settings -/

/-- R187, R188, R44, R113: STATION SET of a numeric setting stores the value clamped into its range; the marks stay apart
and hold-off is compared with them; a raised budget issues grants to the oldest candidates up to the new budget (R105,
R108), and OPEN is set (R109); any other setting changes itself alone. -/
def Obligations.StationSetStores : Prop :=
  ∀ (s : State) (b line : Byte) (n : NumSetting) (value : Word16), s.takes .n → SettingsInRange s.settings →
    settingOfCode b = some (.num n) →
    let v := max (n.range s.settings).1 (min (n.range s.settings).2 value.toNat)
    let low := if n = .high ∧ v ≤ s.settings.low then v - 1 else s.settings.low
    let answer : Response := ⟨0x09#8, if v = value.toNat ∧ low = s.settings.low then .ok else .clamped,
      .setting b none v (if low = s.settings.low then none else some low)⟩
    let t' : Settings := ({ s.settings with low := low }).setNum n v
    ∃ t : State, exec (.stationSet .n b line value) s = .next t ∧ Answers s t .n answer 7 ∧
      t.settings = t' ∧ SettingsInRange t.settings ∧ t.settings.getNum n = v ∧
      (n = .high ∨ n = .low →
        t.holdOff = if v = s.settings.getNum n then s.holdOff
          else if s.holdOff then decide (t'.low < s.queue.length) else decide (t'.high < s.queue.length)) ∧
      (n ≠ .high → n ≠ .low → t.holdOff = s.holdOff) ∧
      (n = .budget → s.settings.budget < v → GrantsIssued t ∧ (ReleaseInv s →
        QueueMoved { s with settings := t.settings } t [] ∧ DocksMoved { s with settings := t.settings } t [] [] ∧
        LinesFollow s t)) ∧
      (n ≠ .budget ∨ v ≤ s.settings.budget → t.docks = s.docks ∧ t.grants = s.grants ∧ t.releaseQ = s.releaseQ ∧
        t.lineA = s.lineA ∧ t.lineB = s.lineB) ∧
      t.queue = s.queue ∧ t.rides = s.rides ∧ t.creds = s.creds ∧ t.classes = s.classes ∧ t.minute = s.minute ∧
      t.second = s.second ∧ t.clockSet = s.clockSet ∧ t.sweep = s.sweep ∧ t.nextRide = s.nextRide ∧
      t.levels = s.levels ∧ SamePool s t

/-- R138, R139, R187: a changed rate breaks a line that is not DISABLED with cause RATE at the new rate, and on a DISABLED
line is recorded alone; enabling quiet on a RUNNING line starts its quiet timer from 0, and disabling it makes the timer 0;
disabling it on a QUIET line returns the line to RUNNING as a WAKE does; on a line in BREAK or DISABLED quiet is recorded
alone; a value already held changes nothing. A setting, a line or a rate outside the tables is refused BAD_VALUE. -/
def Obligations.LineSettings : Prop :=
  ∀ (s : State) (l : Line), s.takes .n →
    let b : Byte := match l with
      | .a => 0#8
      | .b => 1#8
    (∀ (x line : Byte) (v : Word16), 15 ≤ x.toNat →
      exec (.stationSet .n x line v) s = .next (s.answered .n 0x09#8 7 .badValue .none)) ∧
    (∀ (x line : Byte) (v : Word16), x = 9#8 ∨ x = 14#8 → 2 ≤ line.toNat →
      exec (.stationSet .n x line v) s = .next (s.answered .n 0x09#8 7 .badValue .none)) ∧
    (∀ v : Word16, 4 ≤ v.toNat →
      exec (.stationSet .n 14#8 b v) s = .next (s.answered .n 0x09#8 7 .badValue .none)) ∧
    (∀ r : Rate, s.settings.rate l = r →
      exec (.stationSet .n 14#8 b (BitVec.ofNat 16 r.code)) s = .next
        (s.answered .n 0x09#8 7 .ok (.setting 14#8 (some l) r.code none))) ∧
    (∀ r : Rate, s.settings.rate l ≠ r → (s.line l).state = .disabled →
      exec (.stationSet .n 14#8 b (BitVec.ofNat 16 r.code)) s = .next
        (State.answered { s with settings := s.settings.setRate l r }
          .n 0x09#8 7 .ok (.setting 14#8 (some l) r.code none))) ∧
    (∀ r : Rate, s.settings.rate l ≠ r → (s.line l).state ≠ .disabled →
      ∃ t : State, exec (.stationSet .n 14#8 b (BitVec.ofNat 16 r.code)) s = .next t ∧
        t.line l = inBreak r .rate ∧ t.line (otherLine l) = s.line (otherLine l) ∧
        t.settings = s.settings.setRate l r ∧ t.docks = s.docks ∧ t.rides = abandonedRides s l ∧ t.grants = s.grants ∧
        t.releaseQ = s.releaseQ ∧ t.creds = s.creds ∧ SamePool s t ∧
        Answers s t .n ⟨0x09#8, .ok, .setting 14#8 (some l) r.code none⟩ 7) ∧
    (∀ v : Word16, s.settings.quiet l = decide (v ≠ 0#16) →
      exec (.stationSet .n 9#8 b v) s = .next
        (s.answered .n 0x09#8 7 .ok (.setting 9#8 (some l) (if v = 0#16 then 0 else 1) none))) ∧
    (∀ v : Word16, s.settings.quiet l ≠ decide (v ≠ 0#16) → (s.line l).state = .running →
      exec (.stationSet .n 9#8 b v) s = .next
        (State.answered (State.setLine { s with settings := s.settings.setQuiet l (decide (v ≠ 0#16)) } l
            { s.line l with quietTimer := 0, quietDue := false })
          .n 0x09#8 7 .ok (.setting 9#8 (some l) (if v = 0#16 then 0 else 1) none))) ∧
    (∀ v : Word16, s.settings.quiet l ≠ decide (v ≠ 0#16) → (s.line l).state = .brk ∨ (s.line l).state = .disabled →
      exec (.stationSet .n 9#8 b v) s = .next
        (State.answered { s with settings := s.settings.setQuiet l (decide (v ≠ 0#16)) }
          .n 0x09#8 7 .ok (.setting 9#8 (some l) (if v = 0#16 then 0 else 1) none))) ∧
    (∀ a : Addr, s.settings.quiet l = true → (s.line l).state = .quiet → s.fitted (dockIx l a) = true →
      (∀ a' : Addr, a'.val < a.val → s.fitted (dockIx l a') = false) →
      ∃ t : State, exec (.stationSet .n 9#8 b 0#16) s = .next t ∧ t.settings = s.settings.setQuiet l false ∧
        t.line l = { s.line l with
          state := .running, quietInterval := none, quietTimer := 0, quietDue := false, roundOwed := false
          roundOn := true, pos := if (s.line l).roundOn then (s.line l).pos else some a } ∧
        t.portN.latched &&& 0x10#8 = 0x10#8 ∧ GrantsIssued t ∧ DocksKept s t [] ∧
        (ReleaseInv s → QueueMoved s t [] ∧ DocksMoved s t [] [] ∧
          LineFollows s t (otherLine l) (s.line (otherLine l))) ∧ t.rides = s.rides ∧
        t.creds = s.creds ∧ SamePool s t ∧
        Answers s t .n ⟨0x09#8, .ok, .setting 9#8 (some l) 0 none⟩ 7)

/-! ## Ports -/

/-- R179 to R182, R192: MASK SET, MASK CLEAR and EVENT CLEAR act on the named events of the sending port alone; a set that
names an event the port lacks is refused BAD_VALUE. R179, R182, R195: in every state LIST is live exactly while the port's
post list holds a record, CLOCK on Port N exactly while the clock is not set, HOLDOFF on Port K exactly while hold-off is in
force, and no other event is live; the attention line is asserted, its pin low, exactly while some event is present, live or
latched, and unmasked. -/
def Obligations.EventRequests : Prop :=
  (∀ s : State,
    (s.live .n &&& 0x01#8 = 0x01#8 ↔ s.listN ≠ []) ∧ (s.live .n &&& 0x02#8 = 0x02#8 ↔ s.clockSet = false) ∧
    (s.live .k &&& 0x01#8 = 0x01#8 ↔ s.listK ≠ []) ∧ (s.live .k &&& 0x02#8 = 0x02#8 ↔ s.holdOff = true) ∧
    ∀ p : Port, s.live p &&& ~~~0x03#8 = 0#8 ∧ s.present p = s.live p ||| (s.port p).latched ∧
      (s.attention p = true ↔
        ∃ b : Nat, b < 8 ∧ (s.present p).getLsbD b = true ∧ (s.port p).masks.getLsbD b = false) ∧
      (s.attentionPin p = .low ↔ s.attention p = true)) ∧
  ∀ (s : State) (p : Port) (e : Byte), s.takes p →
    let names := match p with
      | .n => 0x3F#8
      | .k => 0x0F#8
    (e &&& ~~~names ≠ 0#8 →
      exec (.maskSet p e) s = .next (s.answered p 0x1A#8 4 .badValue .none) ∧
      exec (.maskClear p e) s = .next (s.answered p 0x1B#8 4 .badValue .none) ∧
      exec (.eventClear p e) s = .next (s.answered p 0x1C#8 4 .badValue .none)) ∧
    (e &&& ~~~names = 0#8 →
      exec (.maskSet p e) s = .next
        ((s.setPort p { s.port p with masks := (s.port p).masks ||| e }).answered p 0x1A#8 4 .ok
          (.eventMasks (s.live p ||| (s.port p).latched) ((s.port p).masks ||| e))) ∧
      exec (.maskClear p e) s = .next
        ((s.setPort p { s.port p with masks := (s.port p).masks &&& ~~~e }).answered p 0x1B#8 4 .ok
          (.eventMasks (s.live p ||| (s.port p).latched) ((s.port p).masks &&& ~~~e))) ∧
      exec (.eventClear p e) s = .next
        ((s.setPort p { s.port p with latched := (s.port p).latched &&& ~~~e }).answered p 0x1C#8 4 .ok
          (.events (s.live p ||| ((s.port p).latched &&& ~~~e)))))

/-- R152, R183, R37: PORT CLEAR returns the held slots to the port's own list in order, clears its latched events, keeps
its masks, and on Port N abandons an open sweep with SWEEP_ABANDONED of cause PORT_CLEAR, which latches SWEEP after the
clearing; on Port K the list is brought back to 32 records. -/
def Obligations.PortClearReturns : Prop :=
  ∀ s : State,
    (s.takes .n → s.sweep.openNo = 0#8 → ListsInv s →
      ∃ t : State, exec (.portClear .n) s = .next t ∧
        t.portN = { s.portN with held := some ⟨0x1D#8, .ok, .none⟩, latched := 0#8, taken := [], trans := .idle,
                                 dataOut := [0#8, 0#8, 0#8] } ∧
        t.listN.Pairwise (fun x y => y.record.level ≤ x.record.level) ∧
        (∀ k : Nat, t.listN.filter (fun x => decide (x.record.level = k)) =
          s.portN.taken.filter (fun x => decide (x.record.level = k)) ++
            s.listN.filter (fun x => decide (x.record.level = k))) ∧
        t = { s with portN := t.portN, listN := t.listN }) ∧
    (s.takes .n → s.sweep.openNo ≠ 0#8 → ListsInv s →
      let body : Body := .notice .none s.minute s.second (.sweepAbandoned s.sweep.openNo .portClear none)
      let notice : List Posted := match s.free with
        | [] => []
        | slot :: _ => if s.level .sweepAbandoned = 0 then []
          else [⟨slot, ⟨(s.level .sweepAbandoned).val, s.clockSet, body⟩⟩]
      ∃ t : State, exec (.portClear .n) s = .next t ∧ t.sweep = ⟨0#8, s.sweep.lastClosed, none⟩ ∧
        t.portN = { s.portN with held := some ⟨0x1D#8, .ok, .none⟩, latched := t.portN.latched, taken := [],
                                 trans := .idle, dataOut := [0#8, 0#8, 0#8] } ∧
        t.portN.latched &&& evSweep = evSweep ∧ t.portN.latched &&& 0x13#8 = 0#8 ∧
        (s.free = [] → s.level .sweepAbandoned ≠ 0 → Overflowed t .n) ∧
        t.free = s.free.drop notice.length ∧
        t.listN.Pairwise (fun x y => y.record.level ≤ x.record.level) ∧
        (∀ k : Nat, t.listN.filter (fun x => decide (x.record.level = k)) =
          s.portN.taken.filter (fun x => decide (x.record.level = k)) ++
            s.listN.filter (fun x => decide (x.record.level = k)) ++
            notice.filter (fun x => decide (x.record.level = k))) ∧
        t = { s with portN := t.portN, portK := t.portK, listN := t.listN, free := t.free, sweep := t.sweep } ∧
        KeepsItems s.portK t.portK) ∧
    (s.takes .k →
      let all := s.portK.taken ++ s.listK
      exec (.portClear .k) s = .next
        { s with
          portK := { s.portK with held := some ⟨0x1D#8, .ok, .none⟩, latched := 0#8, taken := [], trans := .idle,
                                  dataOut := [0#8, 0#8, 0#8] }
          listK := all.drop (all.length - 32)
          free := s.free ++ (all.take (all.length - 32)).map (fun x => x.slot) })

/-- R172 to R175, R192: the start and the empty end of a transaction; COLLECT: the response is shifted out after the fill
byte, and removed when it was shifted whole; a frame whose code, length or check is wrong, or that is cut within a byte,
is refused BAD_FRAME and changes nothing but its port's response. The bytes of a response are status, code, events present
and masked, field length, fields and a check that makes the check of the whole 0; the fields of a TAKE are the slot number
and the 32 bytes of its record, laid out by the tables of R193. That an absent field of a record holds zeros is the model's
choice (log 36). -/
def Obligations.Transactions : Prop :=
  ∀ (s : State) (p : Port),
    ((s.port p).trans = .idle → exec (.transactionStart p) s = .next
      (s.setPort p { s.port p with trans := .started (s.live p ||| (s.port p).latched) (s.port p).masks, dataOut := [] })) ∧
    ((s.port p).trans ≠ .idle → exec (.emptyTransactionEnd p) s = .next
      (s.setPort p { s.port p with trans := .idle, dataOut := [] })) ∧
    (∀ (present masks : Byte) (n : Nat), (s.port p).trans = .started present masks →
      let resp := responseBytes (s.port p).held present masks
      exec (.collect p n) s = .next (s.setPort p { s.port p with
        held := if resp.length ≤ n then none else (s.port p).held
        trans := .idle
        dataOut := [0x00#8] ++ resp.take n ++ List.replicate (n - resp.length) 0x00#8 })) ∧
    (∀ (code : Byte) (more : List Byte) (tail : List Bool), s.takes p → code ≠ 0xA5#8 → tail.length < 8 →
      (tail ≠ [] ∨ requestOfFrame p (code :: more) = none) →
      exec (.badFrame p (code :: more) tail) s = .next (s.answered p code (more.length + 1) .badFrame .none)) ∧
    (∀ (r : Response) (present masks : Byte),
      let resp := responseBytes (some r) present masks
      let fields := r.fields.bytes
      fields.length ≤ 120 ∧ resp.length = 6 + fields.length ∧ crc8 resp = 0#8 ∧
      resp.take (5 + fields.length) =
        [BitVec.ofNat 8 ([Status.ok, .clamped, .noResponse, .wrongPort, .badFrame, .badValue, .notFound, .full, .holdOff,
          .limit, .badState, .empty].idxOf r.status), r.code, present, masks, BitVec.ofNat 8 fields.length] ++ fields) ∧
    (∀ present masks : Byte, let resp := responseBytes none present masks
      resp.length = 6 ∧ crc8 resp = 0#8 ∧ resp.take 5 = [0x02#8, 0x00#8, present, masks, 0x00#8]) ∧
    (∀ (slot : Nat) (r : Record), let fields := (Fields.taken slot r).bytes
      fieldAt fields 0 2 = slot % 65536 ∧ fields.drop 2 = r.bytes ∧ fields.length = 34) ∧
    (∀ r : Record, RecordLaidOut r)

/-! ## Decode and encode agree -/

/-- R192, R194: the frame of every well-formed request spells that request. R195, R172: so does the wave in which a
processor shifts that frame, most significant bit first, between the assertion and the release of select. -/
def Obligations.RequestFrameRoundTrip : Prop :=
  ∀ (i : Instr) (p : Port) (bytes : List Byte), i.wellFormed = true → requestFrame i = some (p, bytes) →
    requestOfFrame p bytes = some i ∧ crc8 bytes = 0#8 ∧ commandOfWave p (spiWave (bytes.flatMap spiBits)) = i

/-- R118, R121, R194: every STATUS frame and every BUSY frame is judged a good reply with exactly its fields, and only from
the address whose turn it is. R116, R121: the characters of a reply, after any unmarked ones, make up the command of that
reply. R194: the eleven bits of a character give it back. -/
def Obligations.ReplyFrameRoundTrip : Prop :=
  (∀ (a : Addr) (r : StatusReply), ∃ rest : List Byte, statusFrame a r = replyMark a :: rest ∧
    judgeReply a (replyMark a) rest = .goodStatus r ∧
    ∀ a' : Addr, a' ≠ a → judgeReply a' (replyMark a) rest = .wrongAddress) ∧
  (∀ a : Addr, ∃ rest : List Byte, busyFrame a = replyMark a :: rest ∧
    judgeReply a (replyMark a) rest = .goodBusy) ∧
  (∀ (l : Line) (a : Addr) (before : List LineChar), (∀ c ∈ before, c.marked = false) →
    (∀ r : StatusReply, commandOfReply l a (before ++ lineFrame (statusFrame a r)) = some (.statusReply l r)) ∧
    commandOfReply l a (before ++ lineFrame (busyFrame a)) = some (.busyReply l)) ∧
  (∀ c : LineChar, charOfBits c.bits = some c ∧ c.bits.length = 11) ∧
  (∀ (a : Addr) (cmd : Pending) (ack : Byte), lineCheck (lineFrame (commandFrame a cmd ack)) = 0#8)

/-! ## Invariants -/

/-- The state after reset satisfies every invariant below. -/
def Obligations.ResetInvariants : Prop :=
  ConfigInv State.reset ∧ GrantBound State.reset ∧ QueueInv State.reset ∧ CredInv State.reset ∧ CountInv State.reset ∧
  TagInv State.reset ∧ DockTagInv State.reset ∧ ReleaseInv State.reset ∧ RideBound State.reset ∧ GrantsIssued State.reset ∧ SlotInv State.reset ∧
  ListsInv State.reset ∧ DockInv State.reset ∧ UnfittedInv State.reset ∧ LineInv State.reset

/-- R5, R153, R186, R107: settings, classes and levels stay in range, and grants held never exceed 8. -/
def Obligations.ConfigKept : Prop :=
  ∀ s t : State, ConfigInv s → GrantBound s → step s = .next t → ConfigInv t ∧ GrantBound t

/-- R43, R44: the queue bound and the meaning of hold-off. -/
def Obligations.QueueKept : Prop := ∀ s t : State, QueueInv s → step s = .next t → QueueInv t

/-- R20: distinct numbers, at most 2048 entries, every balance within −D to 32767. -/
def Obligations.CredKept : Prop := ∀ s t : State, CredInv s → step s = .next t → CredInv t

/-- R22, R29: every ride names an entry whose open-ride count is the number of its rides, at most 4; no LAPSED entry is
left with count 0. The bound on the ride table (RideTableKept) is a premise: R65 finds a free number only below it. -/
def Obligations.CountKept : Prop :=
  ∀ s t : State, CountInv s → RideBound s → step s = .next t → CountInv t

/-- R57, R64, R94: no bike tag appears in two rides; at most 256 rides, at most 60 of them not OPEN; the dock of a ride that
is QUEUED, RELEASING or RELATCHING stores that ride's tag. -/
def Obligations.RideTableKept : Prop :=
  ∀ s t : State, ReleaseInv s → TagInv s → RideBound s → step s = .next t →
    TagInv t ∧ RideBound t ∧ (DockTagInv s → DockTagInv t)

/-- R66, R105 to R109: rides, docks, release queue, grants and pending commands agree. The bound on the ride table
(RideTableKept) is a premise: R65 finds a free number only below it. -/
def Obligations.ReleaseKept : Prop :=
  ∀ s t : State, ReleaseInv s → RideBound s → step s = .next t → ReleaseInv t

/-- R108: after every event, grants held are at or above the budget, or no waiting entry has a running line. -/
def Obligations.GrantsIssuedKept : Prop := ∀ s t : State, GrantsIssued s → step s = .next t → GrantsIssued t

/-- R142: every slot is in exactly one place. -/
def Obligations.SlotKept : Prop := ∀ s t : State, SlotInv s → step s = .next t → SlotInv t

/-- R146, R147, R158: the Port N list is ordered by level, the Port K list holds at most 32 records, ports hold at most 16 and
4 slots, and each port's records are of its classes. -/
def Obligations.ListsKept : Prop := ∀ s t : State, ListsInv s → step s = .next t → ListsInv t

/-- R86, R89, R114, R115, R124, R134: both lines keep their shape, a line is DISABLED exactly when no dock of it is fitted,
an UNFITTED dock holds its reset values, the counts of every dock stay in range, and a dock at 3 failed turns is LOST. -/
def Obligations.LinesKept : Prop :=
  ∀ s t : State, ReleaseInv s → LineInv s → UnfittedInv s → DockInv s → step s = .next t →
    LineInv t ∧ UnfittedInv t ∧ DockInv t

end
end

