-- ==== Sys2Proof/Laws/State.lean ====
section
/-! SUPPORT. What each named update leaves alone and what it writes: one lemma per field, and per accessor, of each
update of State, so that no proof unfolds one. The lemmas of an update stand together. -/

namespace Sys2Proof.Machine

variable (s : State)

/-! ## Accessors of a record written out -/

@[simp] theorem State.docks_get (d : DockIx) : s.docks.get d = s.dock d := rfl
/-- The record of a dock in a state written out. -/
@[simp] theorem State.dock_mk (a b c e f g h i j k ds m n o p q r t u v w x y) (d : DockIx) :
    (State.mk a b c e f g h i j k ds m n o p q r t u v w x y).dock d = ds.get d := rfl
@[simp] theorem State.line_a : s.line .a = s.lineA := rfl
@[simp] theorem State.line_b : s.line .b = s.lineB := rfl
@[simp] theorem State.port_n : s.port .n = s.portN := rfl
@[simp] theorem State.port_k : s.port .k = s.portK := rfl
@[simp] theorem State.postList_n : s.postList .n = s.listN := rfl
@[simp] theorem State.postList_k : s.postList .k = s.listK := rfl

/-! ## setDock -/

@[simp] theorem State.setDock_minute (d : DockIx) (x : Dock) : (s.setDock d x).minute = s.minute := rfl
@[simp] theorem State.setDock_second (d : DockIx) (x : Dock) : (s.setDock d x).second = s.second := rfl
@[simp] theorem State.setDock_clockSet (d : DockIx) (x : Dock) : (s.setDock d x).clockSet = s.clockSet := rfl
@[simp] theorem State.setDock_classes (d : DockIx) (x : Dock) : (s.setDock d x).classes = s.classes := rfl
@[simp] theorem State.setDock_creds (d : DockIx) (x : Dock) : (s.setDock d x).creds = s.creds := rfl
@[simp] theorem State.setDock_sweep (d : DockIx) (x : Dock) : (s.setDock d x).sweep = s.sweep := rfl
@[simp] theorem State.setDock_queue (d : DockIx) (x : Dock) : (s.setDock d x).queue = s.queue := rfl
@[simp] theorem State.setDock_holdOff (d : DockIx) (x : Dock) : (s.setDock d x).holdOff = s.holdOff := rfl
@[simp] theorem State.setDock_rides (d : DockIx) (x : Dock) : (s.setDock d x).rides = s.rides := rfl
@[simp] theorem State.setDock_nextRide (d : DockIx) (x : Dock) : (s.setDock d x).nextRide = s.nextRide := rfl
@[simp] theorem State.setDock_releaseQ (d : DockIx) (x : Dock) : (s.setDock d x).releaseQ = s.releaseQ := rfl
@[simp] theorem State.setDock_grants (d : DockIx) (x : Dock) : (s.setDock d x).grants = s.grants := rfl
@[simp] theorem State.setDock_lineA (d : DockIx) (x : Dock) : (s.setDock d x).lineA = s.lineA := rfl
@[simp] theorem State.setDock_lineB (d : DockIx) (x : Dock) : (s.setDock d x).lineB = s.lineB := rfl
@[simp] theorem State.setDock_free (d : DockIx) (x : Dock) : (s.setDock d x).free = s.free := rfl
@[simp] theorem State.setDock_listN (d : DockIx) (x : Dock) : (s.setDock d x).listN = s.listN := rfl
@[simp] theorem State.setDock_listK (d : DockIx) (x : Dock) : (s.setDock d x).listK = s.listK := rfl
@[simp] theorem State.setDock_levels (d : DockIx) (x : Dock) : (s.setDock d x).levels = s.levels := rfl
@[simp] theorem State.setDock_settings (d : DockIx) (x : Dock) : (s.setDock d x).settings = s.settings := rfl
@[simp] theorem State.setDock_portN (d : DockIx) (x : Dock) : (s.setDock d x).portN = s.portN := rfl
@[simp] theorem State.setDock_portK (d : DockIx) (x : Dock) : (s.setDock d x).portK = s.portK := rfl
@[simp] theorem State.setDock_pending (d : DockIx) (x : Dock) : (s.setDock d x).pending = s.pending := rfl
@[simp] theorem State.setDock_line (d : DockIx) (x : Dock) (m : Line) : (s.setDock d x).line m = s.line m := rfl
@[simp] theorem State.setDock_port (d : DockIx) (x : Dock) (q : Port) : (s.setDock d x).port q = s.port q := rfl
@[simp] theorem State.setDock_findCred (d : DockIx) (x : Dock) (c0 : CredNo) : (s.setDock d x).findCred c0 = s.findCred c0 := rfl
@[simp] theorem State.setDock_findRide (d : DockIx) (x : Dock) (n0 : RideNo) : (s.setDock d x).findRide n0 = s.findRide n0 := rfl
@[simp] theorem State.setDock_rideOfTag (d : DockIx) (x : Dock) (t0 : BikeTag) : (s.setDock d x).rideOfTag t0 = s.rideOfTag t0 := rfl
@[simp] theorem State.setDock_rideAt (d : DockIx) (x : Dock) (j : DockIx) : (s.setDock d x).rideAt j = s.rideAt j := rfl
@[simp] theorem State.setDock_level (d : DockIx) (x : Dock) (k0 : Kind) : (s.setDock d x).level k0 = s.level k0 := rfl
@[simp] theorem State.setDock_granted (d : DockIx) (x : Dock) (j : DockIx) : (s.setDock d x).granted j = s.granted j := rfl
@[simp] theorem State.setDock_classOf (d : DockIx) (x : Dock) (e0 : Cred) : (s.setDock d x).classOf e0 = s.classOf e0 := rfl
@[simp] theorem State.setDock_postList (d : DockIx) (x : Dock) (q : Port) : (s.setDock d x).postList q = s.postList q := rfl
@[simp] theorem State.setDock_lineRuns (d : DockIx) (x : Dock) (j : DockIx) : (s.setDock d x).lineRuns j = s.lineRuns j := rfl

/-! ## updDock -/

@[simp] theorem State.updDock_minute (d : DockIx) (f : Dock → Dock) : (s.updDock d f).minute = s.minute := rfl
@[simp] theorem State.updDock_second (d : DockIx) (f : Dock → Dock) : (s.updDock d f).second = s.second := rfl
@[simp] theorem State.updDock_clockSet (d : DockIx) (f : Dock → Dock) : (s.updDock d f).clockSet = s.clockSet := rfl
@[simp] theorem State.updDock_classes (d : DockIx) (f : Dock → Dock) : (s.updDock d f).classes = s.classes := rfl
@[simp] theorem State.updDock_creds (d : DockIx) (f : Dock → Dock) : (s.updDock d f).creds = s.creds := rfl
@[simp] theorem State.updDock_sweep (d : DockIx) (f : Dock → Dock) : (s.updDock d f).sweep = s.sweep := rfl
@[simp] theorem State.updDock_queue (d : DockIx) (f : Dock → Dock) : (s.updDock d f).queue = s.queue := rfl
@[simp] theorem State.updDock_holdOff (d : DockIx) (f : Dock → Dock) : (s.updDock d f).holdOff = s.holdOff := rfl
@[simp] theorem State.updDock_rides (d : DockIx) (f : Dock → Dock) : (s.updDock d f).rides = s.rides := rfl
@[simp] theorem State.updDock_nextRide (d : DockIx) (f : Dock → Dock) : (s.updDock d f).nextRide = s.nextRide := rfl
@[simp] theorem State.updDock_releaseQ (d : DockIx) (f : Dock → Dock) : (s.updDock d f).releaseQ = s.releaseQ := rfl
@[simp] theorem State.updDock_grants (d : DockIx) (f : Dock → Dock) : (s.updDock d f).grants = s.grants := rfl
@[simp] theorem State.updDock_lineA (d : DockIx) (f : Dock → Dock) : (s.updDock d f).lineA = s.lineA := rfl
@[simp] theorem State.updDock_lineB (d : DockIx) (f : Dock → Dock) : (s.updDock d f).lineB = s.lineB := rfl
@[simp] theorem State.updDock_free (d : DockIx) (f : Dock → Dock) : (s.updDock d f).free = s.free := rfl
@[simp] theorem State.updDock_listN (d : DockIx) (f : Dock → Dock) : (s.updDock d f).listN = s.listN := rfl
@[simp] theorem State.updDock_listK (d : DockIx) (f : Dock → Dock) : (s.updDock d f).listK = s.listK := rfl
@[simp] theorem State.updDock_levels (d : DockIx) (f : Dock → Dock) : (s.updDock d f).levels = s.levels := rfl
@[simp] theorem State.updDock_settings (d : DockIx) (f : Dock → Dock) : (s.updDock d f).settings = s.settings := rfl
@[simp] theorem State.updDock_portN (d : DockIx) (f : Dock → Dock) : (s.updDock d f).portN = s.portN := rfl
@[simp] theorem State.updDock_portK (d : DockIx) (f : Dock → Dock) : (s.updDock d f).portK = s.portK := rfl
@[simp] theorem State.updDock_pending (d : DockIx) (f : Dock → Dock) : (s.updDock d f).pending = s.pending := rfl
@[simp] theorem State.updDock_line (d : DockIx) (f : Dock → Dock) (m : Line) : (s.updDock d f).line m = s.line m := rfl
@[simp] theorem State.updDock_port (d : DockIx) (f : Dock → Dock) (q : Port) : (s.updDock d f).port q = s.port q := rfl
@[simp] theorem State.updDock_findCred (d : DockIx) (f : Dock → Dock) (c0 : CredNo) : (s.updDock d f).findCred c0 = s.findCred c0 := rfl
@[simp] theorem State.updDock_findRide (d : DockIx) (f : Dock → Dock) (n0 : RideNo) : (s.updDock d f).findRide n0 = s.findRide n0 := rfl
@[simp] theorem State.updDock_rideOfTag (d : DockIx) (f : Dock → Dock) (t0 : BikeTag) : (s.updDock d f).rideOfTag t0 = s.rideOfTag t0 := rfl
@[simp] theorem State.updDock_rideAt (d : DockIx) (f : Dock → Dock) (j : DockIx) : (s.updDock d f).rideAt j = s.rideAt j := rfl
@[simp] theorem State.updDock_level (d : DockIx) (f : Dock → Dock) (k0 : Kind) : (s.updDock d f).level k0 = s.level k0 := rfl
@[simp] theorem State.updDock_granted (d : DockIx) (f : Dock → Dock) (j : DockIx) : (s.updDock d f).granted j = s.granted j := rfl
@[simp] theorem State.updDock_classOf (d : DockIx) (f : Dock → Dock) (e0 : Cred) : (s.updDock d f).classOf e0 = s.classOf e0 := rfl
@[simp] theorem State.updDock_postList (d : DockIx) (f : Dock → Dock) (q : Port) : (s.updDock d f).postList q = s.postList q := rfl
@[simp] theorem State.updDock_lineRuns (d : DockIx) (f : Dock → Dock) (j : DockIx) : (s.updDock d f).lineRuns j = s.lineRuns j := rfl

/-! ## mapDocks -/

@[simp] theorem State.mapDocks_minute (f : DockIx → Dock → Dock) : (s.mapDocks f).minute = s.minute := by simp only [State.mapDocks]
@[simp] theorem State.mapDocks_second (f : DockIx → Dock → Dock) : (s.mapDocks f).second = s.second := by simp only [State.mapDocks]
@[simp] theorem State.mapDocks_clockSet (f : DockIx → Dock → Dock) : (s.mapDocks f).clockSet = s.clockSet := by simp only [State.mapDocks]
@[simp] theorem State.mapDocks_classes (f : DockIx → Dock → Dock) : (s.mapDocks f).classes = s.classes := by simp only [State.mapDocks]
@[simp] theorem State.mapDocks_creds (f : DockIx → Dock → Dock) : (s.mapDocks f).creds = s.creds := by simp only [State.mapDocks]
@[simp] theorem State.mapDocks_sweep (f : DockIx → Dock → Dock) : (s.mapDocks f).sweep = s.sweep := by simp only [State.mapDocks]
@[simp] theorem State.mapDocks_queue (f : DockIx → Dock → Dock) : (s.mapDocks f).queue = s.queue := by simp only [State.mapDocks]
@[simp] theorem State.mapDocks_holdOff (f : DockIx → Dock → Dock) : (s.mapDocks f).holdOff = s.holdOff := by simp only [State.mapDocks]
@[simp] theorem State.mapDocks_rides (f : DockIx → Dock → Dock) : (s.mapDocks f).rides = s.rides := by simp only [State.mapDocks]
@[simp] theorem State.mapDocks_nextRide (f : DockIx → Dock → Dock) : (s.mapDocks f).nextRide = s.nextRide := by simp only [State.mapDocks]
@[simp] theorem State.mapDocks_releaseQ (f : DockIx → Dock → Dock) : (s.mapDocks f).releaseQ = s.releaseQ := by simp only [State.mapDocks]
@[simp] theorem State.mapDocks_grants (f : DockIx → Dock → Dock) : (s.mapDocks f).grants = s.grants := by simp only [State.mapDocks]
@[simp] theorem State.mapDocks_lineA (f : DockIx → Dock → Dock) : (s.mapDocks f).lineA = s.lineA := by simp only [State.mapDocks]
@[simp] theorem State.mapDocks_lineB (f : DockIx → Dock → Dock) : (s.mapDocks f).lineB = s.lineB := by simp only [State.mapDocks]
@[simp] theorem State.mapDocks_free (f : DockIx → Dock → Dock) : (s.mapDocks f).free = s.free := by simp only [State.mapDocks]
@[simp] theorem State.mapDocks_listN (f : DockIx → Dock → Dock) : (s.mapDocks f).listN = s.listN := by simp only [State.mapDocks]
@[simp] theorem State.mapDocks_listK (f : DockIx → Dock → Dock) : (s.mapDocks f).listK = s.listK := by simp only [State.mapDocks]
@[simp] theorem State.mapDocks_levels (f : DockIx → Dock → Dock) : (s.mapDocks f).levels = s.levels := by simp only [State.mapDocks]
@[simp] theorem State.mapDocks_settings (f : DockIx → Dock → Dock) : (s.mapDocks f).settings = s.settings := by simp only [State.mapDocks]
@[simp] theorem State.mapDocks_portN (f : DockIx → Dock → Dock) : (s.mapDocks f).portN = s.portN := by simp only [State.mapDocks]
@[simp] theorem State.mapDocks_portK (f : DockIx → Dock → Dock) : (s.mapDocks f).portK = s.portK := by simp only [State.mapDocks]
@[simp] theorem State.mapDocks_pending (f : DockIx → Dock → Dock) : (s.mapDocks f).pending = s.pending := by simp only [State.mapDocks]
@[simp] theorem State.mapDocks_line (f : DockIx → Dock → Dock) (m : Line) : (s.mapDocks f).line m = s.line m := by simp only [State.mapDocks, State.line]
@[simp] theorem State.mapDocks_port (f : DockIx → Dock → Dock) (q : Port) : (s.mapDocks f).port q = s.port q := by simp only [State.mapDocks, State.port]
@[simp] theorem State.mapDocks_findCred (f : DockIx → Dock → Dock) (c0 : CredNo) : (s.mapDocks f).findCred c0 = s.findCred c0 := by simp only [State.mapDocks, State.findCred]
@[simp] theorem State.mapDocks_findRide (f : DockIx → Dock → Dock) (n0 : RideNo) : (s.mapDocks f).findRide n0 = s.findRide n0 := by simp only [State.mapDocks, State.findRide]
@[simp] theorem State.mapDocks_rideOfTag (f : DockIx → Dock → Dock) (t0 : BikeTag) : (s.mapDocks f).rideOfTag t0 = s.rideOfTag t0 := by simp only [State.mapDocks, State.rideOfTag]
@[simp] theorem State.mapDocks_rideAt (f : DockIx → Dock → Dock) (j : DockIx) : (s.mapDocks f).rideAt j = s.rideAt j := by simp only [State.mapDocks, State.rideAt]
@[simp] theorem State.mapDocks_level (f : DockIx → Dock → Dock) (k0 : Kind) : (s.mapDocks f).level k0 = s.level k0 := by simp only [State.mapDocks, State.level]
@[simp] theorem State.mapDocks_granted (f : DockIx → Dock → Dock) (j : DockIx) : (s.mapDocks f).granted j = s.granted j := by simp only [State.mapDocks, State.granted]
@[simp] theorem State.mapDocks_classOf (f : DockIx → Dock → Dock) (e0 : Cred) : (s.mapDocks f).classOf e0 = s.classOf e0 := by simp only [State.mapDocks, State.classOf]
@[simp] theorem State.mapDocks_postList (f : DockIx → Dock → Dock) (q : Port) : (s.mapDocks f).postList q = s.postList q := by simp only [State.mapDocks, State.postList]
@[simp] theorem State.mapDocks_lineRuns (f : DockIx → Dock → Dock) (j : DockIx) : (s.mapDocks f).lineRuns j = s.lineRuns j := by simp [State.lineRuns]

/-! ## setLine -/

@[simp] theorem State.setLine_minute (l : Line) (c : LineCtl) : (s.setLine l c).minute = s.minute := by cases l <;> rfl
@[simp] theorem State.setLine_second (l : Line) (c : LineCtl) : (s.setLine l c).second = s.second := by cases l <;> rfl
@[simp] theorem State.setLine_clockSet (l : Line) (c : LineCtl) : (s.setLine l c).clockSet = s.clockSet := by cases l <;> rfl
@[simp] theorem State.setLine_classes (l : Line) (c : LineCtl) : (s.setLine l c).classes = s.classes := by cases l <;> rfl
@[simp] theorem State.setLine_creds (l : Line) (c : LineCtl) : (s.setLine l c).creds = s.creds := by cases l <;> rfl
@[simp] theorem State.setLine_sweep (l : Line) (c : LineCtl) : (s.setLine l c).sweep = s.sweep := by cases l <;> rfl
@[simp] theorem State.setLine_queue (l : Line) (c : LineCtl) : (s.setLine l c).queue = s.queue := by cases l <;> rfl
@[simp] theorem State.setLine_holdOff (l : Line) (c : LineCtl) : (s.setLine l c).holdOff = s.holdOff := by cases l <;> rfl
@[simp] theorem State.setLine_rides (l : Line) (c : LineCtl) : (s.setLine l c).rides = s.rides := by cases l <;> rfl
@[simp] theorem State.setLine_nextRide (l : Line) (c : LineCtl) : (s.setLine l c).nextRide = s.nextRide := by cases l <;> rfl
@[simp] theorem State.setLine_docks (l : Line) (c : LineCtl) : (s.setLine l c).docks = s.docks := by cases l <;> rfl
@[simp] theorem State.setLine_releaseQ (l : Line) (c : LineCtl) : (s.setLine l c).releaseQ = s.releaseQ := by cases l <;> rfl
@[simp] theorem State.setLine_grants (l : Line) (c : LineCtl) : (s.setLine l c).grants = s.grants := by cases l <;> rfl
@[simp] theorem State.setLine_free (l : Line) (c : LineCtl) : (s.setLine l c).free = s.free := by cases l <;> rfl
@[simp] theorem State.setLine_listN (l : Line) (c : LineCtl) : (s.setLine l c).listN = s.listN := by cases l <;> rfl
@[simp] theorem State.setLine_listK (l : Line) (c : LineCtl) : (s.setLine l c).listK = s.listK := by cases l <;> rfl
@[simp] theorem State.setLine_levels (l : Line) (c : LineCtl) : (s.setLine l c).levels = s.levels := by cases l <;> rfl
@[simp] theorem State.setLine_settings (l : Line) (c : LineCtl) : (s.setLine l c).settings = s.settings := by cases l <;> rfl
@[simp] theorem State.setLine_portN (l : Line) (c : LineCtl) : (s.setLine l c).portN = s.portN := by cases l <;> rfl
@[simp] theorem State.setLine_portK (l : Line) (c : LineCtl) : (s.setLine l c).portK = s.portK := by cases l <;> rfl
@[simp] theorem State.setLine_pending (l : Line) (c : LineCtl) : (s.setLine l c).pending = s.pending := by cases l <;> rfl
@[simp] theorem State.setLine_dock (l : Line) (c : LineCtl) (j : DockIx) : (s.setLine l c).dock j = s.dock j := by cases l <;> rfl
@[simp] theorem State.setLine_port (l : Line) (c : LineCtl) (q : Port) : (s.setLine l c).port q = s.port q := by cases l <;> rfl
@[simp] theorem State.setLine_findCred (l : Line) (c : LineCtl) (c0 : CredNo) : (s.setLine l c).findCred c0 = s.findCred c0 := by cases l <;> rfl
@[simp] theorem State.setLine_findRide (l : Line) (c : LineCtl) (n0 : RideNo) : (s.setLine l c).findRide n0 = s.findRide n0 := by cases l <;> rfl
@[simp] theorem State.setLine_rideOfTag (l : Line) (c : LineCtl) (t0 : BikeTag) : (s.setLine l c).rideOfTag t0 = s.rideOfTag t0 := by cases l <;> rfl
@[simp] theorem State.setLine_rideAt (l : Line) (c : LineCtl) (j : DockIx) : (s.setLine l c).rideAt j = s.rideAt j := by cases l <;> rfl
@[simp] theorem State.setLine_level (l : Line) (c : LineCtl) (k0 : Kind) : (s.setLine l c).level k0 = s.level k0 := by cases l <;> rfl
@[simp] theorem State.setLine_fitted (l : Line) (c : LineCtl) (j : DockIx) : (s.setLine l c).fitted j = s.fitted j := by cases l <;> rfl
@[simp] theorem State.setLine_granted (l : Line) (c : LineCtl) (j : DockIx) : (s.setLine l c).granted j = s.granted j := by cases l <;> rfl
@[simp] theorem State.setLine_classOf (l : Line) (c : LineCtl) (e0 : Cred) : (s.setLine l c).classOf e0 = s.classOf e0 := by cases l <;> rfl
@[simp] theorem State.setLine_postList (l : Line) (c : LineCtl) (q : Port) : (s.setLine l c).postList q = s.postList q := by cases l <;> rfl

/-! ## updLine -/

@[simp] theorem State.updLine_minute (l : Line) (f : LineCtl → LineCtl) : (s.updLine l f).minute = s.minute := by cases l <;> rfl
@[simp] theorem State.updLine_second (l : Line) (f : LineCtl → LineCtl) : (s.updLine l f).second = s.second := by cases l <;> rfl
@[simp] theorem State.updLine_clockSet (l : Line) (f : LineCtl → LineCtl) : (s.updLine l f).clockSet = s.clockSet := by cases l <;> rfl
@[simp] theorem State.updLine_classes (l : Line) (f : LineCtl → LineCtl) : (s.updLine l f).classes = s.classes := by cases l <;> rfl
@[simp] theorem State.updLine_creds (l : Line) (f : LineCtl → LineCtl) : (s.updLine l f).creds = s.creds := by cases l <;> rfl
@[simp] theorem State.updLine_sweep (l : Line) (f : LineCtl → LineCtl) : (s.updLine l f).sweep = s.sweep := by cases l <;> rfl
@[simp] theorem State.updLine_queue (l : Line) (f : LineCtl → LineCtl) : (s.updLine l f).queue = s.queue := by cases l <;> rfl
@[simp] theorem State.updLine_holdOff (l : Line) (f : LineCtl → LineCtl) : (s.updLine l f).holdOff = s.holdOff := by cases l <;> rfl
@[simp] theorem State.updLine_rides (l : Line) (f : LineCtl → LineCtl) : (s.updLine l f).rides = s.rides := by cases l <;> rfl
@[simp] theorem State.updLine_nextRide (l : Line) (f : LineCtl → LineCtl) : (s.updLine l f).nextRide = s.nextRide := by cases l <;> rfl
@[simp] theorem State.updLine_docks (l : Line) (f : LineCtl → LineCtl) : (s.updLine l f).docks = s.docks := by cases l <;> rfl
@[simp] theorem State.updLine_releaseQ (l : Line) (f : LineCtl → LineCtl) : (s.updLine l f).releaseQ = s.releaseQ := by cases l <;> rfl
@[simp] theorem State.updLine_grants (l : Line) (f : LineCtl → LineCtl) : (s.updLine l f).grants = s.grants := by cases l <;> rfl
@[simp] theorem State.updLine_free (l : Line) (f : LineCtl → LineCtl) : (s.updLine l f).free = s.free := by cases l <;> rfl
@[simp] theorem State.updLine_listN (l : Line) (f : LineCtl → LineCtl) : (s.updLine l f).listN = s.listN := by cases l <;> rfl
@[simp] theorem State.updLine_listK (l : Line) (f : LineCtl → LineCtl) : (s.updLine l f).listK = s.listK := by cases l <;> rfl
@[simp] theorem State.updLine_levels (l : Line) (f : LineCtl → LineCtl) : (s.updLine l f).levels = s.levels := by cases l <;> rfl
@[simp] theorem State.updLine_settings (l : Line) (f : LineCtl → LineCtl) : (s.updLine l f).settings = s.settings := by cases l <;> rfl
@[simp] theorem State.updLine_portN (l : Line) (f : LineCtl → LineCtl) : (s.updLine l f).portN = s.portN := by cases l <;> rfl
@[simp] theorem State.updLine_portK (l : Line) (f : LineCtl → LineCtl) : (s.updLine l f).portK = s.portK := by cases l <;> rfl
@[simp] theorem State.updLine_pending (l : Line) (f : LineCtl → LineCtl) : (s.updLine l f).pending = s.pending := by cases l <;> rfl
@[simp] theorem State.updLine_dock (l : Line) (f : LineCtl → LineCtl) (j : DockIx) : (s.updLine l f).dock j = s.dock j := by cases l <;> rfl
@[simp] theorem State.updLine_port (l : Line) (f : LineCtl → LineCtl) (q : Port) : (s.updLine l f).port q = s.port q := by cases l <;> rfl
@[simp] theorem State.updLine_findCred (l : Line) (f : LineCtl → LineCtl) (c0 : CredNo) : (s.updLine l f).findCred c0 = s.findCred c0 := by cases l <;> rfl
@[simp] theorem State.updLine_findRide (l : Line) (f : LineCtl → LineCtl) (n0 : RideNo) : (s.updLine l f).findRide n0 = s.findRide n0 := by cases l <;> rfl
@[simp] theorem State.updLine_rideOfTag (l : Line) (f : LineCtl → LineCtl) (t0 : BikeTag) : (s.updLine l f).rideOfTag t0 = s.rideOfTag t0 := by cases l <;> rfl
@[simp] theorem State.updLine_rideAt (l : Line) (f : LineCtl → LineCtl) (j : DockIx) : (s.updLine l f).rideAt j = s.rideAt j := by cases l <;> rfl
@[simp] theorem State.updLine_level (l : Line) (f : LineCtl → LineCtl) (k0 : Kind) : (s.updLine l f).level k0 = s.level k0 := by cases l <;> rfl
@[simp] theorem State.updLine_fitted (l : Line) (f : LineCtl → LineCtl) (j : DockIx) : (s.updLine l f).fitted j = s.fitted j := by cases l <;> rfl
@[simp] theorem State.updLine_granted (l : Line) (f : LineCtl → LineCtl) (j : DockIx) : (s.updLine l f).granted j = s.granted j := by cases l <;> rfl
@[simp] theorem State.updLine_classOf (l : Line) (f : LineCtl → LineCtl) (e0 : Cred) : (s.updLine l f).classOf e0 = s.classOf e0 := by cases l <;> rfl
@[simp] theorem State.updLine_postList (l : Line) (f : LineCtl → LineCtl) (q : Port) : (s.updLine l f).postList q = s.postList q := by cases l <;> rfl

/-! ## startRound -/

@[simp] theorem State.startRound_minute (l : Line) : (s.startRound l).minute = s.minute := by cases l <;> rfl
@[simp] theorem State.startRound_second (l : Line) : (s.startRound l).second = s.second := by cases l <;> rfl
@[simp] theorem State.startRound_clockSet (l : Line) : (s.startRound l).clockSet = s.clockSet := by cases l <;> rfl
@[simp] theorem State.startRound_classes (l : Line) : (s.startRound l).classes = s.classes := by cases l <;> rfl
@[simp] theorem State.startRound_creds (l : Line) : (s.startRound l).creds = s.creds := by cases l <;> rfl
@[simp] theorem State.startRound_sweep (l : Line) : (s.startRound l).sweep = s.sweep := by cases l <;> rfl
@[simp] theorem State.startRound_queue (l : Line) : (s.startRound l).queue = s.queue := by cases l <;> rfl
@[simp] theorem State.startRound_holdOff (l : Line) : (s.startRound l).holdOff = s.holdOff := by cases l <;> rfl
@[simp] theorem State.startRound_rides (l : Line) : (s.startRound l).rides = s.rides := by cases l <;> rfl
@[simp] theorem State.startRound_nextRide (l : Line) : (s.startRound l).nextRide = s.nextRide := by cases l <;> rfl
@[simp] theorem State.startRound_docks (l : Line) : (s.startRound l).docks = s.docks := by cases l <;> rfl
@[simp] theorem State.startRound_releaseQ (l : Line) : (s.startRound l).releaseQ = s.releaseQ := by cases l <;> rfl
@[simp] theorem State.startRound_grants (l : Line) : (s.startRound l).grants = s.grants := by cases l <;> rfl
@[simp] theorem State.startRound_free (l : Line) : (s.startRound l).free = s.free := by cases l <;> rfl
@[simp] theorem State.startRound_listN (l : Line) : (s.startRound l).listN = s.listN := by cases l <;> rfl
@[simp] theorem State.startRound_listK (l : Line) : (s.startRound l).listK = s.listK := by cases l <;> rfl
@[simp] theorem State.startRound_levels (l : Line) : (s.startRound l).levels = s.levels := by cases l <;> rfl
@[simp] theorem State.startRound_settings (l : Line) : (s.startRound l).settings = s.settings := by cases l <;> rfl
@[simp] theorem State.startRound_portN (l : Line) : (s.startRound l).portN = s.portN := by cases l <;> rfl
@[simp] theorem State.startRound_portK (l : Line) : (s.startRound l).portK = s.portK := by cases l <;> rfl
@[simp] theorem State.startRound_pending (l : Line) : (s.startRound l).pending = s.pending := by cases l <;> rfl
@[simp] theorem State.startRound_dock (l : Line) (j : DockIx) : (s.startRound l).dock j = s.dock j := by cases l <;> rfl
@[simp] theorem State.startRound_port (l : Line) (q : Port) : (s.startRound l).port q = s.port q := by cases l <;> rfl
@[simp] theorem State.startRound_findCred (l : Line) (c0 : CredNo) : (s.startRound l).findCred c0 = s.findCred c0 := by cases l <;> rfl
@[simp] theorem State.startRound_findRide (l : Line) (n0 : RideNo) : (s.startRound l).findRide n0 = s.findRide n0 := by cases l <;> rfl
@[simp] theorem State.startRound_rideOfTag (l : Line) (t0 : BikeTag) : (s.startRound l).rideOfTag t0 = s.rideOfTag t0 := by cases l <;> rfl
@[simp] theorem State.startRound_rideAt (l : Line) (j : DockIx) : (s.startRound l).rideAt j = s.rideAt j := by cases l <;> rfl
@[simp] theorem State.startRound_level (l : Line) (k0 : Kind) : (s.startRound l).level k0 = s.level k0 := by cases l <;> rfl
@[simp] theorem State.startRound_fitted (l : Line) (j : DockIx) : (s.startRound l).fitted j = s.fitted j := by cases l <;> rfl
@[simp] theorem State.startRound_granted (l : Line) (j : DockIx) : (s.startRound l).granted j = s.granted j := by cases l <;> rfl
@[simp] theorem State.startRound_classOf (l : Line) (e0 : Cred) : (s.startRound l).classOf e0 = s.classOf e0 := by cases l <;> rfl
@[simp] theorem State.startRound_postList (l : Line) (q : Port) : (s.startRound l).postList q = s.postList q := by cases l <;> rfl

/-! ## setPort -/

@[simp] theorem State.setPort_minute (p : Port) (x : PortState) : (s.setPort p x).minute = s.minute := by cases p <;> rfl
@[simp] theorem State.setPort_second (p : Port) (x : PortState) : (s.setPort p x).second = s.second := by cases p <;> rfl
@[simp] theorem State.setPort_clockSet (p : Port) (x : PortState) : (s.setPort p x).clockSet = s.clockSet := by cases p <;> rfl
@[simp] theorem State.setPort_classes (p : Port) (x : PortState) : (s.setPort p x).classes = s.classes := by cases p <;> rfl
@[simp] theorem State.setPort_creds (p : Port) (x : PortState) : (s.setPort p x).creds = s.creds := by cases p <;> rfl
@[simp] theorem State.setPort_sweep (p : Port) (x : PortState) : (s.setPort p x).sweep = s.sweep := by cases p <;> rfl
@[simp] theorem State.setPort_queue (p : Port) (x : PortState) : (s.setPort p x).queue = s.queue := by cases p <;> rfl
@[simp] theorem State.setPort_holdOff (p : Port) (x : PortState) : (s.setPort p x).holdOff = s.holdOff := by cases p <;> rfl
@[simp] theorem State.setPort_rides (p : Port) (x : PortState) : (s.setPort p x).rides = s.rides := by cases p <;> rfl
@[simp] theorem State.setPort_nextRide (p : Port) (x : PortState) : (s.setPort p x).nextRide = s.nextRide := by cases p <;> rfl
@[simp] theorem State.setPort_docks (p : Port) (x : PortState) : (s.setPort p x).docks = s.docks := by cases p <;> rfl
@[simp] theorem State.setPort_releaseQ (p : Port) (x : PortState) : (s.setPort p x).releaseQ = s.releaseQ := by cases p <;> rfl
@[simp] theorem State.setPort_grants (p : Port) (x : PortState) : (s.setPort p x).grants = s.grants := by cases p <;> rfl
@[simp] theorem State.setPort_lineA (p : Port) (x : PortState) : (s.setPort p x).lineA = s.lineA := by cases p <;> rfl
@[simp] theorem State.setPort_lineB (p : Port) (x : PortState) : (s.setPort p x).lineB = s.lineB := by cases p <;> rfl
@[simp] theorem State.setPort_free (p : Port) (x : PortState) : (s.setPort p x).free = s.free := by cases p <;> rfl
@[simp] theorem State.setPort_listN (p : Port) (x : PortState) : (s.setPort p x).listN = s.listN := by cases p <;> rfl
@[simp] theorem State.setPort_listK (p : Port) (x : PortState) : (s.setPort p x).listK = s.listK := by cases p <;> rfl
@[simp] theorem State.setPort_levels (p : Port) (x : PortState) : (s.setPort p x).levels = s.levels := by cases p <;> rfl
@[simp] theorem State.setPort_settings (p : Port) (x : PortState) : (s.setPort p x).settings = s.settings := by cases p <;> rfl
@[simp] theorem State.setPort_pending (p : Port) (x : PortState) : (s.setPort p x).pending = s.pending := by cases p <;> rfl
@[simp] theorem State.setPort_dock (p : Port) (x : PortState) (j : DockIx) : (s.setPort p x).dock j = s.dock j := by cases p <;> rfl
@[simp] theorem State.setPort_line (p : Port) (x : PortState) (m : Line) : (s.setPort p x).line m = s.line m := by cases p <;> rfl
@[simp] theorem State.setPort_findCred (p : Port) (x : PortState) (c0 : CredNo) : (s.setPort p x).findCred c0 = s.findCred c0 := by cases p <;> rfl
@[simp] theorem State.setPort_findRide (p : Port) (x : PortState) (n0 : RideNo) : (s.setPort p x).findRide n0 = s.findRide n0 := by cases p <;> rfl
@[simp] theorem State.setPort_rideOfTag (p : Port) (x : PortState) (t0 : BikeTag) : (s.setPort p x).rideOfTag t0 = s.rideOfTag t0 := by cases p <;> rfl
@[simp] theorem State.setPort_rideAt (p : Port) (x : PortState) (j : DockIx) : (s.setPort p x).rideAt j = s.rideAt j := by cases p <;> rfl
@[simp] theorem State.setPort_level (p : Port) (x : PortState) (k0 : Kind) : (s.setPort p x).level k0 = s.level k0 := by cases p <;> rfl
@[simp] theorem State.setPort_fitted (p : Port) (x : PortState) (j : DockIx) : (s.setPort p x).fitted j = s.fitted j := by cases p <;> rfl
@[simp] theorem State.setPort_granted (p : Port) (x : PortState) (j : DockIx) : (s.setPort p x).granted j = s.granted j := by cases p <;> rfl
@[simp] theorem State.setPort_classOf (p : Port) (x : PortState) (e0 : Cred) : (s.setPort p x).classOf e0 = s.classOf e0 := by cases p <;> rfl
@[simp] theorem State.setPort_postList (p : Port) (x : PortState) (q : Port) : (s.setPort p x).postList q = s.postList q := by cases p <;> rfl
@[simp] theorem State.setPort_lineRuns (p : Port) (x : PortState) (j : DockIx) : (s.setPort p x).lineRuns j = s.lineRuns j := by cases p <;> rfl

/-! ## updPort -/

@[simp] theorem State.updPort_minute (p : Port) (f : PortState → PortState) : (s.updPort p f).minute = s.minute := by cases p <;> rfl
@[simp] theorem State.updPort_second (p : Port) (f : PortState → PortState) : (s.updPort p f).second = s.second := by cases p <;> rfl
@[simp] theorem State.updPort_clockSet (p : Port) (f : PortState → PortState) : (s.updPort p f).clockSet = s.clockSet := by cases p <;> rfl
@[simp] theorem State.updPort_classes (p : Port) (f : PortState → PortState) : (s.updPort p f).classes = s.classes := by cases p <;> rfl
@[simp] theorem State.updPort_creds (p : Port) (f : PortState → PortState) : (s.updPort p f).creds = s.creds := by cases p <;> rfl
@[simp] theorem State.updPort_sweep (p : Port) (f : PortState → PortState) : (s.updPort p f).sweep = s.sweep := by cases p <;> rfl
@[simp] theorem State.updPort_queue (p : Port) (f : PortState → PortState) : (s.updPort p f).queue = s.queue := by cases p <;> rfl
@[simp] theorem State.updPort_holdOff (p : Port) (f : PortState → PortState) : (s.updPort p f).holdOff = s.holdOff := by cases p <;> rfl
@[simp] theorem State.updPort_rides (p : Port) (f : PortState → PortState) : (s.updPort p f).rides = s.rides := by cases p <;> rfl
@[simp] theorem State.updPort_nextRide (p : Port) (f : PortState → PortState) : (s.updPort p f).nextRide = s.nextRide := by cases p <;> rfl
@[simp] theorem State.updPort_docks (p : Port) (f : PortState → PortState) : (s.updPort p f).docks = s.docks := by cases p <;> rfl
@[simp] theorem State.updPort_releaseQ (p : Port) (f : PortState → PortState) : (s.updPort p f).releaseQ = s.releaseQ := by cases p <;> rfl
@[simp] theorem State.updPort_grants (p : Port) (f : PortState → PortState) : (s.updPort p f).grants = s.grants := by cases p <;> rfl
@[simp] theorem State.updPort_lineA (p : Port) (f : PortState → PortState) : (s.updPort p f).lineA = s.lineA := by cases p <;> rfl
@[simp] theorem State.updPort_lineB (p : Port) (f : PortState → PortState) : (s.updPort p f).lineB = s.lineB := by cases p <;> rfl
@[simp] theorem State.updPort_free (p : Port) (f : PortState → PortState) : (s.updPort p f).free = s.free := by cases p <;> rfl
@[simp] theorem State.updPort_listN (p : Port) (f : PortState → PortState) : (s.updPort p f).listN = s.listN := by cases p <;> rfl
@[simp] theorem State.updPort_listK (p : Port) (f : PortState → PortState) : (s.updPort p f).listK = s.listK := by cases p <;> rfl
@[simp] theorem State.updPort_levels (p : Port) (f : PortState → PortState) : (s.updPort p f).levels = s.levels := by cases p <;> rfl
@[simp] theorem State.updPort_settings (p : Port) (f : PortState → PortState) : (s.updPort p f).settings = s.settings := by cases p <;> rfl
@[simp] theorem State.updPort_pending (p : Port) (f : PortState → PortState) : (s.updPort p f).pending = s.pending := by cases p <;> rfl
@[simp] theorem State.updPort_dock (p : Port) (f : PortState → PortState) (j : DockIx) : (s.updPort p f).dock j = s.dock j := by cases p <;> rfl
@[simp] theorem State.updPort_line (p : Port) (f : PortState → PortState) (m : Line) : (s.updPort p f).line m = s.line m := by cases p <;> rfl
@[simp] theorem State.updPort_findCred (p : Port) (f : PortState → PortState) (c0 : CredNo) : (s.updPort p f).findCred c0 = s.findCred c0 := by cases p <;> rfl
@[simp] theorem State.updPort_findRide (p : Port) (f : PortState → PortState) (n0 : RideNo) : (s.updPort p f).findRide n0 = s.findRide n0 := by cases p <;> rfl
@[simp] theorem State.updPort_rideOfTag (p : Port) (f : PortState → PortState) (t0 : BikeTag) : (s.updPort p f).rideOfTag t0 = s.rideOfTag t0 := by cases p <;> rfl
@[simp] theorem State.updPort_rideAt (p : Port) (f : PortState → PortState) (j : DockIx) : (s.updPort p f).rideAt j = s.rideAt j := by cases p <;> rfl
@[simp] theorem State.updPort_level (p : Port) (f : PortState → PortState) (k0 : Kind) : (s.updPort p f).level k0 = s.level k0 := by cases p <;> rfl
@[simp] theorem State.updPort_fitted (p : Port) (f : PortState → PortState) (j : DockIx) : (s.updPort p f).fitted j = s.fitted j := by cases p <;> rfl
@[simp] theorem State.updPort_granted (p : Port) (f : PortState → PortState) (j : DockIx) : (s.updPort p f).granted j = s.granted j := by cases p <;> rfl
@[simp] theorem State.updPort_classOf (p : Port) (f : PortState → PortState) (e0 : Cred) : (s.updPort p f).classOf e0 = s.classOf e0 := by cases p <;> rfl
@[simp] theorem State.updPort_postList (p : Port) (f : PortState → PortState) (q : Port) : (s.updPort p f).postList q = s.postList q := by cases p <;> rfl
@[simp] theorem State.updPort_lineRuns (p : Port) (f : PortState → PortState) (j : DockIx) : (s.updPort p f).lineRuns j = s.lineRuns j := by cases p <;> rfl

/-! ## latch -/

@[simp] theorem State.latch_minute (p : Port) (e : Byte) : (s.latch p e).minute = s.minute := by cases p <;> rfl
@[simp] theorem State.latch_second (p : Port) (e : Byte) : (s.latch p e).second = s.second := by cases p <;> rfl
@[simp] theorem State.latch_clockSet (p : Port) (e : Byte) : (s.latch p e).clockSet = s.clockSet := by cases p <;> rfl
@[simp] theorem State.latch_classes (p : Port) (e : Byte) : (s.latch p e).classes = s.classes := by cases p <;> rfl
@[simp] theorem State.latch_creds (p : Port) (e : Byte) : (s.latch p e).creds = s.creds := by cases p <;> rfl
@[simp] theorem State.latch_sweep (p : Port) (e : Byte) : (s.latch p e).sweep = s.sweep := by cases p <;> rfl
@[simp] theorem State.latch_queue (p : Port) (e : Byte) : (s.latch p e).queue = s.queue := by cases p <;> rfl
@[simp] theorem State.latch_holdOff (p : Port) (e : Byte) : (s.latch p e).holdOff = s.holdOff := by cases p <;> rfl
@[simp] theorem State.latch_rides (p : Port) (e : Byte) : (s.latch p e).rides = s.rides := by cases p <;> rfl
@[simp] theorem State.latch_nextRide (p : Port) (e : Byte) : (s.latch p e).nextRide = s.nextRide := by cases p <;> rfl
@[simp] theorem State.latch_docks (p : Port) (e : Byte) : (s.latch p e).docks = s.docks := by cases p <;> rfl
@[simp] theorem State.latch_releaseQ (p : Port) (e : Byte) : (s.latch p e).releaseQ = s.releaseQ := by cases p <;> rfl
@[simp] theorem State.latch_grants (p : Port) (e : Byte) : (s.latch p e).grants = s.grants := by cases p <;> rfl
@[simp] theorem State.latch_lineA (p : Port) (e : Byte) : (s.latch p e).lineA = s.lineA := by cases p <;> rfl
@[simp] theorem State.latch_lineB (p : Port) (e : Byte) : (s.latch p e).lineB = s.lineB := by cases p <;> rfl
@[simp] theorem State.latch_free (p : Port) (e : Byte) : (s.latch p e).free = s.free := by cases p <;> rfl
@[simp] theorem State.latch_listN (p : Port) (e : Byte) : (s.latch p e).listN = s.listN := by cases p <;> rfl
@[simp] theorem State.latch_listK (p : Port) (e : Byte) : (s.latch p e).listK = s.listK := by cases p <;> rfl
@[simp] theorem State.latch_levels (p : Port) (e : Byte) : (s.latch p e).levels = s.levels := by cases p <;> rfl
@[simp] theorem State.latch_settings (p : Port) (e : Byte) : (s.latch p e).settings = s.settings := by cases p <;> rfl
@[simp] theorem State.latch_pending (p : Port) (e : Byte) : (s.latch p e).pending = s.pending := by cases p <;> rfl
@[simp] theorem State.latch_dock (p : Port) (e : Byte) (j : DockIx) : (s.latch p e).dock j = s.dock j := by cases p <;> rfl
@[simp] theorem State.latch_line (p : Port) (e : Byte) (m : Line) : (s.latch p e).line m = s.line m := by cases p <;> rfl
@[simp] theorem State.latch_findCred (p : Port) (e : Byte) (c0 : CredNo) : (s.latch p e).findCred c0 = s.findCred c0 := by cases p <;> rfl
@[simp] theorem State.latch_findRide (p : Port) (e : Byte) (n0 : RideNo) : (s.latch p e).findRide n0 = s.findRide n0 := by cases p <;> rfl
@[simp] theorem State.latch_rideOfTag (p : Port) (e : Byte) (t0 : BikeTag) : (s.latch p e).rideOfTag t0 = s.rideOfTag t0 := by cases p <;> rfl
@[simp] theorem State.latch_rideAt (p : Port) (e : Byte) (j : DockIx) : (s.latch p e).rideAt j = s.rideAt j := by cases p <;> rfl
@[simp] theorem State.latch_level (p : Port) (e : Byte) (k0 : Kind) : (s.latch p e).level k0 = s.level k0 := by cases p <;> rfl
@[simp] theorem State.latch_fitted (p : Port) (e : Byte) (j : DockIx) : (s.latch p e).fitted j = s.fitted j := by cases p <;> rfl
@[simp] theorem State.latch_granted (p : Port) (e : Byte) (j : DockIx) : (s.latch p e).granted j = s.granted j := by cases p <;> rfl
@[simp] theorem State.latch_classOf (p : Port) (e : Byte) (e0 : Cred) : (s.latch p e).classOf e0 = s.classOf e0 := by cases p <;> rfl
@[simp] theorem State.latch_postList (p : Port) (e : Byte) (q : Port) : (s.latch p e).postList q = s.postList q := by cases p <;> rfl
@[simp] theorem State.latch_lineRuns (p : Port) (e : Byte) (j : DockIx) : (s.latch p e).lineRuns j = s.lineRuns j := by cases p <;> rfl

/-! ## endTransaction -/

@[simp] theorem State.endTransaction_minute (p : Port) (o : List Byte) : (s.endTransaction p o).minute = s.minute := by cases p <;> rfl
@[simp] theorem State.endTransaction_second (p : Port) (o : List Byte) : (s.endTransaction p o).second = s.second := by cases p <;> rfl
@[simp] theorem State.endTransaction_clockSet (p : Port) (o : List Byte) : (s.endTransaction p o).clockSet = s.clockSet := by cases p <;> rfl
@[simp] theorem State.endTransaction_classes (p : Port) (o : List Byte) : (s.endTransaction p o).classes = s.classes := by cases p <;> rfl
@[simp] theorem State.endTransaction_creds (p : Port) (o : List Byte) : (s.endTransaction p o).creds = s.creds := by cases p <;> rfl
@[simp] theorem State.endTransaction_sweep (p : Port) (o : List Byte) : (s.endTransaction p o).sweep = s.sweep := by cases p <;> rfl
@[simp] theorem State.endTransaction_queue (p : Port) (o : List Byte) : (s.endTransaction p o).queue = s.queue := by cases p <;> rfl
@[simp] theorem State.endTransaction_holdOff (p : Port) (o : List Byte) : (s.endTransaction p o).holdOff = s.holdOff := by cases p <;> rfl
@[simp] theorem State.endTransaction_rides (p : Port) (o : List Byte) : (s.endTransaction p o).rides = s.rides := by cases p <;> rfl
@[simp] theorem State.endTransaction_nextRide (p : Port) (o : List Byte) : (s.endTransaction p o).nextRide = s.nextRide := by cases p <;> rfl
@[simp] theorem State.endTransaction_docks (p : Port) (o : List Byte) : (s.endTransaction p o).docks = s.docks := by cases p <;> rfl
@[simp] theorem State.endTransaction_releaseQ (p : Port) (o : List Byte) : (s.endTransaction p o).releaseQ = s.releaseQ := by cases p <;> rfl
@[simp] theorem State.endTransaction_grants (p : Port) (o : List Byte) : (s.endTransaction p o).grants = s.grants := by cases p <;> rfl
@[simp] theorem State.endTransaction_lineA (p : Port) (o : List Byte) : (s.endTransaction p o).lineA = s.lineA := by cases p <;> rfl
@[simp] theorem State.endTransaction_lineB (p : Port) (o : List Byte) : (s.endTransaction p o).lineB = s.lineB := by cases p <;> rfl
@[simp] theorem State.endTransaction_free (p : Port) (o : List Byte) : (s.endTransaction p o).free = s.free := by cases p <;> rfl
@[simp] theorem State.endTransaction_listN (p : Port) (o : List Byte) : (s.endTransaction p o).listN = s.listN := by cases p <;> rfl
@[simp] theorem State.endTransaction_listK (p : Port) (o : List Byte) : (s.endTransaction p o).listK = s.listK := by cases p <;> rfl
@[simp] theorem State.endTransaction_levels (p : Port) (o : List Byte) : (s.endTransaction p o).levels = s.levels := by cases p <;> rfl
@[simp] theorem State.endTransaction_settings (p : Port) (o : List Byte) : (s.endTransaction p o).settings = s.settings := by cases p <;> rfl
@[simp] theorem State.endTransaction_pending (p : Port) (o : List Byte) : (s.endTransaction p o).pending = s.pending := by cases p <;> rfl
@[simp] theorem State.endTransaction_dock (p : Port) (o : List Byte) (j : DockIx) : (s.endTransaction p o).dock j = s.dock j := by cases p <;> rfl
@[simp] theorem State.endTransaction_line (p : Port) (o : List Byte) (m : Line) : (s.endTransaction p o).line m = s.line m := by cases p <;> rfl
@[simp] theorem State.endTransaction_findCred (p : Port) (o : List Byte) (c0 : CredNo) : (s.endTransaction p o).findCred c0 = s.findCred c0 := by cases p <;> rfl
@[simp] theorem State.endTransaction_findRide (p : Port) (o : List Byte) (n0 : RideNo) : (s.endTransaction p o).findRide n0 = s.findRide n0 := by cases p <;> rfl
@[simp] theorem State.endTransaction_rideOfTag (p : Port) (o : List Byte) (t0 : BikeTag) : (s.endTransaction p o).rideOfTag t0 = s.rideOfTag t0 := by cases p <;> rfl
@[simp] theorem State.endTransaction_rideAt (p : Port) (o : List Byte) (j : DockIx) : (s.endTransaction p o).rideAt j = s.rideAt j := by cases p <;> rfl
@[simp] theorem State.endTransaction_level (p : Port) (o : List Byte) (k0 : Kind) : (s.endTransaction p o).level k0 = s.level k0 := by cases p <;> rfl
@[simp] theorem State.endTransaction_fitted (p : Port) (o : List Byte) (j : DockIx) : (s.endTransaction p o).fitted j = s.fitted j := by cases p <;> rfl
@[simp] theorem State.endTransaction_granted (p : Port) (o : List Byte) (j : DockIx) : (s.endTransaction p o).granted j = s.granted j := by cases p <;> rfl
@[simp] theorem State.endTransaction_classOf (p : Port) (o : List Byte) (e0 : Cred) : (s.endTransaction p o).classOf e0 = s.classOf e0 := by cases p <;> rfl
@[simp] theorem State.endTransaction_postList (p : Port) (o : List Byte) (q : Port) : (s.endTransaction p o).postList q = s.postList q := by cases p <;> rfl
@[simp] theorem State.endTransaction_lineRuns (p : Port) (o : List Byte) (j : DockIx) : (s.endTransaction p o).lineRuns j = s.lineRuns j := by cases p <;> rfl

/-! ## respond -/

@[simp] theorem State.respond_minute (p : Port) (c : Byte) (n : Nat) (r : Reply) : (s.respond p c n r).minute = s.minute := by cases p <;> rfl
@[simp] theorem State.respond_second (p : Port) (c : Byte) (n : Nat) (r : Reply) : (s.respond p c n r).second = s.second := by cases p <;> rfl
@[simp] theorem State.respond_clockSet (p : Port) (c : Byte) (n : Nat) (r : Reply) : (s.respond p c n r).clockSet = s.clockSet := by cases p <;> rfl
@[simp] theorem State.respond_classes (p : Port) (c : Byte) (n : Nat) (r : Reply) : (s.respond p c n r).classes = s.classes := by cases p <;> rfl
@[simp] theorem State.respond_creds (p : Port) (c : Byte) (n : Nat) (r : Reply) : (s.respond p c n r).creds = s.creds := by cases p <;> rfl
@[simp] theorem State.respond_sweep (p : Port) (c : Byte) (n : Nat) (r : Reply) : (s.respond p c n r).sweep = s.sweep := by cases p <;> rfl
@[simp] theorem State.respond_queue (p : Port) (c : Byte) (n : Nat) (r : Reply) : (s.respond p c n r).queue = s.queue := by cases p <;> rfl
@[simp] theorem State.respond_holdOff (p : Port) (c : Byte) (n : Nat) (r : Reply) : (s.respond p c n r).holdOff = s.holdOff := by cases p <;> rfl
@[simp] theorem State.respond_rides (p : Port) (c : Byte) (n : Nat) (r : Reply) : (s.respond p c n r).rides = s.rides := by cases p <;> rfl
@[simp] theorem State.respond_nextRide (p : Port) (c : Byte) (n : Nat) (r : Reply) : (s.respond p c n r).nextRide = s.nextRide := by cases p <;> rfl
@[simp] theorem State.respond_docks (p : Port) (c : Byte) (n : Nat) (r : Reply) : (s.respond p c n r).docks = s.docks := by cases p <;> rfl
@[simp] theorem State.respond_releaseQ (p : Port) (c : Byte) (n : Nat) (r : Reply) : (s.respond p c n r).releaseQ = s.releaseQ := by cases p <;> rfl
@[simp] theorem State.respond_grants (p : Port) (c : Byte) (n : Nat) (r : Reply) : (s.respond p c n r).grants = s.grants := by cases p <;> rfl
@[simp] theorem State.respond_lineA (p : Port) (c : Byte) (n : Nat) (r : Reply) : (s.respond p c n r).lineA = s.lineA := by cases p <;> rfl
@[simp] theorem State.respond_lineB (p : Port) (c : Byte) (n : Nat) (r : Reply) : (s.respond p c n r).lineB = s.lineB := by cases p <;> rfl
@[simp] theorem State.respond_free (p : Port) (c : Byte) (n : Nat) (r : Reply) : (s.respond p c n r).free = s.free := by cases p <;> rfl
@[simp] theorem State.respond_listN (p : Port) (c : Byte) (n : Nat) (r : Reply) : (s.respond p c n r).listN = s.listN := by cases p <;> rfl
@[simp] theorem State.respond_listK (p : Port) (c : Byte) (n : Nat) (r : Reply) : (s.respond p c n r).listK = s.listK := by cases p <;> rfl
@[simp] theorem State.respond_levels (p : Port) (c : Byte) (n : Nat) (r : Reply) : (s.respond p c n r).levels = s.levels := by cases p <;> rfl
@[simp] theorem State.respond_settings (p : Port) (c : Byte) (n : Nat) (r : Reply) : (s.respond p c n r).settings = s.settings := by cases p <;> rfl
@[simp] theorem State.respond_pending (p : Port) (c : Byte) (n : Nat) (r : Reply) : (s.respond p c n r).pending = s.pending := by cases p <;> rfl
@[simp] theorem State.respond_dock (p : Port) (c : Byte) (n : Nat) (r : Reply) (j : DockIx) : (s.respond p c n r).dock j = s.dock j := by cases p <;> rfl
@[simp] theorem State.respond_line (p : Port) (c : Byte) (n : Nat) (r : Reply) (m : Line) : (s.respond p c n r).line m = s.line m := by cases p <;> rfl
@[simp] theorem State.respond_findCred (p : Port) (c : Byte) (n : Nat) (r : Reply) (c0 : CredNo) : (s.respond p c n r).findCred c0 = s.findCred c0 := by cases p <;> rfl
@[simp] theorem State.respond_findRide (p : Port) (c : Byte) (n : Nat) (r : Reply) (n0 : RideNo) : (s.respond p c n r).findRide n0 = s.findRide n0 := by cases p <;> rfl
@[simp] theorem State.respond_rideOfTag (p : Port) (c : Byte) (n : Nat) (r : Reply) (t0 : BikeTag) : (s.respond p c n r).rideOfTag t0 = s.rideOfTag t0 := by cases p <;> rfl
@[simp] theorem State.respond_rideAt (p : Port) (c : Byte) (n : Nat) (r : Reply) (j : DockIx) : (s.respond p c n r).rideAt j = s.rideAt j := by cases p <;> rfl
@[simp] theorem State.respond_level (p : Port) (c : Byte) (n : Nat) (r : Reply) (k0 : Kind) : (s.respond p c n r).level k0 = s.level k0 := by cases p <;> rfl
@[simp] theorem State.respond_fitted (p : Port) (c : Byte) (n : Nat) (r : Reply) (j : DockIx) : (s.respond p c n r).fitted j = s.fitted j := by cases p <;> rfl
@[simp] theorem State.respond_granted (p : Port) (c : Byte) (n : Nat) (r : Reply) (j : DockIx) : (s.respond p c n r).granted j = s.granted j := by cases p <;> rfl
@[simp] theorem State.respond_classOf (p : Port) (c : Byte) (n : Nat) (r : Reply) (e0 : Cred) : (s.respond p c n r).classOf e0 = s.classOf e0 := by cases p <;> rfl
@[simp] theorem State.respond_postList (p : Port) (c : Byte) (n : Nat) (r : Reply) (q : Port) : (s.respond p c n r).postList q = s.postList q := by cases p <;> rfl
@[simp] theorem State.respond_lineRuns (p : Port) (c : Byte) (n : Nat) (r : Reply) (j : DockIx) : (s.respond p c n r).lineRuns j = s.lineRuns j := by cases p <;> rfl

/-! ## answered -/

@[simp] theorem State.answered_minute (p : Port) (c : Byte) (n : Nat) (st : Status) (f : Fields) : (s.answered p c n st f).minute = s.minute := by cases p <;> rfl
@[simp] theorem State.answered_second (p : Port) (c : Byte) (n : Nat) (st : Status) (f : Fields) : (s.answered p c n st f).second = s.second := by cases p <;> rfl
@[simp] theorem State.answered_clockSet (p : Port) (c : Byte) (n : Nat) (st : Status) (f : Fields) : (s.answered p c n st f).clockSet = s.clockSet := by cases p <;> rfl
@[simp] theorem State.answered_classes (p : Port) (c : Byte) (n : Nat) (st : Status) (f : Fields) : (s.answered p c n st f).classes = s.classes := by cases p <;> rfl
@[simp] theorem State.answered_creds (p : Port) (c : Byte) (n : Nat) (st : Status) (f : Fields) : (s.answered p c n st f).creds = s.creds := by cases p <;> rfl
@[simp] theorem State.answered_sweep (p : Port) (c : Byte) (n : Nat) (st : Status) (f : Fields) : (s.answered p c n st f).sweep = s.sweep := by cases p <;> rfl
@[simp] theorem State.answered_queue (p : Port) (c : Byte) (n : Nat) (st : Status) (f : Fields) : (s.answered p c n st f).queue = s.queue := by cases p <;> rfl
@[simp] theorem State.answered_holdOff (p : Port) (c : Byte) (n : Nat) (st : Status) (f : Fields) : (s.answered p c n st f).holdOff = s.holdOff := by cases p <;> rfl
@[simp] theorem State.answered_rides (p : Port) (c : Byte) (n : Nat) (st : Status) (f : Fields) : (s.answered p c n st f).rides = s.rides := by cases p <;> rfl
@[simp] theorem State.answered_nextRide (p : Port) (c : Byte) (n : Nat) (st : Status) (f : Fields) : (s.answered p c n st f).nextRide = s.nextRide := by cases p <;> rfl
@[simp] theorem State.answered_docks (p : Port) (c : Byte) (n : Nat) (st : Status) (f : Fields) : (s.answered p c n st f).docks = s.docks := by cases p <;> rfl
@[simp] theorem State.answered_releaseQ (p : Port) (c : Byte) (n : Nat) (st : Status) (f : Fields) : (s.answered p c n st f).releaseQ = s.releaseQ := by cases p <;> rfl
@[simp] theorem State.answered_grants (p : Port) (c : Byte) (n : Nat) (st : Status) (f : Fields) : (s.answered p c n st f).grants = s.grants := by cases p <;> rfl
@[simp] theorem State.answered_lineA (p : Port) (c : Byte) (n : Nat) (st : Status) (f : Fields) : (s.answered p c n st f).lineA = s.lineA := by cases p <;> rfl
@[simp] theorem State.answered_lineB (p : Port) (c : Byte) (n : Nat) (st : Status) (f : Fields) : (s.answered p c n st f).lineB = s.lineB := by cases p <;> rfl
@[simp] theorem State.answered_free (p : Port) (c : Byte) (n : Nat) (st : Status) (f : Fields) : (s.answered p c n st f).free = s.free := by cases p <;> rfl
@[simp] theorem State.answered_listN (p : Port) (c : Byte) (n : Nat) (st : Status) (f : Fields) : (s.answered p c n st f).listN = s.listN := by cases p <;> rfl
@[simp] theorem State.answered_listK (p : Port) (c : Byte) (n : Nat) (st : Status) (f : Fields) : (s.answered p c n st f).listK = s.listK := by cases p <;> rfl
@[simp] theorem State.answered_levels (p : Port) (c : Byte) (n : Nat) (st : Status) (f : Fields) : (s.answered p c n st f).levels = s.levels := by cases p <;> rfl
@[simp] theorem State.answered_settings (p : Port) (c : Byte) (n : Nat) (st : Status) (f : Fields) : (s.answered p c n st f).settings = s.settings := by cases p <;> rfl
@[simp] theorem State.answered_pending (p : Port) (c : Byte) (n : Nat) (st : Status) (f : Fields) : (s.answered p c n st f).pending = s.pending := by cases p <;> rfl
@[simp] theorem State.answered_dock (p : Port) (c : Byte) (n : Nat) (st : Status) (f : Fields) (j : DockIx) : (s.answered p c n st f).dock j = s.dock j := by cases p <;> rfl
@[simp] theorem State.answered_line (p : Port) (c : Byte) (n : Nat) (st : Status) (f : Fields) (m : Line) : (s.answered p c n st f).line m = s.line m := by cases p <;> rfl
@[simp] theorem State.answered_findCred (p : Port) (c : Byte) (n : Nat) (st : Status) (f : Fields) (c0 : CredNo) : (s.answered p c n st f).findCred c0 = s.findCred c0 := by cases p <;> rfl
@[simp] theorem State.answered_findRide (p : Port) (c : Byte) (n : Nat) (st : Status) (f : Fields) (n0 : RideNo) : (s.answered p c n st f).findRide n0 = s.findRide n0 := by cases p <;> rfl
@[simp] theorem State.answered_rideOfTag (p : Port) (c : Byte) (n : Nat) (st : Status) (f : Fields) (t0 : BikeTag) : (s.answered p c n st f).rideOfTag t0 = s.rideOfTag t0 := by cases p <;> rfl
@[simp] theorem State.answered_rideAt (p : Port) (c : Byte) (n : Nat) (st : Status) (f : Fields) (j : DockIx) : (s.answered p c n st f).rideAt j = s.rideAt j := by cases p <;> rfl
@[simp] theorem State.answered_level (p : Port) (c : Byte) (n : Nat) (st : Status) (f : Fields) (k0 : Kind) : (s.answered p c n st f).level k0 = s.level k0 := by cases p <;> rfl
@[simp] theorem State.answered_fitted (p : Port) (c : Byte) (n : Nat) (st : Status) (f : Fields) (j : DockIx) : (s.answered p c n st f).fitted j = s.fitted j := by cases p <;> rfl
@[simp] theorem State.answered_granted (p : Port) (c : Byte) (n : Nat) (st : Status) (f : Fields) (j : DockIx) : (s.answered p c n st f).granted j = s.granted j := by cases p <;> rfl
@[simp] theorem State.answered_classOf (p : Port) (c : Byte) (n : Nat) (st : Status) (f : Fields) (e0 : Cred) : (s.answered p c n st f).classOf e0 = s.classOf e0 := by cases p <;> rfl
@[simp] theorem State.answered_postList (p : Port) (c : Byte) (n : Nat) (st : Status) (f : Fields) (q : Port) : (s.answered p c n st f).postList q = s.postList q := by cases p <;> rfl
@[simp] theorem State.answered_lineRuns (p : Port) (c : Byte) (n : Nat) (st : Status) (f : Fields) (j : DockIx) : (s.answered p c n st f).lineRuns j = s.lineRuns j := by cases p <;> rfl

/-! ## putCred -/

@[simp] theorem State.putCred_minute (e : Cred) : (s.putCred e).minute = s.minute := rfl
@[simp] theorem State.putCred_second (e : Cred) : (s.putCred e).second = s.second := rfl
@[simp] theorem State.putCred_clockSet (e : Cred) : (s.putCred e).clockSet = s.clockSet := rfl
@[simp] theorem State.putCred_classes (e : Cred) : (s.putCred e).classes = s.classes := rfl
@[simp] theorem State.putCred_sweep (e : Cred) : (s.putCred e).sweep = s.sweep := rfl
@[simp] theorem State.putCred_queue (e : Cred) : (s.putCred e).queue = s.queue := rfl
@[simp] theorem State.putCred_holdOff (e : Cred) : (s.putCred e).holdOff = s.holdOff := rfl
@[simp] theorem State.putCred_rides (e : Cred) : (s.putCred e).rides = s.rides := rfl
@[simp] theorem State.putCred_nextRide (e : Cred) : (s.putCred e).nextRide = s.nextRide := rfl
@[simp] theorem State.putCred_docks (e : Cred) : (s.putCred e).docks = s.docks := rfl
@[simp] theorem State.putCred_releaseQ (e : Cred) : (s.putCred e).releaseQ = s.releaseQ := rfl
@[simp] theorem State.putCred_grants (e : Cred) : (s.putCred e).grants = s.grants := rfl
@[simp] theorem State.putCred_lineA (e : Cred) : (s.putCred e).lineA = s.lineA := rfl
@[simp] theorem State.putCred_lineB (e : Cred) : (s.putCred e).lineB = s.lineB := rfl
@[simp] theorem State.putCred_free (e : Cred) : (s.putCred e).free = s.free := rfl
@[simp] theorem State.putCred_listN (e : Cred) : (s.putCred e).listN = s.listN := rfl
@[simp] theorem State.putCred_listK (e : Cred) : (s.putCred e).listK = s.listK := rfl
@[simp] theorem State.putCred_levels (e : Cred) : (s.putCred e).levels = s.levels := rfl
@[simp] theorem State.putCred_settings (e : Cred) : (s.putCred e).settings = s.settings := rfl
@[simp] theorem State.putCred_portN (e : Cred) : (s.putCred e).portN = s.portN := rfl
@[simp] theorem State.putCred_portK (e : Cred) : (s.putCred e).portK = s.portK := rfl
@[simp] theorem State.putCred_pending (e : Cred) : (s.putCred e).pending = s.pending := rfl
@[simp] theorem State.putCred_dock (e : Cred) (j : DockIx) : (s.putCred e).dock j = s.dock j := rfl
@[simp] theorem State.putCred_line (e : Cred) (m : Line) : (s.putCred e).line m = s.line m := rfl
@[simp] theorem State.putCred_port (e : Cred) (q : Port) : (s.putCred e).port q = s.port q := rfl
@[simp] theorem State.putCred_findRide (e : Cred) (n0 : RideNo) : (s.putCred e).findRide n0 = s.findRide n0 := rfl
@[simp] theorem State.putCred_rideOfTag (e : Cred) (t0 : BikeTag) : (s.putCred e).rideOfTag t0 = s.rideOfTag t0 := rfl
@[simp] theorem State.putCred_rideAt (e : Cred) (j : DockIx) : (s.putCred e).rideAt j = s.rideAt j := rfl
@[simp] theorem State.putCred_level (e : Cred) (k0 : Kind) : (s.putCred e).level k0 = s.level k0 := rfl
@[simp] theorem State.putCred_fitted (e : Cred) (j : DockIx) : (s.putCred e).fitted j = s.fitted j := rfl
@[simp] theorem State.putCred_granted (e : Cred) (j : DockIx) : (s.putCred e).granted j = s.granted j := rfl
@[simp] theorem State.putCred_classOf (e : Cred) (e0 : Cred) : (s.putCred e).classOf e0 = s.classOf e0 := rfl
@[simp] theorem State.putCred_postList (e : Cred) (q : Port) : (s.putCred e).postList q = s.postList q := rfl
@[simp] theorem State.putCred_lineRuns (e : Cred) (j : DockIx) : (s.putCred e).lineRuns j = s.lineRuns j := rfl

/-! ## dropCred -/

@[simp] theorem State.dropCred_minute (c : CredNo) : (s.dropCred c).minute = s.minute := rfl
@[simp] theorem State.dropCred_second (c : CredNo) : (s.dropCred c).second = s.second := rfl
@[simp] theorem State.dropCred_clockSet (c : CredNo) : (s.dropCred c).clockSet = s.clockSet := rfl
@[simp] theorem State.dropCred_classes (c : CredNo) : (s.dropCred c).classes = s.classes := rfl
@[simp] theorem State.dropCred_sweep (c : CredNo) : (s.dropCred c).sweep = s.sweep := rfl
@[simp] theorem State.dropCred_queue (c : CredNo) : (s.dropCred c).queue = s.queue := rfl
@[simp] theorem State.dropCred_holdOff (c : CredNo) : (s.dropCred c).holdOff = s.holdOff := rfl
@[simp] theorem State.dropCred_rides (c : CredNo) : (s.dropCred c).rides = s.rides := rfl
@[simp] theorem State.dropCred_nextRide (c : CredNo) : (s.dropCred c).nextRide = s.nextRide := rfl
@[simp] theorem State.dropCred_docks (c : CredNo) : (s.dropCred c).docks = s.docks := rfl
@[simp] theorem State.dropCred_releaseQ (c : CredNo) : (s.dropCred c).releaseQ = s.releaseQ := rfl
@[simp] theorem State.dropCred_grants (c : CredNo) : (s.dropCred c).grants = s.grants := rfl
@[simp] theorem State.dropCred_lineA (c : CredNo) : (s.dropCred c).lineA = s.lineA := rfl
@[simp] theorem State.dropCred_lineB (c : CredNo) : (s.dropCred c).lineB = s.lineB := rfl
@[simp] theorem State.dropCred_free (c : CredNo) : (s.dropCred c).free = s.free := rfl
@[simp] theorem State.dropCred_listN (c : CredNo) : (s.dropCred c).listN = s.listN := rfl
@[simp] theorem State.dropCred_listK (c : CredNo) : (s.dropCred c).listK = s.listK := rfl
@[simp] theorem State.dropCred_levels (c : CredNo) : (s.dropCred c).levels = s.levels := rfl
@[simp] theorem State.dropCred_settings (c : CredNo) : (s.dropCred c).settings = s.settings := rfl
@[simp] theorem State.dropCred_portN (c : CredNo) : (s.dropCred c).portN = s.portN := rfl
@[simp] theorem State.dropCred_portK (c : CredNo) : (s.dropCred c).portK = s.portK := rfl
@[simp] theorem State.dropCred_pending (c : CredNo) : (s.dropCred c).pending = s.pending := rfl
@[simp] theorem State.dropCred_dock (c : CredNo) (j : DockIx) : (s.dropCred c).dock j = s.dock j := rfl
@[simp] theorem State.dropCred_line (c : CredNo) (m : Line) : (s.dropCred c).line m = s.line m := rfl
@[simp] theorem State.dropCred_port (c : CredNo) (q : Port) : (s.dropCred c).port q = s.port q := rfl
@[simp] theorem State.dropCred_findRide (c : CredNo) (n0 : RideNo) : (s.dropCred c).findRide n0 = s.findRide n0 := rfl
@[simp] theorem State.dropCred_rideOfTag (c : CredNo) (t0 : BikeTag) : (s.dropCred c).rideOfTag t0 = s.rideOfTag t0 := rfl
@[simp] theorem State.dropCred_rideAt (c : CredNo) (j : DockIx) : (s.dropCred c).rideAt j = s.rideAt j := rfl
@[simp] theorem State.dropCred_level (c : CredNo) (k0 : Kind) : (s.dropCred c).level k0 = s.level k0 := rfl
@[simp] theorem State.dropCred_fitted (c : CredNo) (j : DockIx) : (s.dropCred c).fitted j = s.fitted j := rfl
@[simp] theorem State.dropCred_granted (c : CredNo) (j : DockIx) : (s.dropCred c).granted j = s.granted j := rfl
@[simp] theorem State.dropCred_classOf (c : CredNo) (e0 : Cred) : (s.dropCred c).classOf e0 = s.classOf e0 := rfl
@[simp] theorem State.dropCred_postList (c : CredNo) (q : Port) : (s.dropCred c).postList q = s.postList q := rfl
@[simp] theorem State.dropCred_lineRuns (c : CredNo) (j : DockIx) : (s.dropCred c).lineRuns j = s.lineRuns j := rfl

/-! ## updCred -/

@[simp] theorem State.updCred_minute (c : CredNo) (f : Cred → Cred) : (s.updCred c f).minute = s.minute := rfl
@[simp] theorem State.updCred_second (c : CredNo) (f : Cred → Cred) : (s.updCred c f).second = s.second := rfl
@[simp] theorem State.updCred_clockSet (c : CredNo) (f : Cred → Cred) : (s.updCred c f).clockSet = s.clockSet := rfl
@[simp] theorem State.updCred_classes (c : CredNo) (f : Cred → Cred) : (s.updCred c f).classes = s.classes := rfl
@[simp] theorem State.updCred_sweep (c : CredNo) (f : Cred → Cred) : (s.updCred c f).sweep = s.sweep := rfl
@[simp] theorem State.updCred_queue (c : CredNo) (f : Cred → Cred) : (s.updCred c f).queue = s.queue := rfl
@[simp] theorem State.updCred_holdOff (c : CredNo) (f : Cred → Cred) : (s.updCred c f).holdOff = s.holdOff := rfl
@[simp] theorem State.updCred_rides (c : CredNo) (f : Cred → Cred) : (s.updCred c f).rides = s.rides := rfl
@[simp] theorem State.updCred_nextRide (c : CredNo) (f : Cred → Cred) : (s.updCred c f).nextRide = s.nextRide := rfl
@[simp] theorem State.updCred_docks (c : CredNo) (f : Cred → Cred) : (s.updCred c f).docks = s.docks := rfl
@[simp] theorem State.updCred_releaseQ (c : CredNo) (f : Cred → Cred) : (s.updCred c f).releaseQ = s.releaseQ := rfl
@[simp] theorem State.updCred_grants (c : CredNo) (f : Cred → Cred) : (s.updCred c f).grants = s.grants := rfl
@[simp] theorem State.updCred_lineA (c : CredNo) (f : Cred → Cred) : (s.updCred c f).lineA = s.lineA := rfl
@[simp] theorem State.updCred_lineB (c : CredNo) (f : Cred → Cred) : (s.updCred c f).lineB = s.lineB := rfl
@[simp] theorem State.updCred_free (c : CredNo) (f : Cred → Cred) : (s.updCred c f).free = s.free := rfl
@[simp] theorem State.updCred_listN (c : CredNo) (f : Cred → Cred) : (s.updCred c f).listN = s.listN := rfl
@[simp] theorem State.updCred_listK (c : CredNo) (f : Cred → Cred) : (s.updCred c f).listK = s.listK := rfl
@[simp] theorem State.updCred_levels (c : CredNo) (f : Cred → Cred) : (s.updCred c f).levels = s.levels := rfl
@[simp] theorem State.updCred_settings (c : CredNo) (f : Cred → Cred) : (s.updCred c f).settings = s.settings := rfl
@[simp] theorem State.updCred_portN (c : CredNo) (f : Cred → Cred) : (s.updCred c f).portN = s.portN := rfl
@[simp] theorem State.updCred_portK (c : CredNo) (f : Cred → Cred) : (s.updCred c f).portK = s.portK := rfl
@[simp] theorem State.updCred_pending (c : CredNo) (f : Cred → Cred) : (s.updCred c f).pending = s.pending := rfl
@[simp] theorem State.updCred_dock (c : CredNo) (f : Cred → Cred) (j : DockIx) : (s.updCred c f).dock j = s.dock j := rfl
@[simp] theorem State.updCred_line (c : CredNo) (f : Cred → Cred) (m : Line) : (s.updCred c f).line m = s.line m := rfl
@[simp] theorem State.updCred_port (c : CredNo) (f : Cred → Cred) (q : Port) : (s.updCred c f).port q = s.port q := rfl
@[simp] theorem State.updCred_findRide (c : CredNo) (f : Cred → Cred) (n0 : RideNo) : (s.updCred c f).findRide n0 = s.findRide n0 := rfl
@[simp] theorem State.updCred_rideOfTag (c : CredNo) (f : Cred → Cred) (t0 : BikeTag) : (s.updCred c f).rideOfTag t0 = s.rideOfTag t0 := rfl
@[simp] theorem State.updCred_rideAt (c : CredNo) (f : Cred → Cred) (j : DockIx) : (s.updCred c f).rideAt j = s.rideAt j := rfl
@[simp] theorem State.updCred_level (c : CredNo) (f : Cred → Cred) (k0 : Kind) : (s.updCred c f).level k0 = s.level k0 := rfl
@[simp] theorem State.updCred_fitted (c : CredNo) (f : Cred → Cred) (j : DockIx) : (s.updCred c f).fitted j = s.fitted j := rfl
@[simp] theorem State.updCred_granted (c : CredNo) (f : Cred → Cred) (j : DockIx) : (s.updCred c f).granted j = s.granted j := rfl
@[simp] theorem State.updCred_classOf (c : CredNo) (f : Cred → Cred) (e0 : Cred) : (s.updCred c f).classOf e0 = s.classOf e0 := rfl
@[simp] theorem State.updCred_postList (c : CredNo) (f : Cred → Cred) (q : Port) : (s.updCred c f).postList q = s.postList q := rfl
@[simp] theorem State.updCred_lineRuns (c : CredNo) (f : Cred → Cred) (j : DockIx) : (s.updCred c f).lineRuns j = s.lineRuns j := rfl

/-! ## putRide -/

@[simp] theorem State.putRide_minute (r : Ride) : (s.putRide r).minute = s.minute := rfl
@[simp] theorem State.putRide_second (r : Ride) : (s.putRide r).second = s.second := rfl
@[simp] theorem State.putRide_clockSet (r : Ride) : (s.putRide r).clockSet = s.clockSet := rfl
@[simp] theorem State.putRide_classes (r : Ride) : (s.putRide r).classes = s.classes := rfl
@[simp] theorem State.putRide_creds (r : Ride) : (s.putRide r).creds = s.creds := rfl
@[simp] theorem State.putRide_sweep (r : Ride) : (s.putRide r).sweep = s.sweep := rfl
@[simp] theorem State.putRide_queue (r : Ride) : (s.putRide r).queue = s.queue := rfl
@[simp] theorem State.putRide_holdOff (r : Ride) : (s.putRide r).holdOff = s.holdOff := rfl
@[simp] theorem State.putRide_nextRide (r : Ride) : (s.putRide r).nextRide = s.nextRide := rfl
@[simp] theorem State.putRide_docks (r : Ride) : (s.putRide r).docks = s.docks := rfl
@[simp] theorem State.putRide_releaseQ (r : Ride) : (s.putRide r).releaseQ = s.releaseQ := rfl
@[simp] theorem State.putRide_grants (r : Ride) : (s.putRide r).grants = s.grants := rfl
@[simp] theorem State.putRide_lineA (r : Ride) : (s.putRide r).lineA = s.lineA := rfl
@[simp] theorem State.putRide_lineB (r : Ride) : (s.putRide r).lineB = s.lineB := rfl
@[simp] theorem State.putRide_free (r : Ride) : (s.putRide r).free = s.free := rfl
@[simp] theorem State.putRide_listN (r : Ride) : (s.putRide r).listN = s.listN := rfl
@[simp] theorem State.putRide_listK (r : Ride) : (s.putRide r).listK = s.listK := rfl
@[simp] theorem State.putRide_levels (r : Ride) : (s.putRide r).levels = s.levels := rfl
@[simp] theorem State.putRide_settings (r : Ride) : (s.putRide r).settings = s.settings := rfl
@[simp] theorem State.putRide_portN (r : Ride) : (s.putRide r).portN = s.portN := rfl
@[simp] theorem State.putRide_portK (r : Ride) : (s.putRide r).portK = s.portK := rfl
@[simp] theorem State.putRide_pending (r : Ride) : (s.putRide r).pending = s.pending := rfl
@[simp] theorem State.putRide_dock (r : Ride) (j : DockIx) : (s.putRide r).dock j = s.dock j := rfl
@[simp] theorem State.putRide_line (r : Ride) (m : Line) : (s.putRide r).line m = s.line m := rfl
@[simp] theorem State.putRide_port (r : Ride) (q : Port) : (s.putRide r).port q = s.port q := rfl
@[simp] theorem State.putRide_findCred (r : Ride) (c0 : CredNo) : (s.putRide r).findCred c0 = s.findCred c0 := rfl
@[simp] theorem State.putRide_level (r : Ride) (k0 : Kind) : (s.putRide r).level k0 = s.level k0 := rfl
@[simp] theorem State.putRide_fitted (r : Ride) (j : DockIx) : (s.putRide r).fitted j = s.fitted j := rfl
@[simp] theorem State.putRide_granted (r : Ride) (j : DockIx) : (s.putRide r).granted j = s.granted j := rfl
@[simp] theorem State.putRide_classOf (r : Ride) (e0 : Cred) : (s.putRide r).classOf e0 = s.classOf e0 := rfl
@[simp] theorem State.putRide_postList (r : Ride) (q : Port) : (s.putRide r).postList q = s.postList q := rfl
@[simp] theorem State.putRide_lineRuns (r : Ride) (j : DockIx) : (s.putRide r).lineRuns j = s.lineRuns j := rfl

/-! ## dropRide -/

@[simp] theorem State.dropRide_minute (n : RideNo) : (s.dropRide n).minute = s.minute := rfl
@[simp] theorem State.dropRide_second (n : RideNo) : (s.dropRide n).second = s.second := rfl
@[simp] theorem State.dropRide_clockSet (n : RideNo) : (s.dropRide n).clockSet = s.clockSet := rfl
@[simp] theorem State.dropRide_classes (n : RideNo) : (s.dropRide n).classes = s.classes := rfl
@[simp] theorem State.dropRide_creds (n : RideNo) : (s.dropRide n).creds = s.creds := rfl
@[simp] theorem State.dropRide_sweep (n : RideNo) : (s.dropRide n).sweep = s.sweep := rfl
@[simp] theorem State.dropRide_queue (n : RideNo) : (s.dropRide n).queue = s.queue := rfl
@[simp] theorem State.dropRide_holdOff (n : RideNo) : (s.dropRide n).holdOff = s.holdOff := rfl
@[simp] theorem State.dropRide_nextRide (n : RideNo) : (s.dropRide n).nextRide = s.nextRide := rfl
@[simp] theorem State.dropRide_docks (n : RideNo) : (s.dropRide n).docks = s.docks := rfl
@[simp] theorem State.dropRide_releaseQ (n : RideNo) : (s.dropRide n).releaseQ = s.releaseQ := rfl
@[simp] theorem State.dropRide_grants (n : RideNo) : (s.dropRide n).grants = s.grants := rfl
@[simp] theorem State.dropRide_lineA (n : RideNo) : (s.dropRide n).lineA = s.lineA := rfl
@[simp] theorem State.dropRide_lineB (n : RideNo) : (s.dropRide n).lineB = s.lineB := rfl
@[simp] theorem State.dropRide_free (n : RideNo) : (s.dropRide n).free = s.free := rfl
@[simp] theorem State.dropRide_listN (n : RideNo) : (s.dropRide n).listN = s.listN := rfl
@[simp] theorem State.dropRide_listK (n : RideNo) : (s.dropRide n).listK = s.listK := rfl
@[simp] theorem State.dropRide_levels (n : RideNo) : (s.dropRide n).levels = s.levels := rfl
@[simp] theorem State.dropRide_settings (n : RideNo) : (s.dropRide n).settings = s.settings := rfl
@[simp] theorem State.dropRide_portN (n : RideNo) : (s.dropRide n).portN = s.portN := rfl
@[simp] theorem State.dropRide_portK (n : RideNo) : (s.dropRide n).portK = s.portK := rfl
@[simp] theorem State.dropRide_pending (n : RideNo) : (s.dropRide n).pending = s.pending := rfl
@[simp] theorem State.dropRide_dock (n : RideNo) (j : DockIx) : (s.dropRide n).dock j = s.dock j := rfl
@[simp] theorem State.dropRide_line (n : RideNo) (m : Line) : (s.dropRide n).line m = s.line m := rfl
@[simp] theorem State.dropRide_port (n : RideNo) (q : Port) : (s.dropRide n).port q = s.port q := rfl
@[simp] theorem State.dropRide_findCred (n : RideNo) (c0 : CredNo) : (s.dropRide n).findCred c0 = s.findCred c0 := rfl
@[simp] theorem State.dropRide_level (n : RideNo) (k0 : Kind) : (s.dropRide n).level k0 = s.level k0 := rfl
@[simp] theorem State.dropRide_fitted (n : RideNo) (j : DockIx) : (s.dropRide n).fitted j = s.fitted j := rfl
@[simp] theorem State.dropRide_granted (n : RideNo) (j : DockIx) : (s.dropRide n).granted j = s.granted j := rfl
@[simp] theorem State.dropRide_classOf (n : RideNo) (e0 : Cred) : (s.dropRide n).classOf e0 = s.classOf e0 := rfl
@[simp] theorem State.dropRide_postList (n : RideNo) (q : Port) : (s.dropRide n).postList q = s.postList q := rfl
@[simp] theorem State.dropRide_lineRuns (n : RideNo) (j : DockIx) : (s.dropRide n).lineRuns j = s.lineRuns j := rfl

/-! ## updRide -/

@[simp] theorem State.updRide_minute (n : RideNo) (f : Ride → Ride) : (s.updRide n f).minute = s.minute := rfl
@[simp] theorem State.updRide_second (n : RideNo) (f : Ride → Ride) : (s.updRide n f).second = s.second := rfl
@[simp] theorem State.updRide_clockSet (n : RideNo) (f : Ride → Ride) : (s.updRide n f).clockSet = s.clockSet := rfl
@[simp] theorem State.updRide_classes (n : RideNo) (f : Ride → Ride) : (s.updRide n f).classes = s.classes := rfl
@[simp] theorem State.updRide_creds (n : RideNo) (f : Ride → Ride) : (s.updRide n f).creds = s.creds := rfl
@[simp] theorem State.updRide_sweep (n : RideNo) (f : Ride → Ride) : (s.updRide n f).sweep = s.sweep := rfl
@[simp] theorem State.updRide_queue (n : RideNo) (f : Ride → Ride) : (s.updRide n f).queue = s.queue := rfl
@[simp] theorem State.updRide_holdOff (n : RideNo) (f : Ride → Ride) : (s.updRide n f).holdOff = s.holdOff := rfl
@[simp] theorem State.updRide_nextRide (n : RideNo) (f : Ride → Ride) : (s.updRide n f).nextRide = s.nextRide := rfl
@[simp] theorem State.updRide_docks (n : RideNo) (f : Ride → Ride) : (s.updRide n f).docks = s.docks := rfl
@[simp] theorem State.updRide_releaseQ (n : RideNo) (f : Ride → Ride) : (s.updRide n f).releaseQ = s.releaseQ := rfl
@[simp] theorem State.updRide_grants (n : RideNo) (f : Ride → Ride) : (s.updRide n f).grants = s.grants := rfl
@[simp] theorem State.updRide_lineA (n : RideNo) (f : Ride → Ride) : (s.updRide n f).lineA = s.lineA := rfl
@[simp] theorem State.updRide_lineB (n : RideNo) (f : Ride → Ride) : (s.updRide n f).lineB = s.lineB := rfl
@[simp] theorem State.updRide_free (n : RideNo) (f : Ride → Ride) : (s.updRide n f).free = s.free := rfl
@[simp] theorem State.updRide_listN (n : RideNo) (f : Ride → Ride) : (s.updRide n f).listN = s.listN := rfl
@[simp] theorem State.updRide_listK (n : RideNo) (f : Ride → Ride) : (s.updRide n f).listK = s.listK := rfl
@[simp] theorem State.updRide_levels (n : RideNo) (f : Ride → Ride) : (s.updRide n f).levels = s.levels := rfl
@[simp] theorem State.updRide_settings (n : RideNo) (f : Ride → Ride) : (s.updRide n f).settings = s.settings := rfl
@[simp] theorem State.updRide_portN (n : RideNo) (f : Ride → Ride) : (s.updRide n f).portN = s.portN := rfl
@[simp] theorem State.updRide_portK (n : RideNo) (f : Ride → Ride) : (s.updRide n f).portK = s.portK := rfl
@[simp] theorem State.updRide_pending (n : RideNo) (f : Ride → Ride) : (s.updRide n f).pending = s.pending := rfl
@[simp] theorem State.updRide_dock (n : RideNo) (f : Ride → Ride) (j : DockIx) : (s.updRide n f).dock j = s.dock j := rfl
@[simp] theorem State.updRide_line (n : RideNo) (f : Ride → Ride) (m : Line) : (s.updRide n f).line m = s.line m := rfl
@[simp] theorem State.updRide_port (n : RideNo) (f : Ride → Ride) (q : Port) : (s.updRide n f).port q = s.port q := rfl
@[simp] theorem State.updRide_findCred (n : RideNo) (f : Ride → Ride) (c0 : CredNo) : (s.updRide n f).findCred c0 = s.findCred c0 := rfl
@[simp] theorem State.updRide_level (n : RideNo) (f : Ride → Ride) (k0 : Kind) : (s.updRide n f).level k0 = s.level k0 := rfl
@[simp] theorem State.updRide_fitted (n : RideNo) (f : Ride → Ride) (j : DockIx) : (s.updRide n f).fitted j = s.fitted j := rfl
@[simp] theorem State.updRide_granted (n : RideNo) (f : Ride → Ride) (j : DockIx) : (s.updRide n f).granted j = s.granted j := rfl
@[simp] theorem State.updRide_classOf (n : RideNo) (f : Ride → Ride) (e0 : Cred) : (s.updRide n f).classOf e0 = s.classOf e0 := rfl
@[simp] theorem State.updRide_postList (n : RideNo) (f : Ride → Ride) (q : Port) : (s.updRide n f).postList q = s.postList q := rfl
@[simp] theorem State.updRide_lineRuns (n : RideNo) (f : Ride → Ride) (j : DockIx) : (s.updRide n f).lineRuns j = s.lineRuns j := rfl

/-! ## sendOpen -/

@[simp] theorem State.sendOpen_minute (d : DockIx) : (s.sendOpen d).minute = s.minute := rfl
@[simp] theorem State.sendOpen_second (d : DockIx) : (s.sendOpen d).second = s.second := rfl
@[simp] theorem State.sendOpen_clockSet (d : DockIx) : (s.sendOpen d).clockSet = s.clockSet := rfl
@[simp] theorem State.sendOpen_classes (d : DockIx) : (s.sendOpen d).classes = s.classes := rfl
@[simp] theorem State.sendOpen_creds (d : DockIx) : (s.sendOpen d).creds = s.creds := rfl
@[simp] theorem State.sendOpen_sweep (d : DockIx) : (s.sendOpen d).sweep = s.sweep := rfl
@[simp] theorem State.sendOpen_queue (d : DockIx) : (s.sendOpen d).queue = s.queue := rfl
@[simp] theorem State.sendOpen_holdOff (d : DockIx) : (s.sendOpen d).holdOff = s.holdOff := rfl
@[simp] theorem State.sendOpen_nextRide (d : DockIx) : (s.sendOpen d).nextRide = s.nextRide := rfl
@[simp] theorem State.sendOpen_docks (d : DockIx) : (s.sendOpen d).docks = s.docks := rfl
@[simp] theorem State.sendOpen_releaseQ (d : DockIx) : (s.sendOpen d).releaseQ = s.releaseQ := rfl
@[simp] theorem State.sendOpen_grants (d : DockIx) : (s.sendOpen d).grants = s.grants := rfl
@[simp] theorem State.sendOpen_lineA (d : DockIx) : (s.sendOpen d).lineA = s.lineA := rfl
@[simp] theorem State.sendOpen_lineB (d : DockIx) : (s.sendOpen d).lineB = s.lineB := rfl
@[simp] theorem State.sendOpen_free (d : DockIx) : (s.sendOpen d).free = s.free := rfl
@[simp] theorem State.sendOpen_listN (d : DockIx) : (s.sendOpen d).listN = s.listN := rfl
@[simp] theorem State.sendOpen_listK (d : DockIx) : (s.sendOpen d).listK = s.listK := rfl
@[simp] theorem State.sendOpen_levels (d : DockIx) : (s.sendOpen d).levels = s.levels := rfl
@[simp] theorem State.sendOpen_settings (d : DockIx) : (s.sendOpen d).settings = s.settings := rfl
@[simp] theorem State.sendOpen_portN (d : DockIx) : (s.sendOpen d).portN = s.portN := rfl
@[simp] theorem State.sendOpen_portK (d : DockIx) : (s.sendOpen d).portK = s.portK := rfl
@[simp] theorem State.sendOpen_pending (d : DockIx) : (s.sendOpen d).pending = s.pending := rfl
@[simp] theorem State.sendOpen_dock (d : DockIx) (j : DockIx) : (s.sendOpen d).dock j = s.dock j := rfl
@[simp] theorem State.sendOpen_line (d : DockIx) (m : Line) : (s.sendOpen d).line m = s.line m := rfl
@[simp] theorem State.sendOpen_port (d : DockIx) (q : Port) : (s.sendOpen d).port q = s.port q := rfl
@[simp] theorem State.sendOpen_findCred (d : DockIx) (c0 : CredNo) : (s.sendOpen d).findCred c0 = s.findCred c0 := rfl
@[simp] theorem State.sendOpen_level (d : DockIx) (k0 : Kind) : (s.sendOpen d).level k0 = s.level k0 := rfl
@[simp] theorem State.sendOpen_fitted (d : DockIx) (j : DockIx) : (s.sendOpen d).fitted j = s.fitted j := rfl
@[simp] theorem State.sendOpen_granted (d : DockIx) (j : DockIx) : (s.sendOpen d).granted j = s.granted j := rfl
@[simp] theorem State.sendOpen_classOf (d : DockIx) (e0 : Cred) : (s.sendOpen d).classOf e0 = s.classOf e0 := rfl
@[simp] theorem State.sendOpen_postList (d : DockIx) (q : Port) : (s.sendOpen d).postList q = s.postList q := rfl
@[simp] theorem State.sendOpen_lineRuns (d : DockIx) (j : DockIx) : (s.sendOpen d).lineRuns j = s.lineRuns j := rfl

/-! ## leaveQueue -/

@[simp] theorem State.leaveQueue_minute (d : DockIx) : (s.leaveQueue d).minute = s.minute := rfl
@[simp] theorem State.leaveQueue_second (d : DockIx) : (s.leaveQueue d).second = s.second := rfl
@[simp] theorem State.leaveQueue_clockSet (d : DockIx) : (s.leaveQueue d).clockSet = s.clockSet := rfl
@[simp] theorem State.leaveQueue_classes (d : DockIx) : (s.leaveQueue d).classes = s.classes := rfl
@[simp] theorem State.leaveQueue_creds (d : DockIx) : (s.leaveQueue d).creds = s.creds := rfl
@[simp] theorem State.leaveQueue_sweep (d : DockIx) : (s.leaveQueue d).sweep = s.sweep := rfl
@[simp] theorem State.leaveQueue_queue (d : DockIx) : (s.leaveQueue d).queue = s.queue := rfl
@[simp] theorem State.leaveQueue_holdOff (d : DockIx) : (s.leaveQueue d).holdOff = s.holdOff := rfl
@[simp] theorem State.leaveQueue_rides (d : DockIx) : (s.leaveQueue d).rides = s.rides := rfl
@[simp] theorem State.leaveQueue_nextRide (d : DockIx) : (s.leaveQueue d).nextRide = s.nextRide := rfl
@[simp] theorem State.leaveQueue_docks (d : DockIx) : (s.leaveQueue d).docks = s.docks := rfl
@[simp] theorem State.leaveQueue_grants (d : DockIx) : (s.leaveQueue d).grants = s.grants := rfl
@[simp] theorem State.leaveQueue_lineA (d : DockIx) : (s.leaveQueue d).lineA = s.lineA := rfl
@[simp] theorem State.leaveQueue_lineB (d : DockIx) : (s.leaveQueue d).lineB = s.lineB := rfl
@[simp] theorem State.leaveQueue_free (d : DockIx) : (s.leaveQueue d).free = s.free := rfl
@[simp] theorem State.leaveQueue_listN (d : DockIx) : (s.leaveQueue d).listN = s.listN := rfl
@[simp] theorem State.leaveQueue_listK (d : DockIx) : (s.leaveQueue d).listK = s.listK := rfl
@[simp] theorem State.leaveQueue_levels (d : DockIx) : (s.leaveQueue d).levels = s.levels := rfl
@[simp] theorem State.leaveQueue_settings (d : DockIx) : (s.leaveQueue d).settings = s.settings := rfl
@[simp] theorem State.leaveQueue_portN (d : DockIx) : (s.leaveQueue d).portN = s.portN := rfl
@[simp] theorem State.leaveQueue_portK (d : DockIx) : (s.leaveQueue d).portK = s.portK := rfl
@[simp] theorem State.leaveQueue_pending (d : DockIx) : (s.leaveQueue d).pending = s.pending := rfl
@[simp] theorem State.leaveQueue_dock (d : DockIx) (j : DockIx) : (s.leaveQueue d).dock j = s.dock j := rfl
@[simp] theorem State.leaveQueue_line (d : DockIx) (m : Line) : (s.leaveQueue d).line m = s.line m := rfl
@[simp] theorem State.leaveQueue_port (d : DockIx) (q : Port) : (s.leaveQueue d).port q = s.port q := rfl
@[simp] theorem State.leaveQueue_findCred (d : DockIx) (c0 : CredNo) : (s.leaveQueue d).findCred c0 = s.findCred c0 := rfl
@[simp] theorem State.leaveQueue_findRide (d : DockIx) (n0 : RideNo) : (s.leaveQueue d).findRide n0 = s.findRide n0 := rfl
@[simp] theorem State.leaveQueue_rideOfTag (d : DockIx) (t0 : BikeTag) : (s.leaveQueue d).rideOfTag t0 = s.rideOfTag t0 := rfl
@[simp] theorem State.leaveQueue_rideAt (d : DockIx) (j : DockIx) : (s.leaveQueue d).rideAt j = s.rideAt j := rfl
@[simp] theorem State.leaveQueue_level (d : DockIx) (k0 : Kind) : (s.leaveQueue d).level k0 = s.level k0 := rfl
@[simp] theorem State.leaveQueue_fitted (d : DockIx) (j : DockIx) : (s.leaveQueue d).fitted j = s.fitted j := rfl
@[simp] theorem State.leaveQueue_granted (d : DockIx) (j : DockIx) : (s.leaveQueue d).granted j = s.granted j := rfl
@[simp] theorem State.leaveQueue_classOf (d : DockIx) (e0 : Cred) : (s.leaveQueue d).classOf e0 = s.classOf e0 := rfl
@[simp] theorem State.leaveQueue_postList (d : DockIx) (q : Port) : (s.leaveQueue d).postList q = s.postList q := rfl
@[simp] theorem State.leaveQueue_lineRuns (d : DockIx) (j : DockIx) : (s.leaveQueue d).lineRuns j = s.lineRuns j := rfl

/-! ## freeSlot -/

@[simp] theorem State.freeSlot_minute (n : Nat) : (s.freeSlot n).minute = s.minute := rfl
@[simp] theorem State.freeSlot_second (n : Nat) : (s.freeSlot n).second = s.second := rfl
@[simp] theorem State.freeSlot_clockSet (n : Nat) : (s.freeSlot n).clockSet = s.clockSet := rfl
@[simp] theorem State.freeSlot_classes (n : Nat) : (s.freeSlot n).classes = s.classes := rfl
@[simp] theorem State.freeSlot_creds (n : Nat) : (s.freeSlot n).creds = s.creds := rfl
@[simp] theorem State.freeSlot_sweep (n : Nat) : (s.freeSlot n).sweep = s.sweep := rfl
@[simp] theorem State.freeSlot_queue (n : Nat) : (s.freeSlot n).queue = s.queue := rfl
@[simp] theorem State.freeSlot_holdOff (n : Nat) : (s.freeSlot n).holdOff = s.holdOff := rfl
@[simp] theorem State.freeSlot_rides (n : Nat) : (s.freeSlot n).rides = s.rides := rfl
@[simp] theorem State.freeSlot_nextRide (n : Nat) : (s.freeSlot n).nextRide = s.nextRide := rfl
@[simp] theorem State.freeSlot_docks (n : Nat) : (s.freeSlot n).docks = s.docks := rfl
@[simp] theorem State.freeSlot_releaseQ (n : Nat) : (s.freeSlot n).releaseQ = s.releaseQ := rfl
@[simp] theorem State.freeSlot_grants (n : Nat) : (s.freeSlot n).grants = s.grants := rfl
@[simp] theorem State.freeSlot_lineA (n : Nat) : (s.freeSlot n).lineA = s.lineA := rfl
@[simp] theorem State.freeSlot_lineB (n : Nat) : (s.freeSlot n).lineB = s.lineB := rfl
@[simp] theorem State.freeSlot_listN (n : Nat) : (s.freeSlot n).listN = s.listN := rfl
@[simp] theorem State.freeSlot_listK (n : Nat) : (s.freeSlot n).listK = s.listK := rfl
@[simp] theorem State.freeSlot_levels (n : Nat) : (s.freeSlot n).levels = s.levels := rfl
@[simp] theorem State.freeSlot_settings (n : Nat) : (s.freeSlot n).settings = s.settings := rfl
@[simp] theorem State.freeSlot_portN (n : Nat) : (s.freeSlot n).portN = s.portN := rfl
@[simp] theorem State.freeSlot_portK (n : Nat) : (s.freeSlot n).portK = s.portK := rfl
@[simp] theorem State.freeSlot_pending (n : Nat) : (s.freeSlot n).pending = s.pending := rfl
@[simp] theorem State.freeSlot_dock (n : Nat) (j : DockIx) : (s.freeSlot n).dock j = s.dock j := rfl
@[simp] theorem State.freeSlot_line (n : Nat) (m : Line) : (s.freeSlot n).line m = s.line m := rfl
@[simp] theorem State.freeSlot_port (n : Nat) (q : Port) : (s.freeSlot n).port q = s.port q := rfl
@[simp] theorem State.freeSlot_findCred (n : Nat) (c0 : CredNo) : (s.freeSlot n).findCred c0 = s.findCred c0 := rfl
@[simp] theorem State.freeSlot_findRide (n : Nat) (n0 : RideNo) : (s.freeSlot n).findRide n0 = s.findRide n0 := rfl
@[simp] theorem State.freeSlot_rideOfTag (n : Nat) (t0 : BikeTag) : (s.freeSlot n).rideOfTag t0 = s.rideOfTag t0 := rfl
@[simp] theorem State.freeSlot_rideAt (n : Nat) (j : DockIx) : (s.freeSlot n).rideAt j = s.rideAt j := rfl
@[simp] theorem State.freeSlot_level (n : Nat) (k0 : Kind) : (s.freeSlot n).level k0 = s.level k0 := rfl
@[simp] theorem State.freeSlot_fitted (n : Nat) (j : DockIx) : (s.freeSlot n).fitted j = s.fitted j := rfl
@[simp] theorem State.freeSlot_granted (n : Nat) (j : DockIx) : (s.freeSlot n).granted j = s.granted j := rfl
@[simp] theorem State.freeSlot_classOf (n : Nat) (e0 : Cred) : (s.freeSlot n).classOf e0 = s.classOf e0 := rfl
@[simp] theorem State.freeSlot_postList (n : Nat) (q : Port) : (s.freeSlot n).postList q = s.postList q := rfl
@[simp] theorem State.freeSlot_lineRuns (n : Nat) (j : DockIx) : (s.freeSlot n).lineRuns j = s.lineRuns j := rfl

/-! ## postN -/

@[simp] theorem State.postN_minute (n : Nat) (k : Kind) (b : Body) : (s.postN n k b).minute = s.minute := rfl
@[simp] theorem State.postN_second (n : Nat) (k : Kind) (b : Body) : (s.postN n k b).second = s.second := rfl
@[simp] theorem State.postN_clockSet (n : Nat) (k : Kind) (b : Body) : (s.postN n k b).clockSet = s.clockSet := rfl
@[simp] theorem State.postN_classes (n : Nat) (k : Kind) (b : Body) : (s.postN n k b).classes = s.classes := rfl
@[simp] theorem State.postN_creds (n : Nat) (k : Kind) (b : Body) : (s.postN n k b).creds = s.creds := rfl
@[simp] theorem State.postN_sweep (n : Nat) (k : Kind) (b : Body) : (s.postN n k b).sweep = s.sweep := rfl
@[simp] theorem State.postN_queue (n : Nat) (k : Kind) (b : Body) : (s.postN n k b).queue = s.queue := rfl
@[simp] theorem State.postN_holdOff (n : Nat) (k : Kind) (b : Body) : (s.postN n k b).holdOff = s.holdOff := rfl
@[simp] theorem State.postN_rides (n : Nat) (k : Kind) (b : Body) : (s.postN n k b).rides = s.rides := rfl
@[simp] theorem State.postN_nextRide (n : Nat) (k : Kind) (b : Body) : (s.postN n k b).nextRide = s.nextRide := rfl
@[simp] theorem State.postN_docks (n : Nat) (k : Kind) (b : Body) : (s.postN n k b).docks = s.docks := rfl
@[simp] theorem State.postN_releaseQ (n : Nat) (k : Kind) (b : Body) : (s.postN n k b).releaseQ = s.releaseQ := rfl
@[simp] theorem State.postN_grants (n : Nat) (k : Kind) (b : Body) : (s.postN n k b).grants = s.grants := rfl
@[simp] theorem State.postN_lineA (n : Nat) (k : Kind) (b : Body) : (s.postN n k b).lineA = s.lineA := rfl
@[simp] theorem State.postN_lineB (n : Nat) (k : Kind) (b : Body) : (s.postN n k b).lineB = s.lineB := rfl
@[simp] theorem State.postN_free (n : Nat) (k : Kind) (b : Body) : (s.postN n k b).free = s.free := rfl
@[simp] theorem State.postN_listK (n : Nat) (k : Kind) (b : Body) : (s.postN n k b).listK = s.listK := rfl
@[simp] theorem State.postN_levels (n : Nat) (k : Kind) (b : Body) : (s.postN n k b).levels = s.levels := rfl
@[simp] theorem State.postN_settings (n : Nat) (k : Kind) (b : Body) : (s.postN n k b).settings = s.settings := rfl
@[simp] theorem State.postN_portN (n : Nat) (k : Kind) (b : Body) : (s.postN n k b).portN = s.portN := rfl
@[simp] theorem State.postN_portK (n : Nat) (k : Kind) (b : Body) : (s.postN n k b).portK = s.portK := rfl
@[simp] theorem State.postN_pending (n : Nat) (k : Kind) (b : Body) : (s.postN n k b).pending = s.pending := rfl
@[simp] theorem State.postN_dock (n : Nat) (k : Kind) (b : Body) (j : DockIx) : (s.postN n k b).dock j = s.dock j := rfl
@[simp] theorem State.postN_line (n : Nat) (k : Kind) (b : Body) (m : Line) : (s.postN n k b).line m = s.line m := rfl
@[simp] theorem State.postN_port (n : Nat) (k : Kind) (b : Body) (q : Port) : (s.postN n k b).port q = s.port q := rfl
@[simp] theorem State.postN_findCred (n : Nat) (k : Kind) (b : Body) (c0 : CredNo) : (s.postN n k b).findCred c0 = s.findCred c0 := rfl
@[simp] theorem State.postN_findRide (n : Nat) (k : Kind) (b : Body) (n0 : RideNo) : (s.postN n k b).findRide n0 = s.findRide n0 := rfl
@[simp] theorem State.postN_rideOfTag (n : Nat) (k : Kind) (b : Body) (t0 : BikeTag) : (s.postN n k b).rideOfTag t0 = s.rideOfTag t0 := rfl
@[simp] theorem State.postN_rideAt (n : Nat) (k : Kind) (b : Body) (j : DockIx) : (s.postN n k b).rideAt j = s.rideAt j := rfl
@[simp] theorem State.postN_level (n : Nat) (k : Kind) (b : Body) (k0 : Kind) : (s.postN n k b).level k0 = s.level k0 := rfl
@[simp] theorem State.postN_fitted (n : Nat) (k : Kind) (b : Body) (j : DockIx) : (s.postN n k b).fitted j = s.fitted j := rfl
@[simp] theorem State.postN_granted (n : Nat) (k : Kind) (b : Body) (j : DockIx) : (s.postN n k b).granted j = s.granted j := rfl
@[simp] theorem State.postN_classOf (n : Nat) (k : Kind) (b : Body) (e0 : Cred) : (s.postN n k b).classOf e0 = s.classOf e0 := rfl
@[simp] theorem State.postN_lineRuns (n : Nat) (k : Kind) (b : Body) (j : DockIx) : (s.postN n k b).lineRuns j = s.lineRuns j := rfl

/-! ## startIdle -/

@[simp] theorem State.startIdle_minute  : (s.startIdle).minute = s.minute := rfl
@[simp] theorem State.startIdle_second  : (s.startIdle).second = s.second := rfl
@[simp] theorem State.startIdle_clockSet  : (s.startIdle).clockSet = s.clockSet := rfl
@[simp] theorem State.startIdle_classes  : (s.startIdle).classes = s.classes := rfl
@[simp] theorem State.startIdle_creds  : (s.startIdle).creds = s.creds := rfl
@[simp] theorem State.startIdle_queue  : (s.startIdle).queue = s.queue := rfl
@[simp] theorem State.startIdle_holdOff  : (s.startIdle).holdOff = s.holdOff := rfl
@[simp] theorem State.startIdle_rides  : (s.startIdle).rides = s.rides := rfl
@[simp] theorem State.startIdle_nextRide  : (s.startIdle).nextRide = s.nextRide := rfl
@[simp] theorem State.startIdle_docks  : (s.startIdle).docks = s.docks := rfl
@[simp] theorem State.startIdle_releaseQ  : (s.startIdle).releaseQ = s.releaseQ := rfl
@[simp] theorem State.startIdle_grants  : (s.startIdle).grants = s.grants := rfl
@[simp] theorem State.startIdle_lineA  : (s.startIdle).lineA = s.lineA := rfl
@[simp] theorem State.startIdle_lineB  : (s.startIdle).lineB = s.lineB := rfl
@[simp] theorem State.startIdle_free  : (s.startIdle).free = s.free := rfl
@[simp] theorem State.startIdle_listN  : (s.startIdle).listN = s.listN := rfl
@[simp] theorem State.startIdle_listK  : (s.startIdle).listK = s.listK := rfl
@[simp] theorem State.startIdle_levels  : (s.startIdle).levels = s.levels := rfl
@[simp] theorem State.startIdle_settings  : (s.startIdle).settings = s.settings := rfl
@[simp] theorem State.startIdle_portN  : (s.startIdle).portN = s.portN := rfl
@[simp] theorem State.startIdle_portK  : (s.startIdle).portK = s.portK := rfl
@[simp] theorem State.startIdle_pending  : (s.startIdle).pending = s.pending := rfl
@[simp] theorem State.startIdle_dock  (j : DockIx) : (s.startIdle).dock j = s.dock j := rfl
@[simp] theorem State.startIdle_line  (m : Line) : (s.startIdle).line m = s.line m := rfl
@[simp] theorem State.startIdle_port  (q : Port) : (s.startIdle).port q = s.port q := rfl
@[simp] theorem State.startIdle_findCred  (c0 : CredNo) : (s.startIdle).findCred c0 = s.findCred c0 := rfl
@[simp] theorem State.startIdle_findRide  (n0 : RideNo) : (s.startIdle).findRide n0 = s.findRide n0 := rfl
@[simp] theorem State.startIdle_rideOfTag  (t0 : BikeTag) : (s.startIdle).rideOfTag t0 = s.rideOfTag t0 := rfl
@[simp] theorem State.startIdle_rideAt  (j : DockIx) : (s.startIdle).rideAt j = s.rideAt j := rfl
@[simp] theorem State.startIdle_level  (k0 : Kind) : (s.startIdle).level k0 = s.level k0 := rfl
@[simp] theorem State.startIdle_fitted  (j : DockIx) : (s.startIdle).fitted j = s.fitted j := rfl
@[simp] theorem State.startIdle_granted  (j : DockIx) : (s.startIdle).granted j = s.granted j := rfl
@[simp] theorem State.startIdle_classOf  (e0 : Cred) : (s.startIdle).classOf e0 = s.classOf e0 := rfl
@[simp] theorem State.startIdle_postList  (q : Port) : (s.startIdle).postList q = s.postList q := rfl
@[simp] theorem State.startIdle_lineRuns  (j : DockIx) : (s.startIdle).lineRuns j = s.lineRuns j := rfl

/-! ## enqueue -/

@[simp] theorem State.enqueue_minute (x : Presentation) : (s.enqueue x).minute = s.minute := rfl
@[simp] theorem State.enqueue_second (x : Presentation) : (s.enqueue x).second = s.second := rfl
@[simp] theorem State.enqueue_clockSet (x : Presentation) : (s.enqueue x).clockSet = s.clockSet := rfl
@[simp] theorem State.enqueue_classes (x : Presentation) : (s.enqueue x).classes = s.classes := rfl
@[simp] theorem State.enqueue_creds (x : Presentation) : (s.enqueue x).creds = s.creds := rfl
@[simp] theorem State.enqueue_sweep (x : Presentation) : (s.enqueue x).sweep = s.sweep := rfl
@[simp] theorem State.enqueue_rides (x : Presentation) : (s.enqueue x).rides = s.rides := rfl
@[simp] theorem State.enqueue_nextRide (x : Presentation) : (s.enqueue x).nextRide = s.nextRide := rfl
@[simp] theorem State.enqueue_docks (x : Presentation) : (s.enqueue x).docks = s.docks := rfl
@[simp] theorem State.enqueue_releaseQ (x : Presentation) : (s.enqueue x).releaseQ = s.releaseQ := rfl
@[simp] theorem State.enqueue_grants (x : Presentation) : (s.enqueue x).grants = s.grants := rfl
@[simp] theorem State.enqueue_lineA (x : Presentation) : (s.enqueue x).lineA = s.lineA := rfl
@[simp] theorem State.enqueue_lineB (x : Presentation) : (s.enqueue x).lineB = s.lineB := rfl
@[simp] theorem State.enqueue_free (x : Presentation) : (s.enqueue x).free = s.free := rfl
@[simp] theorem State.enqueue_listN (x : Presentation) : (s.enqueue x).listN = s.listN := rfl
@[simp] theorem State.enqueue_listK (x : Presentation) : (s.enqueue x).listK = s.listK := rfl
@[simp] theorem State.enqueue_levels (x : Presentation) : (s.enqueue x).levels = s.levels := rfl
@[simp] theorem State.enqueue_settings (x : Presentation) : (s.enqueue x).settings = s.settings := rfl
@[simp] theorem State.enqueue_portN (x : Presentation) : (s.enqueue x).portN = s.portN := rfl
@[simp] theorem State.enqueue_portK (x : Presentation) : (s.enqueue x).portK = s.portK := rfl
@[simp] theorem State.enqueue_pending (x : Presentation) : (s.enqueue x).pending = s.pending := rfl
@[simp] theorem State.enqueue_dock (x : Presentation) (j : DockIx) : (s.enqueue x).dock j = s.dock j := rfl
@[simp] theorem State.enqueue_line (x : Presentation) (m : Line) : (s.enqueue x).line m = s.line m := rfl
@[simp] theorem State.enqueue_port (x : Presentation) (q : Port) : (s.enqueue x).port q = s.port q := rfl
@[simp] theorem State.enqueue_findCred (x : Presentation) (c0 : CredNo) : (s.enqueue x).findCred c0 = s.findCred c0 := rfl
@[simp] theorem State.enqueue_findRide (x : Presentation) (n0 : RideNo) : (s.enqueue x).findRide n0 = s.findRide n0 := rfl
@[simp] theorem State.enqueue_rideOfTag (x : Presentation) (t0 : BikeTag) : (s.enqueue x).rideOfTag t0 = s.rideOfTag t0 := rfl
@[simp] theorem State.enqueue_rideAt (x : Presentation) (j : DockIx) : (s.enqueue x).rideAt j = s.rideAt j := rfl
@[simp] theorem State.enqueue_level (x : Presentation) (k0 : Kind) : (s.enqueue x).level k0 = s.level k0 := rfl
@[simp] theorem State.enqueue_fitted (x : Presentation) (j : DockIx) : (s.enqueue x).fitted j = s.fitted j := rfl
@[simp] theorem State.enqueue_granted (x : Presentation) (j : DockIx) : (s.enqueue x).granted j = s.granted j := rfl
@[simp] theorem State.enqueue_classOf (x : Presentation) (e0 : Cred) : (s.enqueue x).classOf e0 = s.classOf e0 := rfl
@[simp] theorem State.enqueue_postList (x : Presentation) (q : Port) : (s.enqueue x).postList q = s.postList q := rfl
@[simp] theorem State.enqueue_lineRuns (x : Presentation) (j : DockIx) : (s.enqueue x).lineRuns j = s.lineRuns j := rfl

/-! ## dequeue -/

@[simp] theorem State.dequeue_minute  : (s.dequeue).minute = s.minute := rfl
@[simp] theorem State.dequeue_second  : (s.dequeue).second = s.second := rfl
@[simp] theorem State.dequeue_clockSet  : (s.dequeue).clockSet = s.clockSet := rfl
@[simp] theorem State.dequeue_classes  : (s.dequeue).classes = s.classes := rfl
@[simp] theorem State.dequeue_creds  : (s.dequeue).creds = s.creds := rfl
@[simp] theorem State.dequeue_sweep  : (s.dequeue).sweep = s.sweep := rfl
@[simp] theorem State.dequeue_rides  : (s.dequeue).rides = s.rides := rfl
@[simp] theorem State.dequeue_nextRide  : (s.dequeue).nextRide = s.nextRide := rfl
@[simp] theorem State.dequeue_docks  : (s.dequeue).docks = s.docks := rfl
@[simp] theorem State.dequeue_releaseQ  : (s.dequeue).releaseQ = s.releaseQ := rfl
@[simp] theorem State.dequeue_grants  : (s.dequeue).grants = s.grants := rfl
@[simp] theorem State.dequeue_lineA  : (s.dequeue).lineA = s.lineA := rfl
@[simp] theorem State.dequeue_lineB  : (s.dequeue).lineB = s.lineB := rfl
@[simp] theorem State.dequeue_free  : (s.dequeue).free = s.free := rfl
@[simp] theorem State.dequeue_listN  : (s.dequeue).listN = s.listN := rfl
@[simp] theorem State.dequeue_listK  : (s.dequeue).listK = s.listK := rfl
@[simp] theorem State.dequeue_levels  : (s.dequeue).levels = s.levels := rfl
@[simp] theorem State.dequeue_settings  : (s.dequeue).settings = s.settings := rfl
@[simp] theorem State.dequeue_portN  : (s.dequeue).portN = s.portN := rfl
@[simp] theorem State.dequeue_portK  : (s.dequeue).portK = s.portK := rfl
@[simp] theorem State.dequeue_pending  : (s.dequeue).pending = s.pending := rfl
@[simp] theorem State.dequeue_dock  (j : DockIx) : (s.dequeue).dock j = s.dock j := rfl
@[simp] theorem State.dequeue_line  (m : Line) : (s.dequeue).line m = s.line m := rfl
@[simp] theorem State.dequeue_port  (q : Port) : (s.dequeue).port q = s.port q := rfl
@[simp] theorem State.dequeue_findCred  (c0 : CredNo) : (s.dequeue).findCred c0 = s.findCred c0 := rfl
@[simp] theorem State.dequeue_findRide  (n0 : RideNo) : (s.dequeue).findRide n0 = s.findRide n0 := rfl
@[simp] theorem State.dequeue_rideOfTag  (t0 : BikeTag) : (s.dequeue).rideOfTag t0 = s.rideOfTag t0 := rfl
@[simp] theorem State.dequeue_rideAt  (j : DockIx) : (s.dequeue).rideAt j = s.rideAt j := rfl
@[simp] theorem State.dequeue_level  (k0 : Kind) : (s.dequeue).level k0 = s.level k0 := rfl
@[simp] theorem State.dequeue_fitted  (j : DockIx) : (s.dequeue).fitted j = s.fitted j := rfl
@[simp] theorem State.dequeue_granted  (j : DockIx) : (s.dequeue).granted j = s.granted j := rfl
@[simp] theorem State.dequeue_classOf  (e0 : Cred) : (s.dequeue).classOf e0 = s.classOf e0 := rfl
@[simp] theorem State.dequeue_postList  (q : Port) : (s.dequeue).postList q = s.postList q := rfl
@[simp] theorem State.dequeue_lineRuns  (j : DockIx) : (s.dequeue).lineRuns j = s.lineRuns j := rfl

/-! ## clearCounts -/

@[simp] theorem State.clearCounts_minute (d : DockIx) (t : Turn) : (s.clearCounts d t).minute = s.minute := rfl
@[simp] theorem State.clearCounts_second (d : DockIx) (t : Turn) : (s.clearCounts d t).second = s.second := rfl
@[simp] theorem State.clearCounts_clockSet (d : DockIx) (t : Turn) : (s.clearCounts d t).clockSet = s.clockSet := rfl
@[simp] theorem State.clearCounts_classes (d : DockIx) (t : Turn) : (s.clearCounts d t).classes = s.classes := rfl
@[simp] theorem State.clearCounts_creds (d : DockIx) (t : Turn) : (s.clearCounts d t).creds = s.creds := rfl
@[simp] theorem State.clearCounts_sweep (d : DockIx) (t : Turn) : (s.clearCounts d t).sweep = s.sweep := rfl
@[simp] theorem State.clearCounts_queue (d : DockIx) (t : Turn) : (s.clearCounts d t).queue = s.queue := rfl
@[simp] theorem State.clearCounts_holdOff (d : DockIx) (t : Turn) : (s.clearCounts d t).holdOff = s.holdOff := rfl
@[simp] theorem State.clearCounts_rides (d : DockIx) (t : Turn) : (s.clearCounts d t).rides = s.rides := rfl
@[simp] theorem State.clearCounts_nextRide (d : DockIx) (t : Turn) : (s.clearCounts d t).nextRide = s.nextRide := rfl
@[simp] theorem State.clearCounts_releaseQ (d : DockIx) (t : Turn) : (s.clearCounts d t).releaseQ = s.releaseQ := rfl
@[simp] theorem State.clearCounts_grants (d : DockIx) (t : Turn) : (s.clearCounts d t).grants = s.grants := rfl
@[simp] theorem State.clearCounts_lineA (d : DockIx) (t : Turn) : (s.clearCounts d t).lineA = s.lineA := rfl
@[simp] theorem State.clearCounts_lineB (d : DockIx) (t : Turn) : (s.clearCounts d t).lineB = s.lineB := rfl
@[simp] theorem State.clearCounts_free (d : DockIx) (t : Turn) : (s.clearCounts d t).free = s.free := rfl
@[simp] theorem State.clearCounts_listN (d : DockIx) (t : Turn) : (s.clearCounts d t).listN = s.listN := rfl
@[simp] theorem State.clearCounts_listK (d : DockIx) (t : Turn) : (s.clearCounts d t).listK = s.listK := rfl
@[simp] theorem State.clearCounts_levels (d : DockIx) (t : Turn) : (s.clearCounts d t).levels = s.levels := rfl
@[simp] theorem State.clearCounts_settings (d : DockIx) (t : Turn) : (s.clearCounts d t).settings = s.settings := rfl
@[simp] theorem State.clearCounts_portN (d : DockIx) (t : Turn) : (s.clearCounts d t).portN = s.portN := rfl
@[simp] theorem State.clearCounts_portK (d : DockIx) (t : Turn) : (s.clearCounts d t).portK = s.portK := rfl
@[simp] theorem State.clearCounts_pending (d : DockIx) (t : Turn) : (s.clearCounts d t).pending = s.pending := rfl
@[simp] theorem State.clearCounts_line (d : DockIx) (t : Turn) (m : Line) : (s.clearCounts d t).line m = s.line m := rfl
@[simp] theorem State.clearCounts_port (d : DockIx) (t : Turn) (q : Port) : (s.clearCounts d t).port q = s.port q := rfl
@[simp] theorem State.clearCounts_findCred (d : DockIx) (t : Turn) (c0 : CredNo) : (s.clearCounts d t).findCred c0 = s.findCred c0 := rfl
@[simp] theorem State.clearCounts_findRide (d : DockIx) (t : Turn) (n0 : RideNo) : (s.clearCounts d t).findRide n0 = s.findRide n0 := rfl
@[simp] theorem State.clearCounts_rideOfTag (d : DockIx) (t : Turn) (t0 : BikeTag) : (s.clearCounts d t).rideOfTag t0 = s.rideOfTag t0 := rfl
@[simp] theorem State.clearCounts_rideAt (d : DockIx) (t : Turn) (j : DockIx) : (s.clearCounts d t).rideAt j = s.rideAt j := rfl
@[simp] theorem State.clearCounts_level (d : DockIx) (t : Turn) (k0 : Kind) : (s.clearCounts d t).level k0 = s.level k0 := rfl
@[simp] theorem State.clearCounts_granted (d : DockIx) (t : Turn) (j : DockIx) : (s.clearCounts d t).granted j = s.granted j := rfl
@[simp] theorem State.clearCounts_classOf (d : DockIx) (t : Turn) (e0 : Cred) : (s.clearCounts d t).classOf e0 = s.classOf e0 := rfl
@[simp] theorem State.clearCounts_postList (d : DockIx) (t : Turn) (q : Port) : (s.clearCounts d t).postList q = s.postList q := rfl
@[simp] theorem State.clearCounts_lineRuns (d : DockIx) (t : Turn) (j : DockIx) : (s.clearCounts d t).lineRuns j = s.lineRuns j := rfl

/-! ## What the updates write -/

@[simp] theorem State.dock_setDock (d j : DockIx) (x : Dock) : (s.setDock d x).dock j = if j = d then x else s.dock j := by
  unfold State.dock State.setDock
  by_cases h : j = d
  · subst h; simp [Vector.get_eq_getElem]
  · have h' : d.val ≠ j.val := fun e => h (Fin.ext e.symm)
    simp [Vector.get_eq_getElem, h, h']

@[simp] theorem State.dock_updDock (d j : DockIx) (f : Dock → Dock) :
    (s.updDock d f).dock j = if j = d then f (s.dock d) else s.dock j := by
  simp [State.updDock]

@[simp] theorem State.dock_mapDocks (f : DockIx → Dock → Dock) (j : DockIx) :
    (s.mapDocks f).dock j = f j (s.dock j) := by
  simp [State.mapDocks, State.dock, Vector.get_eq_getElem]

@[simp] theorem State.line_setLine (l m : Line) (c : LineCtl) :
    (s.setLine l c).line m = if m = l then c else s.line m := by
  cases l <;> cases m <;> simp [State.setLine, State.line]

@[simp] theorem State.line_updLine (l m : Line) (f : LineCtl → LineCtl) :
    (s.updLine l f).line m = if m = l then f (s.line l) else s.line m := by
  simp [State.updLine]

@[simp] theorem State.port_setPort (p q : Port) (x : PortState) :
    (s.setPort p x).port q = if q = p then x else s.port q := by
  cases p <;> cases q <;> simp [State.setPort, State.port]

@[simp] theorem State.port_updPort (p q : Port) (f : PortState → PortState) :
    (s.updPort p f).port q = if q = p then f (s.port p) else s.port q := by
  simp [State.updPort]

@[simp] theorem State.rides_dropRide (n : RideNo) :
    (s.dropRide n).rides = s.rides.filter (fun r => decide (r.number ≠ n)) := rfl
@[simp] theorem State.rides_updRide (n : RideNo) (f : Ride → Ride) :
    (s.updRide n f).rides = s.rides.map (fun r => if r.number = n then f r else r) := rfl
@[simp] theorem State.creds_dropCred (c : CredNo) :
    (s.dropCred c).creds = s.creds.filter (fun e => decide (e.number ≠ c)) := rfl
@[simp] theorem State.creds_updCred (c : CredNo) (f : Cred → Cred) :
    (s.updCred c f).creds = s.creds.map (fun e => if e.number = c then f e else e) := rfl
@[simp] theorem State.releaseQ_leaveQueue (d : DockIx) :
    (s.leaveQueue d).releaseQ = s.releaseQ.filter (fun e => decide (e.dock ≠ d)) := rfl
@[simp] theorem State.free_freeSlot (n : Nat) : (s.freeSlot n).free = s.free ++ [n] := rfl

end Sys2Proof.Machine
end

