-- ==== Sys2Proof/Laws/Requests.lean ====
section
/-! SUPPORT. What a request does once its rule has answered: the laws of the event wrapper and of request. -/

namespace Sys2Proof.Machine

/-- An event always answers a next state. -/
theorem event_eq (f : State → State) (s : State) : event f s = .next (latchStoreLow s.free.length (f s)) := rfl

/-- STORE_LOW latches nothing where the free count does not fall. -/
theorem latchStoreLow_of_le {n : Nat} {s : State} (h : n ≤ s.free.length) : latchStoreLow n s = s := by
  exact if_neg (fun e => absurd e.2 (Nat.not_lt.mpr (Nat.le_trans e.1 h)))

/-- An event that leaves the free list as it is latches no STORE_LOW. -/
theorem event_same_free {f : State → State} {s : State} (h : (f s).free = s.free) : event f s = .next (f s) := by
  rw [event_eq, latchStoreLow_of_le (by rw [h])]

/-- What an event may change beyond its own effect: the latched events of the two ports (R145). -/
theorem latchStoreLow_cases (n : Nat) (s : State) :
    latchStoreLow n s = s ∨ latchStoreLow n s = (s.latch .n evStoreLow).latch .k evStoreLow := by
  unfold latchStoreLow; split
  · exact .inr rfl
  · exact .inl rfl

/-- respond and answered are the same write of a port. -/
theorem State.respond_eq (s : State) (p : Port) (code : Byte) (n : Nat) (r : Reply) :
    s.respond p code n r = s.answered p code n r.status r.fields := by
  cases p <;> rfl

/-- A request on a port that takes requests (R173). -/
theorem request_takes {p : Port} {s : State} (h : s.takes p) (code : Byte) (n : Nat) (rule : State → State × Reply) :
    request p code n rule s = .next (latchStoreLow s.free.length
      ((rule s).1.answered p code n (rule s).2.status (rule s).2.fields)) := by
  unfold request
  rw [if_neg h, event_eq, State.respond_eq]

/-- A request whose rule does not lower the free count. -/
theorem request_next {p : Port} {s t : State} {st : Status} {f : Fields} {rule : State → State × Reply} (h : s.takes p)
    (code : Byte) (n : Nat) (e : rule s = (t, ⟨st, f⟩)) (hf : s.free.length ≤ t.free.length) :
    request p code n rule s = .next (t.answered p code n st f) := by
  rw [request_takes h, e, latchStoreLow_of_le (by simpa using hf)]

/-- A request that its rule turns away. -/
theorem request_refused {p : Port} {s : State} {st : Status} {f : Fields} {rule : State → State × Reply}
    (h : s.takes p) (code : Byte) (n : Nat) (e : rule s = answer s st f) :
    request p code n rule s = .next (s.answered p code n st f) :=
  request_next h code n e (Nat.le_refl _)

@[simp] theorem onlyN_n (rule : State → State × Reply) (s : State) : onlyN .n rule s = rule s := rfl
@[simp] theorem onlyN_k (rule : State → State × Reply) (s : State) : onlyN .k rule s = answer s .wrongPort := rfl
@[simp] theorem onlyK_k (rule : State → State × Reply) (s : State) : onlyK .k rule s = rule s := rfl
@[simp] theorem onlyK_n (rule : State → State × Reply) (s : State) : onlyK .n rule s = answer s .wrongPort := rfl

end Sys2Proof.Machine
end

