-- ==== Sys2Proof/Laws/Frames.lean ====
section
/-! SUPPORT. Frames: what each shared operation over the pool, the lines, the rides and the docks leaves alone, said
once for each. A frame is reflexive and transitive, so the frame of a longer operation is a chain. -/

namespace Sys2Proof.Machine

theorem KeepsItems.refl (x : PortState) : KeepsItems x x := ⟨rfl, rfl, rfl, rfl, rfl⟩
theorem KeepsItems.trans {x y z : PortState} (h : KeepsItems x y) (k : KeepsItems y z) : KeepsItems x z :=
  ⟨k.1.trans h.1, k.2.1.trans h.2.1, k.2.2.1.trans h.2.2.1, k.2.2.2.1.trans h.2.2.2.1, k.2.2.2.2.trans h.2.2.2.2⟩

theorem PortsKept.refl (s : State) : PortsKept s s := ⟨KeepsItems.refl _, KeepsItems.refl _⟩
theorem PortsKept.trans {s t u : State} (h : PortsKept s t) (k : PortsKept t u) : PortsKept s u :=
  ⟨KeepsItems.trans h.1 k.1, KeepsItems.trans h.2 k.2⟩

theorem SameBase.refl (s : State) : SameBase s s := ⟨rfl, rfl, rfl, rfl, rfl, rfl, rfl, rfl, rfl⟩
theorem SameBase.trans {s t u : State} (h : SameBase s t) (k : SameBase t u) : SameBase s u := by
  obtain ⟨h1, h2, h3, h4, h5, h6, h7, h8, h9⟩ := h
  obtain ⟨k1, k2, k3, k4, k5, k6, k7, k8, k9⟩ := k
  exact ⟨k1.trans h1, k2.trans h2, k3.trans h3, k4.trans h4, k5.trans h5, k6.trans h6, k7.trans h7, k8.trans h8,
    k9.trans h9⟩

theorem SameStation.refl (s : State) : SameStation s s := ⟨SameBase.refl s, rfl, rfl⟩
theorem SameStation.trans {s t u : State} (h : SameStation s t) (k : SameStation t u) : SameStation s u :=
  ⟨SameBase.trans h.1 k.1, k.2.1.trans h.2.1, k.2.2.trans h.2.2⟩

/-- Latching events keeps every item of both ports. -/
theorem State.latch_portsKept (s : State) (p : Port) (e : Byte) : PortsKept s (s.latch p e) := by
  cases p <;> exact ⟨⟨rfl, rfl, rfl, rfl, rfl⟩, ⟨rfl, rfl, rfl, rfl, rfl⟩⟩

/-! ## The pool frame: only the free list, the post lists and the latched events change -/

/-- What a posting leaves alone. -/
structure PoolFrame (s t : State) : Prop where
  station  : SameStation s t
  creds    : t.creds = s.creds
  rides    : t.rides = s.rides
  docks    : t.docks = s.docks
  releaseQ : t.releaseQ = s.releaseQ
  grants   : t.grants = s.grants
  lineA    : t.lineA = s.lineA
  lineB    : t.lineB = s.lineB
  ports    : PortsKept s t

theorem PoolFrame.refl (s : State) : PoolFrame s s :=
  ⟨SameStation.refl s, rfl, rfl, rfl, rfl, rfl, rfl, rfl, PortsKept.refl s⟩

theorem PoolFrame.trans {s t u : State} (h : PoolFrame s t) (k : PoolFrame t u) : PoolFrame s u :=
  ⟨SameStation.trans h.station k.station, k.creds.trans h.creds, k.rides.trans h.rides, k.docks.trans h.docks,
    k.releaseQ.trans h.releaseQ, k.grants.trans h.grants, k.lineA.trans h.lineA, k.lineB.trans h.lineB,
    PortsKept.trans h.ports k.ports⟩

theorem PoolFrame.line {s t : State} (h : PoolFrame s t) (l : Line) : t.line l = s.line l := by
  cases l
  · exact h.lineA
  · exact h.lineB

theorem PoolFrame.dock {s t : State} (h : PoolFrame s t) (d : DockIx) : t.dock d = s.dock d := by
  unfold State.dock; rw [h.docks]

theorem State.latch_pool (s : State) (p : Port) (e : Byte) : PoolFrame s (s.latch p e) where
  station := by cases p <;> exact SameStation.refl s
  creds := by simp
  rides := by simp
  docks := by simp
  releaseQ := by simp
  grants := by simp
  lineA := by simp
  lineB := by simp
  ports := s.latch_portsKept p e

theorem latchStoreLow_pool (n : Nat) (s : State) : PoolFrame s (latchStoreLow n s) := by
  rcases latchStoreLow_cases n s with h | h <;> rw [h]
  · exact PoolFrame.refl s
  · exact (s.latch_pool .n evStoreLow).trans (State.latch_pool _ .k evStoreLow)

/-! ## STORE_LOW and the answer of a request change nothing else -/

theorem latchStoreLow_listN (n : Nat) (s : State) : (latchStoreLow n s).listN = s.listN := by
  rcases latchStoreLow_cases n s with h | h <;> rw [h]
  simp
theorem latchStoreLow_listK (n : Nat) (s : State) : (latchStoreLow n s).listK = s.listK := by
  rcases latchStoreLow_cases n s with h | h <;> rw [h]
  simp
theorem latchStoreLow_free (n : Nat) (s : State) : (latchStoreLow n s).free = s.free := by
  rcases latchStoreLow_cases n s with h | h <;> rw [h]
  simp

theorem State.answered_station (s : State) (p : Port) (c : Byte) (k : Nat) (st : Status) (f : Fields) :
    SameStation s (s.answered p c k st f) := by
  cases p <;> exact SameStation.refl s

/-- A request whose rule keeps the items of both ports leaves its response on its own port and nothing on the other. -/
theorem answers_of_portsKept {s t : State} {p : Port} (h : PortsKept s t) (n : Nat) (c : Byte) (k : Nat) (st : Status)
    (f : Fields) : Answers s (latchStoreLow n (t.answered p c k st f)) p ⟨c, st, f⟩ k := by
  obtain ⟨⟨a1, a2, a3, a4, a5⟩, ⟨b1, b2, b3, b4, b5⟩⟩ := h
  obtain ⟨⟨c1, c2, c3, c4, c5⟩, ⟨d1, d2, d3, d4, d5⟩⟩ := (latchStoreLow_pool n (t.answered p c k st f)).ports
  cases p
  · exact ⟨⟨c1, c2.trans a2, c3.trans a3, c4, c5⟩, ⟨d1.trans b1, d2.trans b2, d3.trans b3, d4.trans b4, d5.trans b5⟩⟩
  · exact ⟨⟨d1, d2.trans b2, d3.trans b3, d4, d5⟩, ⟨c1.trans a1, c2.trans a2, c3.trans a3, c4.trans a4, c5.trans a5⟩⟩

/-- The same where the rule does not lower the free count. -/
theorem answers_answered {s t : State} {p : Port} (h : PortsKept s t) (c : Byte) (k : Nat) (st : Status) (f : Fields) :
    Answers s (t.answered p c k st f) p ⟨c, st, f⟩ k := by
  have := answers_of_portsKept h 0 c k st f (p := p)
  rwa [latchStoreLow_of_le (Nat.zero_le _)] at this

theorem State.freeSlot_pool (s : State) (n : Nat) : PoolFrame s (s.freeSlot n) :=
  ⟨SameStation.refl s, rfl, rfl, rfl, rfl, rfl, rfl, rfl, PortsKept.refl s⟩

theorem State.postN_pool (s : State) (n : Nat) (k : Kind) (b : Body) : PoolFrame s (s.postN n k b) :=
  ⟨SameStation.refl s, rfl, rfl, rfl, rfl, rfl, rfl, rfl, PortsKept.refl s⟩

theorem State.evictK_pool (s : State) : PoolFrame s s.evictK := by
  unfold State.evictK; split
  · exact PoolFrame.refl s
  · exact ⟨SameStation.refl s, rfl, rfl, rfl, rfl, rfl, rfl, rfl, PortsKept.refl s⟩

theorem State.placeK_pool (s : State) (b : Body) : PoolFrame s (s.placeK b) := by
  unfold State.placeK; split
  · exact ⟨SameStation.refl s, rfl, rfl, rfl, rfl, rfl, rfl, rfl, PortsKept.refl s⟩
  · exact s.latch_pool .k evOverflow

theorem State.postK_pool (s : State) (b : Body) : PoolFrame s (s.postK b) := by
  unfold State.postK; dsimp only
  refine PoolFrame.trans (t := if Config.listKCapacity ≤ s.listK.length then s.evictK else s) ?_ ?_
  · split
    · exact s.evictK_pool
    · exact PoolFrame.refl s
  · split <;> split <;>
      first
        | exact (State.evictK_pool _).trans (State.placeK_pool _ _)
        | exact State.placeK_pool _ _

theorem State.postFree_pool (s : State) (k : Kind) (b : Body) : PoolFrame s (s.postFree k b) := by
  unfold State.postFree; split
  · exact ⟨SameStation.refl s, rfl, rfl, rfl, rfl, rfl, rfl, rfl, PortsKept.refl s⟩
  · exact s.latch_pool .n evOverflow

theorem State.notice_pool (s : State) (sub : Subject) (b : NoticeBody) : PoolFrame s (s.notice sub b) := by
  unfold State.notice; split
  · exact PoolFrame.refl s
  · split
    · exact PoolFrame.refl s
    · exact s.postFree_pool _ _

theorem State.foreignReturn_pool (s : State) (d : DockIx) (t : BikeTag) : PoolFrame s (s.foreignReturn d t) :=
  s.postFree_pool _ _

/-! ## The ride frame: what no event about a ride, a dock or a line touches -/

/-- Clock, classes, sweep, queue, levels, settings, the ports but for their latched events, and the waiting commands. -/
structure RideFrame (s t : State) : Prop where
  station : SameStation s t
  ports   : PortsKept s t

theorem RideFrame.refl (s : State) : RideFrame s s := ⟨SameStation.refl s, PortsKept.refl s⟩
theorem RideFrame.trans {s t u : State} (h : RideFrame s t) (k : RideFrame t u) : RideFrame s u :=
  ⟨SameStation.trans h.station k.station, PortsKept.trans h.ports k.ports⟩
theorem PoolFrame.ride {s t : State} (h : PoolFrame s t) : RideFrame s t := ⟨h.station, h.ports⟩

/-! ## The line frame: what the grant procedure and a return from QUIET leave alone -/

/-- The docks change in their pending command alone, the release queue in its granted flags, the lines in the round,
the quiet timers and a return from QUIET to RUNNING, Port N in its latched events; nothing else changes. -/
structure LineFrame (s t : State) : Prop where
  station  : SameStation s t
  creds    : t.creds = s.creds
  rides    : t.rides = s.rides
  pool     : SamePool s t
  docks    : ∀ d : DockIx, { t.dock d with pending := (s.dock d).pending } = s.dock d
  queue    : t.releaseQ.map (fun e => (e.dock, e.ride)) = s.releaseQ.map (fun e => (e.dock, e.ride))
  on       : ∀ l : Line, (t.line l).state = (s.line l).state ∨ ((s.line l).state = .quiet ∧ (t.line l).state = .running)
  line     : ∀ l : Line, (t.line l).rate = (s.line l).rate ∧ (t.line l).turn = (s.line l).turn ∧
    (t.line l).errors = (s.line l).errors ∧ (t.line l).errTimer = (s.line l).errTimer ∧
    (t.line l).breakTimer = (s.line l).breakTimer ∧ (t.line l).breakCause = (s.line l).breakCause
  same     : ∀ l : Line, (s.line l).state ≠ .quiet → t.line l = s.line l
  ports    : PortsKept s t
  portK    : t.portK = s.portK

theorem LineFrame.refl (s : State) : LineFrame s s where
  station := SameStation.refl s
  creds := rfl
  rides := rfl
  pool := ⟨rfl, rfl, rfl⟩
  docks _ := rfl
  queue := rfl
  on _ := .inl rfl
  line _ := ⟨rfl, rfl, rfl, rfl, rfl, rfl⟩
  same _ _ := rfl
  ports := PortsKept.refl s
  portK := rfl

theorem LineFrame.trans {s t u : State} (h : LineFrame s t) (k : LineFrame t u) : LineFrame s u where
  station := SameStation.trans h.station k.station
  creds := k.creds.trans h.creds
  rides := k.rides.trans h.rides
  pool := ⟨k.pool.1.trans h.pool.1, k.pool.2.1.trans h.pool.2.1, k.pool.2.2.trans h.pool.2.2⟩
  docks d := by
    have e := congrArg (fun x : Dock => { x with pending := (s.dock d).pending }) (k.docks d)
    exact e.trans (h.docks d)
  queue := k.queue.trans h.queue
  on l := by
    rcases h.on l with a | ⟨a, b⟩ <;> rcases k.on l with c | ⟨c, e⟩
    · exact .inl (c.trans a)
    · exact .inr ⟨a ▸ c, e⟩
    · exact .inr ⟨a, c.trans b⟩
    · exact .inr ⟨a, e⟩
  line l := by
    obtain ⟨a1, a2, a3, a4, a5, a6⟩ := h.line l
    obtain ⟨b1, b2, b3, b4, b5, b6⟩ := k.line l
    exact ⟨b1.trans a1, b2.trans a2, b3.trans a3, b4.trans a4, b5.trans a5, b6.trans a6⟩
  same l hq := by
    have e := h.same l hq
    exact (k.same l (by rw [e]; exact hq)).trans e
  ports := PortsKept.trans h.ports k.ports
  portK := k.portK.trans h.portK

theorem LineFrame.ride {s t : State} (h : LineFrame s t) : RideFrame s t := ⟨h.station, h.ports⟩

/-- A line frame keeps every field of a dock but its pending command. -/
theorem LineFrame.dock {s t : State} (h : LineFrame s t) (d : DockIx) :
    t.dock d = { s.dock d with pending := (t.dock d).pending } := by
  have e := congrArg (fun x : Dock => { x with pending := (t.dock d).pending }) (h.docks d)
  exact e

/-- A line frame keeps which lines are RUNNING or QUIET. -/
theorem LineFrame.lineRuns {s t : State} (h : LineFrame s t) (d : DockIx) : t.lineRuns d = s.lineRuns d := by
  unfold State.lineRuns
  rcases h.on (lineOf d) with a | ⟨a, b⟩
  · rw [a]
  · rw [a, b]; rfl

/-- The return of a QUIET line to RUNNING, without the grant procedure. -/
theorem State.leaveQuiet_frame (s : State) (l : Line) (hq : (s.line l).state = .quiet) : LineFrame s (s.leaveQuiet l) where
  station := by unfold State.leaveQuiet; cases l <;> dsimp only <;> split <;> exact SameStation.refl s
  creds := by unfold State.leaveQuiet; dsimp only; split <;> simp
  rides := by unfold State.leaveQuiet; dsimp only; split <;> simp
  pool := by unfold State.leaveQuiet; dsimp only; split <;> exact ⟨by simp, by simp, by simp⟩
  docks d := by unfold State.leaveQuiet; dsimp only; split <;> simp
  queue := by unfold State.leaveQuiet; dsimp only; split <;> simp
  on m := by
    unfold State.leaveQuiet; dsimp only
    by_cases e : m = l
    · subst e; refine .inr ⟨hq, ?_⟩; split <;> simp [State.startRound]
    · refine .inl ?_; split <;> simp [State.startRound, e]
  line m := by
    unfold State.leaveQuiet; dsimp only
    by_cases e : m = l
    · subst e; split <;> simp [State.startRound]
    · split <;> simp [State.startRound, e]
  same m hm := by
    have e : m ≠ l := fun e => hm (e ▸ hq)
    unfold State.leaveQuiet; dsimp only; split <;> simp [State.startRound, e]
  ports := by
    unfold State.leaveQuiet; cases l <;> dsimp only <;> split <;>
      exact ⟨⟨rfl, rfl, rfl, rfl, rfl⟩, ⟨rfl, rfl, rfl, rfl, rfl⟩⟩
  portK := by unfold State.leaveQuiet; cases l <;> dsimp only <;> split <;> rfl

/-- A change of one dock's pending command alone. -/
theorem State.updDock_pending_frame (s : State) (d : DockIx) (c : Pending) :
    LineFrame s (s.updDock d (fun x => { x with pending := c })) where
  station := SameStation.refl s
  creds := rfl
  rides := rfl
  pool := ⟨rfl, rfl, rfl⟩
  docks j := by
    rw [State.dock_updDock]; split
    · next h => rw [h]
    · rfl
  queue := rfl
  on _ := by simp
  line _ := by simp
  same _ _ := by simp
  ports := PortsKept.refl s
  portK := rfl

theorem State.markPending_frame (s : State) (d : DockIx) (c : Pending) : LineFrame s (s.markPending d c) := by
  unfold State.markPending; dsimp only; split
  · next h => exact (s.updDock_pending_frame d c).trans (State.leaveQuiet_frame _ _ (by simpa using h))
  · exact s.updDock_pending_frame d c

/-- A change of granted flags and of the grant set alone. -/
theorem State.setGrants_frame (s : State) (q : List QEntry) (g : List DockIx)
    (h : q.map (fun e => (e.dock, e.ride)) = s.releaseQ.map (fun e => (e.dock, e.ride))) :
    LineFrame s { s with releaseQ := q, grants := g } where
  station := SameStation.refl s
  creds := rfl
  rides := rfl
  pool := ⟨rfl, rfl, rfl⟩
  docks _ := rfl
  queue := h
  on _ := .inl rfl
  line _ := ⟨rfl, rfl, rfl, rfl, rfl, rfl⟩
  same _ _ := rfl
  ports := PortsKept.refl s
  portK := rfl

theorem State.grant_frame (s : State) (d : DockIx) : LineFrame s (s.grant d) := by
  have h1 := s.setGrants_frame (s.releaseQ.map (fun e => if e.dock = d then { e with granted := true } else e))
    (s.grants ++ [d]) (by
      rw [List.map_map]
      refine List.map_congr_left (fun e _ => ?_)
      simp only [Function.comp]; split <;> rfl)
  unfold State.grant; dsimp only; split
  · exact h1.trans (State.markPending_frame _ d .openCmd)
  · exact h1

theorem State.grantStep_frame (s : State) (d : DockIx) : LineFrame s (s.grantStep d) := by
  unfold State.grantStep; split
  · exact s.grant_frame d
  · exact LineFrame.refl s

theorem State.issueGrants_frame (s : State) : LineFrame s s.issueGrants := by
  unfold State.issueGrants
  generalize (s.releaseQ.filter (fun e => !e.granted)).map (fun e => e.dock) = ds
  induction ds generalizing s with
  | nil => exact LineFrame.refl s
  | cons d ds ih => exact (s.grantStep_frame d).trans (ih _)

theorem State.returnGrant_frame (s : State) (d : DockIx) : LineFrame s (s.returnGrant d) := by
  unfold State.returnGrant; split
  · exact (s.setGrants_frame s.releaseQ (s.grants.filter (fun x => decide (x ≠ d))) rfl).trans
      (State.issueGrants_frame _)
  · exact LineFrame.refl s

theorem State.quietReturn_frame (s : State) (l : Line) : LineFrame s (s.quietReturn l) := by
  unfold State.quietReturn; split
  · next h => exact (s.leaveQuiet_frame l h).trans (State.issueGrants_frame _)
  · exact LineFrame.refl s

theorem State.setPending_frame (s : State) (d : DockIx) (c : Pending) : LineFrame s (s.setPending d c) := by
  unfold State.setPending; dsimp only; split
  · exact (s.markPending_frame d c).trans (State.issueGrants_frame _)
  · exact s.markPending_frame d c

end Sys2Proof.Machine
end

