-- ==== Sys2Proof/Laws/Grants.lean ====
section
/-! SUPPORT. What the grant procedure does: whom it grants, what it leaves, and that it leaves nothing grantable
(R107, R108, R110). -/

namespace Sys2Proof.Machine

theorem State.leaveQuiet_grants (s : State) (l : Line) : (s.leaveQuiet l).grants = s.grants := by
  unfold State.leaveQuiet; dsimp only; split <;> simp

theorem State.leaveQuiet_releaseQ (s : State) (l : Line) : (s.leaveQuiet l).releaseQ = s.releaseQ := by
  unfold State.leaveQuiet; dsimp only; split <;> simp

theorem State.leaveQuiet_docks (s : State) (l : Line) : (s.leaveQuiet l).docks = s.docks := by
  unfold State.leaveQuiet; dsimp only; split <;> simp

theorem State.markPending_grants (s : State) (d : DockIx) (c : Pending) : (s.markPending d c).grants = s.grants := by
  unfold State.markPending; dsimp only; split <;> simp [State.leaveQuiet_grants]

theorem State.markPending_releaseQ (s : State) (d : DockIx) (c : Pending) : (s.markPending d c).releaseQ = s.releaseQ := by
  unfold State.markPending; dsimp only; split <;> simp [State.leaveQuiet_releaseQ]

/-- A pending command set at a dock changes that dock alone, in that field alone. -/
theorem State.markPending_dock (s : State) (d : DockIx) (c : Pending) (j : DockIx) :
    (s.markPending d c).dock j = if j = d then { s.dock d with pending := c } else s.dock j := by
  have h : (s.markPending d c).docks = (s.updDock d (fun x => { x with pending := c })).docks := by
    unfold State.markPending; dsimp only; split
    · exact State.leaveQuiet_docks _ _
    · rfl
  have : (s.markPending d c).dock j = (s.updDock d (fun x => { x with pending := c })).dock j := by
    unfold State.dock; rw [h]
  rw [this, State.dock_updDock]

/-! ## One grant -/

theorem State.grant_grants (s : State) (d : DockIx) : (s.grant d).grants = s.grants ++ [d] := by
  unfold State.grant; dsimp only; split <;> simp [State.markPending_grants]

theorem State.grant_releaseQ (s : State) (d : DockIx) :
    (s.grant d).releaseQ = s.releaseQ.map (fun e => if e.dock = d then { e with granted := true } else e) := by
  unfold State.grant; dsimp only; split <;> simp [State.markPending_releaseQ]

/-- A grant makes OPEN the pending command unless a SHOW is pending (R109). -/
theorem State.grant_dock (s : State) (d j : DockIx) :
    (s.grant d).dock j = if j = d ∧ (s.dock d).pending = .none then { s.dock d with pending := .openCmd } else s.dock j := by
  have key : ∀ s1 : State, (∀ i, s1.dock i = s.dock i) →
      (if (s.dock d).pending = .none then s1.markPending d .openCmd else s1).dock j =
        if j = d ∧ (s.dock d).pending = .none then { s.dock d with pending := .openCmd } else s.dock j := by
    intro s1 h1
    split
    · next h =>
      rw [State.markPending_dock, h1, h1]
      by_cases e : j = d <;> simp [e, h]
    · next h => simp [h, h1]
  exact key _ (fun _ => rfl)

/-! ## The procedure -/

/-- The docks of the waiting entries, oldest first. -/
def State.waiting (s : State) : List DockIx := (s.releaseQ.filter (fun e => !e.granted)).map (fun e => e.dock)

theorem State.mem_waiting {s : State} {d : DockIx} : d ∈ s.waiting ↔ ∃ e ∈ s.releaseQ, e.granted = false ∧ e.dock = d := by
  simp [State.waiting, and_assoc]

/-- The procedure grants waiting docks of the list it walks, one after another; nobody loses a grant. -/
theorem foldl_grantStep_grants (ds : List DockIx) (s : State) :
    ∃ gs : List DockIx, (ds.foldl State.grantStep s).grants = s.grants ++ gs ∧ gs.Sublist ds := by
  induction ds generalizing s with
  | nil => exact ⟨[], by simp, List.Sublist.refl _⟩
  | cons d ds ih =>
    obtain ⟨gs, h1, h2⟩ := ih (s.grantStep d)
    rw [List.foldl_cons, h1]
    unfold State.grantStep
    split
    · exact ⟨d :: gs, by simp [State.grant_grants], h2.cons_cons d⟩
    · exact ⟨gs, rfl, h2.cons d⟩

theorem State.issueGrants_grants (s : State) :
    ∃ gs : List DockIx, s.issueGrants.grants = s.grants ++ gs ∧ gs.Sublist s.waiting :=
  foldl_grantStep_grants _ s

theorem State.mem_issueGrants {s : State} {d : DockIx} (h : d ∈ s.issueGrants.grants) : d ∈ s.grants ∨ d ∈ s.waiting := by
  obtain ⟨gs, h1, h2⟩ := s.issueGrants_grants
  rw [h1] at h
  rcases List.mem_append.mp h with h | h
  · exact .inl h
  · exact .inr (h2.mem h)

theorem State.grants_sub_issueGrants {s : State} {d : DockIx} (h : d ∈ s.grants) : d ∈ s.issueGrants.grants := by
  obtain ⟨gs, h1, _⟩ := s.issueGrants_grants
  rw [h1]; exact List.mem_append_left _ h

/-- A dock that does not wait keeps its record. -/
theorem foldl_grantStep_dock (ds : List DockIx) (s : State) (j : DockIx) (h : j ∉ ds) :
    (ds.foldl State.grantStep s).dock j = s.dock j := by
  induction ds generalizing s with
  | nil => rfl
  | cons d ds ih =>
    rw [List.foldl_cons, ih _ (fun a => h (List.mem_cons_of_mem _ a))]
    unfold State.grantStep; split
    · have : j ≠ d := fun a => h (a ▸ List.mem_cons_self)
      rw [State.grant_dock, if_neg (fun a => this a.1)]
    · rfl

theorem State.issueGrants_dock (s : State) (j : DockIx) (h : j ∉ s.waiting) : s.issueGrants.dock j = s.dock j :=
  foldl_grantStep_dock _ s j h

/-- An entry the procedure leaves waiting was waiting before. -/
theorem foldl_grantStep_releaseQ (ds : List DockIx) (s : State) :
    ∃ f : DockIx → Bool, (ds.foldl State.grantStep s).releaseQ =
      s.releaseQ.map (fun e => { e with granted := e.granted || f e.dock }) := by
  induction ds generalizing s with
  | nil => exact ⟨fun _ => false, by simp⟩
  | cons d ds ih =>
    obtain ⟨f, h⟩ := ih (s.grantStep d)
    rw [List.foldl_cons, h]
    unfold State.grantStep; split
    · refine ⟨fun x => f x || decide (x = d), ?_⟩
      rw [State.grant_releaseQ, List.map_map]
      refine List.map_congr_left (fun e _ => ?_)
      by_cases hd : e.dock = d <;> simp [Function.comp, hd]
    · exact ⟨f, rfl⟩

theorem State.issueGrants_releaseQ (s : State) :
    ∃ f : DockIx → Bool, s.issueGrants.releaseQ = s.releaseQ.map (fun e => { e with granted := e.granted || f e.dock }) :=
  foldl_grantStep_releaseQ _ s

theorem foldl_grantStep_issued (ds : List DockIx) (s : State)
    (h : ∀ e ∈ s.releaseQ, e.granted = false → e.dock ∈ ds ∨ s.settings.budget ≤ s.grants.length ∨ s.lineRuns e.dock = false) :
    GrantsIssued (ds.foldl State.grantStep s) := by
  induction ds generalizing s with
  | nil =>
    by_cases hb : s.settings.budget ≤ s.grants.length
    · exact .inl hb
    · refine .inr (fun e he hg => ?_)
      rcases h e he hg with a | a | a
      · simp at a
      · exact absurd a hb
      · exact a
  | cons d ds ih =>
    rw [List.foldl_cons]
    refine ih _ (fun e he hg => ?_)
    have hf := s.grantStep_frame d
    rw [hf.lineRuns, hf.station.1.2.2.2.2.2.2.2.1]
    unfold State.grantStep at he ⊢
    split at he
    · next hc =>
      rw [if_pos hc]
      rw [State.grant_releaseQ] at he
      obtain ⟨e', he', rfl⟩ := List.mem_map.mp he
      by_cases hd : e'.dock = d
      · simp [hd] at hg
      · simp only [hd, if_false] at hg ⊢
        rcases h e' he' hg with a | a | a
        · rcases List.mem_cons.mp a with a | a
          · exact absurd a hd
          · exact .inl a
        · exact .inr (.inl (by rw [State.grant_grants]; simp; omega))
        · exact .inr (.inr a)
    · next hc =>
      rw [if_neg hc]
      rcases h e he hg with a | a | a
      · rcases List.mem_cons.mp a with a | a
        · by_cases hb : s.settings.budget ≤ s.grants.length
          · exact .inr (.inl hb)
          · refine .inr (.inr ?_)
            rw [a]
            by_contra hl
            exact hc ⟨by omega, by simpa using hl⟩
        · exact .inl a
      · exact .inr (.inl a)
      · exact .inr (.inr a)

/-- The procedure leaves nothing that could be granted (R108). -/
theorem State.issueGrants_issued (s : State) : GrantsIssued s.issueGrants :=
  foldl_grantStep_issued _ s (fun e he hg => .inl (State.mem_waiting.mpr ⟨e, he, hg, rfl⟩))

/-! ## The return of a grant (R110) -/

theorem State.returnGrant_not_mem {s : State} {d : DockIx} (h : ∀ e ∈ s.releaseQ, e.dock ≠ d) : d ∉ (s.returnGrant d).grants := by
  unfold State.returnGrant; split
  · intro a
    rcases State.mem_issueGrants a with a | a
    · simp at a
    · obtain ⟨e, he, _, hd⟩ := State.mem_waiting.mp a
      exact h e he hd
  · next hg => simpa [State.granted] using hg

theorem State.returnGrant_dock {s : State} {d j : DockIx} (h : ∀ e ∈ s.releaseQ, e.dock ≠ j) :
    (s.returnGrant d).dock j = s.dock j := by
  unfold State.returnGrant; split
  · refine State.issueGrants_dock _ j (fun a => ?_)
    obtain ⟨e, he, _, hd⟩ := State.mem_waiting.mp a
    exact h e he hd
  · rfl

/-- The docks of the release queue stay the same. -/
theorem LineFrame.queue_docks {s t : State} (h : LineFrame s t) : t.releaseQ.map (fun e => e.dock) = s.releaseQ.map (fun e => e.dock) := by
  have e := congrArg (List.map Prod.fst) h.queue
  rw [List.map_map, List.map_map] at e
  exact e

theorem LineFrame.not_queued {s t : State} (h : LineFrame s t) {d : DockIx} (hd : ∀ e ∈ s.releaseQ, e.dock ≠ d) :
    ∀ e ∈ t.releaseQ, e.dock ≠ d := by
  intro e he a
  have : d ∈ t.releaseQ.map (fun e => e.dock) := List.mem_map.mpr ⟨e, he, a⟩
  rw [h.queue_docks] at this
  obtain ⟨e', he', a'⟩ := List.mem_map.mp this
  exact hd e' he' a'

/-! ## A pending command set, with the return from QUIET (R109) -/

theorem State.setPending_dock_ne {s : State} {d j : DockIx} {c : Pending} (hj : j ≠ d) (h : ∀ e ∈ s.releaseQ, e.dock ≠ j) :
    (s.setPending d c).dock j = s.dock j := by
  have hm : (s.markPending d c).dock j = s.dock j := by rw [State.markPending_dock, if_neg hj]
  unfold State.setPending; dsimp only; split
  · rw [State.issueGrants_dock _ j, hm]
    intro a
    obtain ⟨e, he, _, hd⟩ := State.mem_waiting.mp a
    rw [State.markPending_releaseQ] at he
    exact h e he hd
  · exact hm

/-- A pending command other than none is not replaced by the procedure. -/
theorem foldl_grantStep_pending (ds : List DockIx) (s : State) (j : DockIx) (h : (s.dock j).pending ≠ .none) :
    (ds.foldl State.grantStep s).dock j = s.dock j := by
  induction ds generalizing s with
  | nil => rfl
  | cons d ds ih =>
    have e : (s.grantStep d).dock j = s.dock j := by
      unfold State.grantStep; split
      · rw [State.grant_dock]; split
        · next a => exact absurd (a.1 ▸ a.2) h
        · rfl
      · rfl
    rw [List.foldl_cons, ih _ (by rw [e]; exact h), e]

theorem State.issueGrants_dock_pending {s : State} {j : DockIx} (h : (s.dock j).pending ≠ .none) :
    s.issueGrants.dock j = s.dock j := foldl_grantStep_pending _ s j h

/-- The dock itself holds the command that was set, where that is not none. -/
theorem State.setPending_dock {s : State} {d : DockIx} {c : Pending} (hc : c ≠ .none) :
    (s.setPending d c).dock d = { s.dock d with pending := c } := by
  have hm : (s.markPending d c).dock d = { s.dock d with pending := c } := by rw [State.markPending_dock, if_pos rfl]
  unfold State.setPending; dsimp only; split
  · rw [State.issueGrants_dock_pending (by rw [hm]; exact hc), hm]
  · exact hm

end Sys2Proof.Machine
end

