-- ==== Sys2Proof/Laws/Pool.lean ====
section
/-! SUPPORT. What a posting does, said once: the place and the order of a record on each list, and the number of slots
(R142, R146 to R149, R155). -/

namespace Sys2Proof.Machine

theorem perm_insertTail (x : Posted) (ys : List Posted) : (insertTail x ys).Perm (x :: ys) := by
  induction ys with
  | nil => exact List.Perm.refl _
  | cons y ys ih =>
    unfold insertTail; split
    · exact (ih.cons y).trans (List.Perm.swap x y ys)
    · exact List.Perm.refl _

theorem perm_insertFront (x : Posted) (ys : List Posted) : (insertFront x ys).Perm (x :: ys) := by
  induction ys with
  | nil => exact List.Perm.refl _
  | cons y ys ih =>
    unfold insertFront; split
    · exact (ih.cons y).trans (List.Perm.swap x y ys)
    · exact List.Perm.refl _

theorem mem_insertTail {x y : Posted} {ys : List Posted} : y ∈ insertTail x ys ↔ y = x ∨ y ∈ ys := by
  rw [(perm_insertTail x ys).mem_iff, List.mem_cons]

theorem mem_insertFront {x y : Posted} {ys : List Posted} : y ∈ insertFront x ys ↔ y = x ∨ y ∈ ys := by
  rw [(perm_insertFront x ys).mem_iff, List.mem_cons]

theorem length_insertTail (x : Posted) (ys : List Posted) : (insertTail x ys).length = ys.length + 1 := by
  rw [(perm_insertTail x ys).length_eq, List.length_cons]

/-- A posting keeps the order of levels (R146). -/
theorem sorted_insertTail (x : Posted) {ys : List Posted} (h : ys.Pairwise (fun a b => b.record.level ≤ a.record.level)) :
    (insertTail x ys).Pairwise (fun a b => b.record.level ≤ a.record.level) := by
  induction ys with
  | nil => simp [insertTail]
  | cons y ys ih =>
    obtain ⟨h1, h2⟩ := List.pairwise_cons.mp h
    unfold insertTail; split
    · next hle =>
      refine List.pairwise_cons.mpr ⟨fun z hz => ?_, ih h2⟩
      rcases mem_insertTail.mp hz with rfl | hz
      · exact hle
      · exact h1 z hz
    · next hle =>
      refine List.pairwise_cons.mpr ⟨fun z hz => ?_, h⟩
      rcases List.mem_cons.mp hz with rfl | hz
      · omega
      · have := h1 z hz; omega

/-- An un-taking keeps the order of levels (R152). -/
theorem sorted_insertFront (x : Posted) {ys : List Posted} (h : ys.Pairwise (fun a b => b.record.level ≤ a.record.level)) :
    (insertFront x ys).Pairwise (fun a b => b.record.level ≤ a.record.level) := by
  induction ys with
  | nil => simp [insertFront]
  | cons y ys ih =>
    obtain ⟨h1, h2⟩ := List.pairwise_cons.mp h
    unfold insertFront; split
    · next hle =>
      refine List.pairwise_cons.mpr ⟨fun z hz => ?_, ih h2⟩
      rcases mem_insertFront.mp hz with rfl | hz
      · omega
      · exact h1 z hz
    · next hle =>
      refine List.pairwise_cons.mpr ⟨fun z hz => ?_, h⟩
      rcases List.mem_cons.mp hz with rfl | hz
      · omega
      · have := h1 z hz; omega

/-- Within its level a posted record stands last, and other levels keep their records (R146). -/
theorem level_insertTail (x : Posted) {ys : List Posted} (h : ys.Pairwise (fun a b => b.record.level ≤ a.record.level))
    (k : Nat) : (insertTail x ys).filter (fun z => decide (z.record.level = k)) =
      ys.filter (fun z => decide (z.record.level = k)) ++ if x.record.level = k then [x] else [] := by
  induction ys with
  | nil => by_cases e : x.record.level = k <;> simp [insertTail, e]
  | cons y ys ih =>
    obtain ⟨h1, h2⟩ := List.pairwise_cons.mp h
    unfold insertTail; split
    · rw [List.filter_cons, List.filter_cons, ih h2]
      split <;> simp
    · next hle =>
      by_cases e : x.record.level = k
      · have hn : (y :: ys).filter (fun z => decide (z.record.level = k)) = [] := by
          refine List.filter_eq_nil_iff.mpr (fun z hz => ?_)
          simp only [decide_eq_true_eq]
          rcases List.mem_cons.mp hz with rfl | hz
          · omega
          · have := h1 z hz; omega
        rw [List.filter_cons, hn]; simp [e]
      · rw [List.filter_cons]; simp [e]

/-- Within its level an un-taken record stands first, and other levels keep their records (R152). -/
theorem level_insertFront (x : Posted) {ys : List Posted} (h : ys.Pairwise (fun a b => b.record.level ≤ a.record.level))
    (k : Nat) : (insertFront x ys).filter (fun z => decide (z.record.level = k)) =
      (if x.record.level = k then [x] else []) ++ ys.filter (fun z => decide (z.record.level = k)) := by
  induction ys with
  | nil => by_cases e : x.record.level = k <;> simp [insertFront, e]
  | cons y ys ih =>
    obtain ⟨h1, h2⟩ := List.pairwise_cons.mp h
    unfold insertFront; split
    · next hle =>
      rw [List.filter_cons, List.filter_cons, ih h2]
      by_cases e : x.record.level = k
      · have : y.record.level ≠ k := by omega
        simp [this, e]
      · simp [e]
    · by_cases e : x.record.level = k <;> simp [List.filter_cons, e]

/-! ## Port K (R147, R148) -/

/-- The whole of a Port K posting: with a slot to be had the record is the newest of the list, and only the oldest may
have been evicted; with none the list is empty, the record is dropped and OVERFLOW is set. -/
theorem State.postK_cases (s : State) (b : Body) :
    (∃ n : Nat, (s.postK b).listK.getLast? = some ⟨n, ⟨0, false, b⟩⟩ ∧ (s.postK b).portK = s.portK) ∨
    (s.free = [] ∧ s.listK = [] ∧ s.postK b = s.latch .k evOverflow) := by
  have key : ∀ t : State, t.portK = s.portK → (∀ n rest, t.free = n :: rest → ∃ m : Nat,
      (t.placeK b).listK.getLast? = some ⟨m, ⟨0, false, b⟩⟩ ∧ (t.placeK b).portK = s.portK) := by
    intro t ht n rest h
    refine ⟨n, ?_, ?_⟩ <;> simp [State.placeK, h, ht]
  have hev : ∀ t : State, t.listK ≠ [] → ∃ n rest, t.evictK.free = n :: rest := by
    intro t ht
    match hl : t.listK with
    | [] => exact absurd hl ht
    | x :: xs =>
      simp only [State.evictK, hl]
      match t.free with
      | [] => exact ⟨x.slot, [], rfl⟩
      | a :: r => exact ⟨a, r ++ [x.slot], rfl⟩
  have hpk : ∀ t : State, t.evictK.portK = t.portK := by
    intro t; unfold State.evictK; split <;> rfl
  unfold State.postK
  extract_lets s1 s2
  have hs1 : s1.portK = s.portK := by show (ite _ _ _ : State).portK = _; split <;> simp [hpk]
  have hs2 : s2.portK = s.portK := by show (ite _ _ _ : State).portK = _; split <;> simp [hpk, hs1]
  match hf : s2.free with
  | n :: rest => exact .inl (key s2 hs2 n rest hf)
  | [] =>
    right
    have h1 : s1.free = [] := by
      by_contra hne
      have : s2 = s1 := if_neg hne
      exact hne (this ▸ hf)
    have h2 : s2 = s1.evictK := if_pos h1
    have h3 : s1.listK = [] := by
      by_contra hne
      obtain ⟨n, rest, e⟩ := hev s1 hne
      rw [h2, e] at hf; simp at hf
    have h4 : s1 = s := by
      by_cases hc : Config.listKCapacity ≤ s.listK.length
      · have e : s1 = s.evictK := if_pos hc
        have hne : s.listK ≠ [] := by
          intro a; rw [a] at hc; simp [Config.listKCapacity] at hc
        obtain ⟨n, rest, e'⟩ := hev s hne
        rw [e, e'] at h1; simp at h1
      · exact if_neg hc
    rw [h4] at h1 h3
    refine ⟨h1, h3, ?_⟩
    have e : s2 = s := by rw [h2, h4]; simp [State.evictK, h3]
    rw [e]; simp [State.placeK, h1]

theorem State.postK_listN (s : State) (b : Body) : (s.postK b).listN = s.listN := by
  have e : ∀ t : State, t.evictK.listN = t.listN := by intro t; unfold State.evictK; split <;> rfl
  have p : ∀ t : State, (t.placeK b).listN = t.listN := by
    intro t; unfold State.placeK; split
    · rfl
    · simp
  unfold State.postK; dsimp only
  split <;> split <;> simp [e, p]

/-- A posting keeps the Port K list within 32 records (R147). -/
theorem State.postK_length (s : State) (b : Body) (h : s.listK.length ≤ 32) : (s.postK b).listK.length ≤ 32 := by
  have e : ∀ t : State, t.evictK.listK.length = t.listK.length - 1 := by
    intro t; unfold State.evictK; split
    · next h => simp [h]
    · next h => simp [h]
  have p : ∀ t : State, (t.placeK b).listK.length ≤ t.listK.length + 1 := by
    intro t; unfold State.placeK; split <;> simp
  unfold State.postK; extract_lets s1 s2
  have h1 : s1.listK.length ≤ 31 := by
    by_cases hc : Config.listKCapacity ≤ s.listK.length
    · have : s1 = s.evictK := if_pos hc
      rw [this, e]; omega
    · have : s1 = s := if_neg hc
      rw [this]; simp only [Config.listKCapacity] at hc; omega
  have h2 : s2.listK.length ≤ 31 := by
    by_cases hc : s1.free = []
    · have : s2 = s1.evictK := if_pos hc
      rw [this, e]; omega
    · have : s2 = s1 := if_neg hc
      rw [this]; exact h1
  have := p s2
  omega

/-! ## Port N (R149, R155) -/

/-- The whole of a posting from the free list (R149). -/
theorem State.postFree_cases (s : State) (k : Kind) (b : Body) :
    (∃ n rest, s.free = n :: rest ∧
      s.postFree k b = { s with free := rest, listN := insertTail ⟨n, ⟨(s.level k).val, s.clockSet, b⟩⟩ s.listN }) ∨
    (s.free = [] ∧ s.postFree k b = s.latch .n evOverflow) := by
  unfold State.postFree; split
  · next n rest h => exact .inl ⟨n, rest, h, rfl⟩
  · next h => exact .inr ⟨h, rfl⟩

/-- The whole of the generation of a notice, by the steps of R155. -/
theorem State.notice_cases (s : State) (sub : Subject) (b : NoticeBody) :
    ((s.level b.kind = 0 ∨ s.suppressed sub b.kind = true) ∧ s.notice sub b = s) ∨
    (s.level b.kind ≠ 0 ∧ s.suppressed sub b.kind = false ∧
      s.notice sub b = s.postFree b.kind (.notice sub s.minute s.second b)) := by
  unfold State.notice; split
  · next h => exact .inl ⟨.inl h, rfl⟩
  · next h =>
    split
    · next h' => exact .inl ⟨.inr h', rfl⟩
    · next h' => exact .inr ⟨h, by simpa using h', rfl⟩

theorem State.postFree_listK (s : State) (k : Kind) (b : Body) : (s.postFree k b).listK = s.listK := by
  rcases s.postFree_cases k b with ⟨n, rest, _, e⟩ | ⟨_, e⟩ <;> rw [e]; simp

theorem State.notice_listK (s : State) (sub : Subject) (b : NoticeBody) : (s.notice sub b).listK = s.listK := by
  rcases s.notice_cases sub b with ⟨_, e⟩ | ⟨_, _, e⟩ <;> rw [e]
  exact s.postFree_listK _ _

/-- A notice keeps every posted record. -/
theorem State.mem_notice {s : State} {sub : Subject} {b : NoticeBody} {x : Posted} (h : x ∈ s.listN) :
    x ∈ (s.notice sub b).listN := by
  rcases s.notice_cases sub b with ⟨_, e⟩ | ⟨_, _, e⟩ <;> rw [e]
  · exact h
  · rcases s.postFree_cases b.kind (.notice sub s.minute s.second b) with ⟨n, rest, _, e⟩ | ⟨_, e⟩ <;> rw [e]
    · exact mem_insertTail.mpr (.inr h)
    · simpa using h

/-- A notice whose kind has a level, that nothing suppresses and for which a slot is free, is posted (R155). -/
theorem State.notice_posts {s : State} {sub : Subject} {b : NoticeBody} {n : Nat} {rest : List Nat}
    (h : s.level b.kind ≠ 0) (hs : s.suppressed sub b.kind = false) (hf : s.free = n :: rest) :
    s.notice sub b = { s with
      free := rest
      listN := insertTail ⟨n, ⟨(s.level b.kind).val, s.clockSet, .notice sub s.minute s.second b⟩⟩ s.listN } := by
  rcases s.notice_cases sub b with ⟨a, _⟩ | ⟨_, _, e⟩
  · exact absurd a (by simp [h, hs])
  · rcases s.postFree_cases b.kind (.notice sub s.minute s.second b) with ⟨m, r, hm, e'⟩ | ⟨hn, _⟩
    · rw [hf] at hm
      obtain ⟨rfl, rfl⟩ := List.cons.inj hm
      rw [e, e']
    · rw [hf] at hn; exact absurd hn (List.cons_ne_nil _ _)

/-- A kind that is not tied to a dock or a line is never suppressed (R156). -/
theorem State.suppressed_of_not_tied (s : State) (sub : Subject) {k : Kind} (h : k.tied = false) :
    s.suppressed sub k = false := by
  simp [State.suppressed, h]

end Sys2Proof.Machine
end

