-- ==== Sys2Proof/Laws/RideFrames.lean ====
section
/-! SUPPORT. Frames of what happens to rides, docks and lines: clock, classes, sweep, levels, settings, waiting
commands and the ports' items stand through all of it (R184 and the rules of chapters 4 to 7). -/

namespace Sys2Proof.Machine

/-- A change of credentials, rides, docks, release queue, grants, lines and pool alone. -/
theorem RideFrame.of_eq {s t : State} (h : t = { s with
    creds := t.creds, rides := t.rides, docks := t.docks, releaseQ := t.releaseQ, grants := t.grants,
    lineA := t.lineA, lineB := t.lineB, free := t.free, listN := t.listN, listK := t.listK }) : RideFrame s t := by
  rw [h]
  exact ⟨SameStation.refl s, PortsKept.refl s⟩

theorem State.updDock_ride (s : State) (d : DockIx) (f : Dock → Dock) : RideFrame s (s.updDock d f) :=
  RideFrame.of_eq rfl
theorem State.updLine_ride (s : State) (l : Line) (f : LineCtl → LineCtl) : RideFrame s (s.updLine l f) := by
  cases l <;> exact RideFrame.of_eq rfl
theorem State.updRide_ride (s : State) (n : RideNo) (f : Ride → Ride) : RideFrame s (s.updRide n f) := RideFrame.of_eq rfl
theorem State.dropRide_ride (s : State) (n : RideNo) : RideFrame s (s.dropRide n) := RideFrame.of_eq rfl
theorem State.updCred_ride (s : State) (c : CredNo) (f : Cred → Cred) : RideFrame s (s.updCred c f) := RideFrame.of_eq rfl
theorem State.dropCred_ride (s : State) (c : CredNo) : RideFrame s (s.dropCred c) := RideFrame.of_eq rfl
theorem State.leaveQueue_ride (s : State) (d : DockIx) : RideFrame s (s.leaveQueue d) := RideFrame.of_eq rfl
theorem State.startRound_ride (s : State) (l : Line) : RideFrame s (s.startRound l) := s.updLine_ride l _
theorem settleOpen_ride (s : State) (d : DockIx) (b : Bool) : RideFrame s (settleOpen s d b) := RideFrame.of_eq rfl
theorem State.sendOpen_ride (s : State) (d : DockIx) : RideFrame s (s.sendOpen d) := RideFrame.of_eq rfl
theorem State.clearCounts_ride (s : State) (d : DockIx) (t : Turn) : RideFrame s (s.clearCounts d t) := RideFrame.of_eq rfl
theorem State.latch_ride (s : State) (p : Port) (e : Byte) : RideFrame s (s.latch p e) := (s.latch_pool p e).ride

theorem State.endRideOf_ride (s : State) (c : CredNo) : RideFrame s (s.endRideOf c) := by
  unfold State.endRideOf; split
  · exact RideFrame.refl s
  · split
    · exact s.dropCred_ride c
    · exact s.updCred_ride c _

theorem State.relatchDock_ride (s : State) (d : DockIx) : RideFrame s (s.relatchDock d) :=
  (s.updDock_ride d _).trans (State.setPending_frame _ d .closeCmd).ride

theorem State.relatchRide_ride (s : State) (r : Ride) : RideFrame s (s.relatchRide r) :=
  ((s.updRide_ride r.number _).trans (State.returnGrant_frame _ r.dock).ride).trans (State.relatchDock_ride _ r.dock)

theorem State.cancelRide_ride (s : State) (r : Ride) (o : RideOutcome) : RideFrame s (s.cancelRide r o) := by
  unfold State.cancelRide; dsimp only
  exact ((((((s.freeSlot_pool r.slot).ride.trans (State.endRideOf_ride _ _)).trans (State.postK_pool _ _).ride).trans
    (State.dropRide_ride _ _)).trans (State.leaveQueue_ride _ _)).trans (State.updDock_ride _ _ _)).trans
    (State.returnGrant_frame _ _).ride

theorem State.cancelForCred_ride (s : State) (n : RideNo) : RideFrame s (s.cancelForCred n) := by
  unfold State.cancelForCred; split
  · split
    · exact s.cancelRide_ride _ _
    · exact RideFrame.refl s
  · exact RideFrame.refl s

theorem State.cancelQueuedOf_ride (s : State) (f : CredNo → Bool) : RideFrame s (s.cancelQueuedOf f) := by
  unfold State.cancelQueuedOf
  generalize s.queuedRidesOf f = ns
  induction ns generalizing s with
  | nil => exact RideFrame.refl s
  | cons n ns ih => exact (s.cancelForCred_ride n).trans (ih _)

theorem State.acknowledge_ride (s : State) (r : Ride) : RideFrame s (s.acknowledge r) := RideFrame.of_eq rfl

theorem State.takeUp_ride (s : State) (r : Ride) (late : Bool) : RideFrame s (s.takeUp r late) := by
  unfold State.takeUp; dsimp only
  exact ((((s.updRide_ride _ _).trans (State.updDock_ride _ _ _)).trans (State.returnGrant_frame _ _).ride).trans
    (State.postK_pool _ _).ride).trans (State.notice_pool _ _ _).ride

theorem State.closeRide_ride (s : State) (r : Ride) (k : TripKind) (d : Option DockIx) (m : Minute) (q : Bool) :
    RideFrame s (s.closeRide r k d m q) := by
  unfold State.closeRide; dsimp only
  exact (((s.updCred_ride _ _).trans (State.endRideOf_ride _ _)).trans (State.postN_pool _ _ _ _).ride).trans
    (State.dropRide_ride _ _)

theorem State.closeEarly_ride (s : State) (r : Ride) (k : TripKind) (d : Option DockIx) (m : Minute) :
    RideFrame s (s.closeEarly r k d m) := by
  unfold State.closeEarly; dsimp only
  exact (((s.closeRide_ride _ _ _ _ _).trans (State.postK_pool _ _).ride).trans (State.returnGrant_frame _ _).ride).trans
    (State.relatchDock_ride _ _)

theorem State.finishRide_ride (s : State) (r : Ride) (k : TripKind) (d : Option DockIx) (m : Minute) :
    RideFrame s (s.finishRide r k d m) := by
  unfold State.finishRide; split
  · exact s.closeRide_ride _ _ _ _ _
  · exact s.closeEarly_ride _ _ _ _

theorem State.ageOut_ride (s : State) : RideFrame s s.ageOut := by
  unfold State.ageOut; split
  · exact RideFrame.refl s
  · dsimp only
    exact ((s.endRideOf_ride _).trans (State.postN_pool _ _ _ _).ride).trans (State.dropRide_ride _ _)

theorem State.returnBike_ride (s : State) (d : DockIx) (t : BikeTag) : RideFrame s (s.returnBike d t) := by
  unfold State.returnBike; split
  · exact (s.foreignReturn_pool d t).ride
  · split
    · exact (s.foreignReturn_pool d t).ride
    · split
      · exact (s.foreignReturn_pool d t).ride
      · exact s.finishRide_ride _ _ _ _

theorem State.loseLink_ride (s : State) (d : DockIx) : RideFrame s (s.loseLink d) := by
  unfold State.loseLink; dsimp only; split
  · exact (s.updDock_ride d _).trans (State.notice_pool _ _ _).ride
  · split
    · exact ((s.updDock_ride d _).trans (State.cancelRide_ride _ _ _)).trans (State.notice_pool _ _ _).ride
    · exact ((s.updDock_ride d _).trans (State.relatchRide_ride _ _)).trans (State.notice_pool _ _ _).ride
    · exact (s.updDock_ride d _).trans (State.notice_pool _ _ _).ride
    · exact s.updDock_ride d _

theorem State.failTurn_ride (s : State) (d : DockIx) : RideFrame s (s.failTurn d) := by
  unfold State.failTurn; dsimp only; split
  · exact RideFrame.refl s
  · split
    · exact (s.updDock_ride d _).trans (State.loseLink_ride _ _)
    · exact s.updDock_ride d _

theorem State.jamDock_ride (s : State) (d : DockIx) (c : JamCause) (n : Option RideNo) :
    RideFrame s (s.jamDock d c n) := by
  unfold State.jamDock; split
  · exact RideFrame.refl s
  · exact (s.updDock_ride d _).trans (State.notice_pool _ _ _).ride

theorem State.readerFaultDock_ride (s : State) (d : DockIx) : RideFrame s (s.readerFaultDock d) :=
  (s.updDock_ride d _).trans (State.notice_pool _ _ _).ride

theorem State.bikeGone_ride (s : State) (d : DockIx) (n : Option RideNo) : RideFrame s (s.bikeGone d n) :=
  (s.updDock_ride d _).trans (State.notice_pool _ _ _).ride

theorem State.retag_ride (s : State) (d : DockIx) (t : BikeTag) : RideFrame s (s.retag d t) := by
  unfold State.retag; dsimp only; split
  · exact RideFrame.refl s
  · split
    · exact (s.updDock_ride d _).trans (State.returnBike_ride _ _ _)
    · exact s.updDock_ride d _

theorem State.relatchAttempt_ride (s : State) (d : DockIx) (c : Bool) (n : Option RideNo) :
    RideFrame s (s.relatchAttempt d c n) := by
  unfold State.relatchAttempt; split
  · split
    · exact s.jamDock_ride _ _ _
    · exact s.updDock_ride d _
  · exact RideFrame.refl s

theorem State.rideReply_ride (s : State) (d : DockIx) (x : Ride) (r : StatusReply) (c : Bool) :
    RideFrame s (s.rideReply d x r c) := by
  unfold State.rideReply; split
  · split
    · split
      · exact s.acknowledge_ride x
      · exact (s.acknowledge_ride x).trans (State.takeUp_ride _ _ _)
    · exact RideFrame.refl s
  · split
    · exact RideFrame.refl s
    · exact s.takeUp_ride _ _
  · split
    · exact s.relatchAttempt_ride _ _ _
    · exact s.takeUp_ride _ _
  · exact RideFrame.refl s

theorem State.afterCancel_ride (s : State) (d : DockIx) (x : Ride) (r : StatusReply) :
    RideFrame s (s.afterCancel d x r) := by
  unfold State.afterCancel; split
  · exact s.jamDock_ride _ _ _
  · split
    · split
      · exact s.retag_ride _ _
      · exact s.jamDock_ride _ _ _
    · exact s.bikeGone_ride _ _

theorem State.clearFault_ride (s : State) (d : DockIx) (r : StatusReply) : RideFrame s (s.clearFault d r) := by
  unfold State.clearFault; split
  · exact (s.updDock_ride d _).trans (State.retag_ride _ _ _)
  · split
    · exact s.updDock_ride d _
    · exact s.bikeGone_ride _ _

theorem State.plainReply_ride (s : State) (d : DockIx) (r : StatusReply) (c : Bool) :
    RideFrame s (s.plainReply d r c) := by
  unfold State.plainReply; split
  · split
    · exact s.updDock_ride d _
    · split
      · exact s.updDock_ride d _
      · exact (s.updDock_ride d _).trans (State.relatchDock_ride _ _)
  · split
    · exact (s.updDock_ride d _).trans (State.returnBike_ride _ _ _)
    · exact RideFrame.refl s
  · split
    · exact s.bikeGone_ride _ _
    · split
      · exact s.retag_ride _ _
      · exact s.relatchDock_ride _
  · split
    · exact s.updDock_ride d _
    · split
      · exact (s.updDock_ride d _).trans (State.retag_ride _ _ _)
      · exact s.relatchAttempt_ride _ _ _
  · split
    · exact RideFrame.refl s
    · exact s.clearFault_ride _ _
  all_goals exact RideFrame.refl s

theorem State.dockReply_ride (s : State) (d : DockIx) (r : StatusReply) (c : Bool) : RideFrame s (s.dockReply d r c) := by
  unfold State.dockReply; split
  · exact s.jamDock_ride _ _ _
  · split
    · exact s.readerFaultDock_ride _
    · exact s.plainReply_ride _ _ _

theorem State.linkNotices_pool (s : State) (d : DockIx) (b : Dock) (r : StatusReply) :
    PoolFrame s (s.linkNotices d b r) := by
  unfold State.linkNotices; dsimp only
  split <;> split <;>
    first
      | exact (State.notice_pool _ _ _).trans (State.notice_pool _ _ _)
      | exact State.notice_pool _ _ _
      | exact PoolFrame.refl s

/-- Handling a good STATUS reply touches the presentation queue only by the offer of a token (R45, R90). -/
theorem State.offerToken_ride (s : State) (d : DockIx) (r : StatusReply) :
    RideFrame { s with queue := (s.offerToken d r).queue, holdOff := (s.offerToken d r).holdOff } (s.offerToken d r) := by
  unfold State.offerToken; split
  · split
    · exact RideFrame.refl s
    · unfold State.offer; split
      · exact RideFrame.refl s
      · exact RideFrame.of_eq rfl
  · exact RideFrame.refl s

/-- The rest of the handling of a good STATUS reply, once the token has been offered (R90). -/
theorem State.handleStatus_ride (s : State) (d : DockIx) (r : StatusReply) (c : Bool) :
    RideFrame ((s.updDock d (fun x => { x with link := .online })).offerToken d r) (s.handleStatus d r c) := by
  unfold State.handleStatus; dsimp only
  refine (State.updDock_ride _ d (fun x => { x with powerLow := r.powerLow })).trans ?_
  split
  · split
    · exact ((State.cancelRide_ride _ _ _).trans (State.linkNotices_pool _ _ _ _).ride).trans (State.afterCancel_ride _ _ _ _)
    · exact (State.linkNotices_pool _ _ _ _).ride.trans (State.rideReply_ride _ _ _ _ _)
  · exact (State.linkNotices_pool _ _ _ _).ride.trans (State.dockReply_ride _ _ _ _)

/-! ## Lines -/

theorem State.endTurn_ride (s : State) (l : Line) : RideFrame s (s.endTurn l) := by
  unfold State.endTurn; split
  · exact RideFrame.refl s
  · split
    · exact s.updLine_ride l _
    · split
      · exact (s.updLine_ride l _).trans (State.startRound_ride _ _)
      · exact s.updLine_ride l _

theorem State.abandonTurn_ride (s : State) (l : Line) : RideFrame s (s.abandonTurn l) := by
  unfold State.abandonTurn; split
  · exact RideFrame.refl s
  · exact (settleOpen_ride _ _ _).trans (State.updLine_ride _ _ _)

theorem State.latchLineIf_ride (s : State) (b : Bool) : RideFrame s (s.latchLineIf b) := by
  unfold State.latchLineIf; split
  · exact s.latch_ride _ _
  · exact RideFrame.refl s

theorem State.enterBreak_ride (s : State) (l : Line) (c : BreakCause) : RideFrame s (s.enterBreak l c) :=
  ((s.abandonTurn_ride l).trans (State.updLine_ride _ _ _)).trans (State.latchLineIf_ride _ _)

theorem State.disableLine_ride (s : State) (l : Line) : RideFrame s (s.disableLine l) :=
  ((s.abandonTurn_ride l).trans (State.updLine_ride _ _ _)).trans (State.latchLineIf_ride _ _)

theorem State.lineError_ride (s : State) (l : Line) : RideFrame s (s.lineError l) := by
  unfold State.lineError; dsimp only; split
  · exact ((s.updLine_ride l _).trans (State.notice_pool _ _ _).ride).trans (State.enterBreak_ride _ _ _)
  · exact s.updLine_ride l _

theorem State.endFailed_ride (s : State) (l : Line) (t : Turn) (e : Bool) : RideFrame s (s.endFailed l t e) := by
  have h := (((settleOpen_ride s (dockIx l t.addr) true).trans (State.endTurn_ride _ l)).trans
    (State.updDock_ride _ (dockIx l t.addr) (fun x => { x with busy := 0 }))).trans
    (State.failTurn_ride _ (dockIx l t.addr))
  unfold State.endFailed; dsimp only; split
  · exact h.trans (State.lineError_ride _ _)
  · exact h

theorem State.endBusy_ride (s : State) (l : Line) (t : Turn) : RideFrame s (s.endBusy l t) := by
  unfold State.endBusy
  extract_lets d before s1 s2
  have h1 : RideFrame s s1 :=
    ((settleOpen_ride s d false).trans (State.endTurn_ride _ l)).trans (State.updDock_ride _ d _)
  have h2 : RideFrame s s2 := by
    show RideFrame s (ite _ _ _)
    split
    · exact h1.trans (State.notice_pool _ _ _).ride
    · exact h1
  clear_value s2
  split
  · exact (h2.trans (State.updDock_ride _ _ _)).trans (State.failTurn_ride _ _)
  · exact h2.trans (State.updDock_ride _ _ _)

theorem State.recover_ride (s : State) (l : Line) : RideFrame s (s.recover l) := by
  unfold State.recover; dsimp only
  exact ((((s.updLine_ride l _).trans (State.latch_ride _ _ _)).trans (State.notice_pool _ _ _).ride).trans
    (State.issueGrants_frame _).ride).trans (State.startRound_ride _ _)

end Sys2Proof.Machine
end

