-- ==== Sys2Proof/Laws/Tables.lean ====
section
/-! SUPPORT. The credential table and the ride table as maps by number: what an insertion, a change and a removal do to
the lookup, to the order and to the counts (R20, R64). -/

namespace Sys2Proof.Machine

/-! ## Insertion in order -/

theorem find_insertCred (e : Cred) (xs : List Cred) (c : CredNo) :
    (insertCred e xs).find? (fun x => decide (x.number = c)) =
      if c = e.number then some e else xs.find? (fun x => decide (x.number = c)) := by
  induction xs with
  | nil => by_cases h : e.number = c <;> simp [insertCred, h, eq_comm]
  | cons x xs ih =>
    unfold insertCred
    split
    · by_cases h : e.number = c
      · simp [h]
      · simp [h, Ne.symm h]
    · split
      · next h1 h2 =>
        by_cases h : c = e.number
        · subst h; simp
        · have h3 : e.number ≠ c := fun a => h a.symm
          have h4 : x.number ≠ c := fun a => h (h2 ▸ a.symm)
          simp [h, h3, h4]
      · next h1 h2 =>
        by_cases h : x.number = c
        · have h3 : c ≠ e.number := fun a => h2 (a ▸ h.symm)
          simp [h, h3]
        · simpa [h] using ih

theorem find_insertRide (e : Ride) (xs : List Ride) (c : RideNo) :
    (insertRide e xs).find? (fun x => decide (x.number = c)) =
      if c = e.number then some e else xs.find? (fun x => decide (x.number = c)) := by
  induction xs with
  | nil => by_cases h : e.number = c <;> simp [insertRide, h, eq_comm]
  | cons x xs ih =>
    unfold insertRide
    split
    · by_cases h : e.number = c
      · simp [h]
      · simp [h, Ne.symm h]
    · split
      · next h1 h2 =>
        by_cases h : c = e.number
        · subst h; simp
        · have h3 : e.number ≠ c := fun a => h a.symm
          have h4 : x.number ≠ c := fun a => h (h2 ▸ a.symm)
          simp [h, h3, h4]
      · next h1 h2 =>
        by_cases h : x.number = c
        · have h3 : c ≠ e.number := fun a => h2 (a ▸ h.symm)
          simp [h, h3]
        · simpa [h] using ih

theorem mem_insertCred {e x : Cred} {xs : List Cred} (h : x ∈ insertCred e xs) : x = e ∨ x ∈ xs := by
  induction xs with
  | nil => simpa [insertCred] using h
  | cons y ys ih =>
    unfold insertCred at h
    split at h
    · simpa using h
    · split at h
      · rcases List.mem_cons.mp h with h | h
        · exact .inl h
        · exact .inr (List.mem_cons_of_mem _ h)
      · rcases List.mem_cons.mp h with h | h
        · exact .inr (h ▸ List.mem_cons_self)
        · rcases ih h with h | h
          · exact .inl h
          · exact .inr (List.mem_cons_of_mem _ h)

theorem mem_insertRide {e x : Ride} {xs : List Ride} (h : x ∈ insertRide e xs) : x = e ∨ x ∈ xs := by
  induction xs with
  | nil => simpa [insertRide] using h
  | cons y ys ih =>
    unfold insertRide at h
    split at h
    · simpa using h
    · split at h
      · rcases List.mem_cons.mp h with h | h
        · exact .inl h
        · exact .inr (List.mem_cons_of_mem _ h)
      · rcases List.mem_cons.mp h with h | h
        · exact .inr (h ▸ List.mem_cons_self)
        · rcases ih h with h | h
          · exact .inl h
          · exact .inr (List.mem_cons_of_mem _ h)

/-- Insertion keeps the entries in strictly ascending order (R20). -/
theorem sorted_insertCred (e : Cred) {xs : List Cred} (h : xs.Pairwise (fun a b => a.number < b.number)) :
    (insertCred e xs).Pairwise (fun a b => a.number < b.number) := by
  induction xs with
  | nil => simp [insertCred]
  | cons x xs ih =>
    obtain ⟨h1, h2⟩ := List.pairwise_cons.mp h
    unfold insertCred
    split
    · next hlt =>
      refine List.pairwise_cons.mpr ⟨fun y hy => ?_, h⟩
      rcases List.mem_cons.mp hy with rfl | hy
      · exact hlt
      · exact BitVec.lt_trans hlt (h1 y hy)
    · split
      · next heq => exact List.pairwise_cons.mpr ⟨fun y hy => heq ▸ h1 y hy, h2⟩
      · next hn hne =>
        refine List.pairwise_cons.mpr ⟨fun y hy => ?_, ih h2⟩
        rcases mem_insertCred hy with rfl | hy
        · rw [BitVec.lt_def] at *
          have : y.number.toNat ≠ x.number.toNat := fun a => hne (BitVec.eq_of_toNat_eq a)
          omega
        · exact h1 y hy

/-- Insertion keeps the rides in strictly ascending order (R64). -/
theorem sorted_insertRide (e : Ride) {xs : List Ride} (h : xs.Pairwise (fun a b => a.number < b.number)) :
    (insertRide e xs).Pairwise (fun a b => a.number < b.number) := by
  induction xs with
  | nil => simp [insertRide]
  | cons x xs ih =>
    obtain ⟨h1, h2⟩ := List.pairwise_cons.mp h
    unfold insertRide
    split
    · next hlt =>
      refine List.pairwise_cons.mpr ⟨fun y hy => ?_, h⟩
      rcases List.mem_cons.mp hy with rfl | hy
      · exact hlt
      · exact BitVec.lt_trans hlt (h1 y hy)
    · split
      · next heq => exact List.pairwise_cons.mpr ⟨fun y hy => heq ▸ h1 y hy, h2⟩
      · next hn hne =>
        refine List.pairwise_cons.mpr ⟨fun y hy => ?_, ih h2⟩
        rcases mem_insertRide hy with rfl | hy
        · rw [BitVec.lt_def] at *
          have : y.number.toNat ≠ x.number.toNat := fun a => hne (BitVec.eq_of_toNat_eq a)
          omega
        · exact h1 y hy

/-- A ride of a new number adds one to every list fact: the table is a permutation of the old one with it. -/
theorem perm_insertRide (e : Ride) {xs : List Ride} (h : ∀ x ∈ xs, x.number ≠ e.number) :
    (insertRide e xs).Perm (e :: xs) := by
  induction xs with
  | nil => exact List.Perm.refl _
  | cons x xs ih =>
    unfold insertRide
    split
    · exact List.Perm.refl _
    · split
      · next heq => exact absurd heq.symm (h x List.mem_cons_self)
      · exact ((ih (fun y hy => h y (List.mem_cons_of_mem _ hy))).cons x).trans (List.Perm.swap e x xs)

/-! ## Lookup after each update -/

theorem State.findCred_putCred (s : State) (e : Cred) (c : CredNo) :
    (s.putCred e).findCred c = if c = e.number then some e else s.findCred c := find_insertCred e s.creds c

theorem State.findRide_putRide (s : State) (r : Ride) (n : RideNo) :
    (s.putRide r).findRide n = if n = r.number then some r else s.findRide n := find_insertRide r s.rides n

theorem find_map_cred {f : Cred → Cred} {c : CredNo} (hf : ∀ e, (f e).number = e.number) (xs : List Cred) (c' : CredNo) :
    (xs.map (fun e => if e.number = c then f e else e)).find? (fun e => decide (e.number = c')) =
      (xs.find? (fun e => decide (e.number = c'))).map (fun e => if c' = c then f e else e) := by
  induction xs with
  | nil => rfl
  | cons x xs ih =>
    have hx : (if x.number = c then f x else x).number = x.number := by split <;> simp [hf]
    rw [List.map_cons, List.find?_cons, List.find?_cons, hx]
    by_cases h : x.number = c'
    · simp [h]
    · simpa [h] using ih

theorem find_map_ride {f : Ride → Ride} {c : RideNo} (hf : ∀ e, (f e).number = e.number) (xs : List Ride) (c' : RideNo) :
    (xs.map (fun e => if e.number = c then f e else e)).find? (fun e => decide (e.number = c')) =
      (xs.find? (fun e => decide (e.number = c'))).map (fun e => if c' = c then f e else e) := by
  induction xs with
  | nil => rfl
  | cons x xs ih =>
    have hx : (if x.number = c then f x else x).number = x.number := by split <;> simp [hf]
    rw [List.map_cons, List.find?_cons, List.find?_cons, hx]
    by_cases h : x.number = c'
    · simp [h]
    · simpa [h] using ih

theorem State.findCred_updCred (s : State) (c c' : CredNo) {f : Cred → Cred} (hf : ∀ e, (f e).number = e.number) :
    (s.updCred c f).findCred c' = (s.findCred c').map (fun e => if c' = c then f e else e) :=
  find_map_cred hf s.creds c'

theorem State.findRide_updRide (s : State) (n n' : RideNo) {f : Ride → Ride} (hf : ∀ r, (f r).number = r.number) :
    (s.updRide n f).findRide n' = (s.findRide n').map (fun r => if n' = n then f r else r) :=
  find_map_ride hf s.rides n'

theorem State.findCred_dropCred (s : State) (c c' : CredNo) :
    (s.dropCred c).findCred c' = if c' = c then none else s.findCred c' := by
  unfold State.dropCred State.findCred
  simp only [List.find?_filter]
  split
  · next h =>
    refine List.find?_eq_none.mpr (fun x _ a => ?_)
    simp [h] at a
  · next h =>
    refine congrArg (fun p => s.creds.find? p) (funext (fun x => ?_))
    by_cases hx : x.number = c'
    · simp [hx, h]
    · simp [hx]

theorem State.findRide_dropRide (s : State) (n n' : RideNo) :
    (s.dropRide n).findRide n' = if n' = n then none else s.findRide n' := by
  unfold State.dropRide State.findRide
  simp only [List.find?_filter]
  split
  · next h =>
    refine List.find?_eq_none.mpr (fun x _ a => ?_)
    simp [h] at a
  · next h =>
    refine congrArg (fun p => s.rides.find? p) (funext (fun x => ?_))
    by_cases hx : x.number = n'
    · simp [hx, h]
    · simp [hx]

/-! ## What a found entry is -/

theorem State.findCred_some {s : State} {c : CredNo} {e : Cred} (h : s.findCred c = some e) : e ∈ s.creds ∧ e.number = c :=
  ⟨List.mem_of_find?_eq_some h, by simpa using List.find?_some h⟩

theorem State.findRide_some {s : State} {n : RideNo} {r : Ride} (h : s.findRide n = some r) : r ∈ s.rides ∧ r.number = n :=
  ⟨List.mem_of_find?_eq_some h, by simpa using List.find?_some h⟩

theorem State.rideAt_some {s : State} {d : DockIx} {r : Ride} (h : s.rideAt d = some r) :
    r ∈ s.rides ∧ r.dock = d ∧ r.state ≠ .opened :=
  ⟨List.mem_of_find?_eq_some h, by simpa using List.find?_some h⟩

theorem State.rideOfTag_some {s : State} {t : BikeTag} {r : Ride} (h : s.rideOfTag t = some r) : r ∈ s.rides ∧ r.tag = t :=
  ⟨List.mem_of_find?_eq_some h, by simpa using List.find?_some h⟩

/-- With distinct numbers, every entry is found by its number. -/
theorem State.findCred_of_mem {s : State} (hs : CredsSorted s) {e : Cred} (h : e ∈ s.creds) :
    s.findCred e.number = some e := by
  unfold State.findCred
  have hs' := hs
  unfold CredsSorted at hs'
  generalize s.creds = xs at hs' h
  induction xs with
  | nil => simp at h
  | cons x xs ih =>
    obtain ⟨h1, h2⟩ := List.pairwise_cons.mp hs'
    rcases List.mem_cons.mp h with rfl | h
    · simp
    · have hlt := h1 e h
      have : x.number ≠ e.number := fun a => BitVec.lt_irrefl _ (a ▸ hlt)
      simp [this, ih h2 h]

theorem State.findRide_of_mem {s : State} (hs : RidesSorted s) {r : Ride} (h : r ∈ s.rides) :
    s.findRide r.number = some r := by
  unfold State.findRide
  have hs' := hs
  unfold RidesSorted at hs'
  generalize s.rides = xs at hs' h
  induction xs with
  | nil => simp at h
  | cons x xs ih =>
    obtain ⟨h1, h2⟩ := List.pairwise_cons.mp hs'
    rcases List.mem_cons.mp h with rfl | h
    · simp
    · have hlt := h1 r h
      have : x.number ≠ r.number := fun a => BitVec.lt_irrefl _ (a ▸ hlt)
      simp [this, ih h2 h]

/-- The end of a ride at its credential, by lookup (R22, R29). -/
theorem State.findCred_endRideOf (s : State) (c c' : CredNo) :
    (s.endRideOf c).findCred c' = if c' = c then (s.findCred c).bind cancelledEntry else s.findCred c' := by
  unfold State.endRideOf
  split
  · next h =>
    split
    · next e => rw [e, h]; rfl
    · rfl
  · next e h =>
    have hn := (State.findCred_some h).2
    split
    · next hl =>
      rw [State.findCred_dropCred]
      split
      · have : e.openRides ≤ 1 := by omega
        simp [h, cancelledEntry, hl.1, this]
      · rfl
    · next hl =>
      rw [State.findCred_updCred s c c' (f := fun x => { x with openRides := x.openRides - 1 }) (fun _ => rfl)]
      by_cases e1 : c' = c
      · subst e1
        have : ¬ (e.state = .lapsed ∧ e.openRides ≤ 1) := fun a => hl ⟨a.1, by omega⟩
        simp [h, cancelledEntry, this]
      · simp [e1]

end Sys2Proof.Machine
end

