-- ==== Sys2Proof/Laws/Rides.lean ====
section
/-! SUPPORT. What each ride operation does, said once: cancellation, relatching, take-up and close (R69, R71, R74, R80). -/

namespace Sys2Proof.Machine

theorem PoolFrame.findCred {s t : State} (h : PoolFrame s t) (c : CredNo) : t.findCred c = s.findCred c := by
  unfold State.findCred; rw [h.creds]
theorem LineFrame.findCred {s t : State} (h : LineFrame s t) (c : CredNo) : t.findCred c = s.findCred c := by
  unfold State.findCred; rw [h.creds]

theorem State.endRideOf_rides (s : State) (c : CredNo) : (s.endRideOf c).rides = s.rides := by
  unfold State.endRideOf; split
  · rfl
  · split <;> rfl
theorem State.endRideOf_docks (s : State) (c : CredNo) : (s.endRideOf c).docks = s.docks := by
  unfold State.endRideOf; split
  · rfl
  · split <;> rfl
theorem State.endRideOf_pool (s : State) (c : CredNo) : SamePool s (s.endRideOf c) := by
  unfold State.endRideOf; split
  · exact ⟨rfl, rfl, rfl⟩
  · split <;> exact ⟨rfl, rfl, rfl⟩
theorem State.endRideOf_releaseQ (s : State) (c : CredNo) : (s.endRideOf c).releaseQ = s.releaseQ := by
  unfold State.endRideOf; split
  · rfl
  · split <;> rfl
theorem State.endRideOf_grants (s : State) (c : CredNo) : (s.endRideOf c).grants = s.grants := by
  unfold State.endRideOf; split
  · rfl
  · split <;> rfl
theorem State.endRideOf_lines (s : State) (c : CredNo) : (s.endRideOf c).lineA = s.lineA ∧ (s.endRideOf c).lineB = s.lineB := by
  unfold State.endRideOf; split
  · exact ⟨rfl, rfl⟩
  · split <;> exact ⟨rfl, rfl⟩

/-- The state of a cancellation just before the grant is returned. -/
def State.cancelled (s : State) (r : Ride) (o : RideOutcome) : State :=
  (((((s.freeSlot r.slot).endRideOf r.cred).postK (.outcome r.number r.cred r.dock o)).dropRide r.number).leaveQueue
    r.dock).updDock r.dock Dock.toDocked

theorem State.cancelRide_eq (s : State) (r : Ride) (o : RideOutcome) :
    s.cancelRide r o = (s.cancelled r o).returnGrant r.dock := rfl

/-- Everything a cancellation does (R74). -/
structure CancelSpec (s t : State) (r : Ride) (o : RideOutcome) : Prop where
  frame   : RideFrame s t
  rides   : t.rides = s.rides.filter (fun x => decide (x.number ≠ r.number))
  cred    : ∀ c, t.findCred c = if c = r.cred then (s.findCred c).bind cancelledEntry else s.findCred c
  posted  : PostedK t (.outcome r.number r.cred r.dock o)
  listN   : t.listN = s.listN
  dock    : t.dock r.dock = (s.dock r.dock).toDocked
  others  : ∀ d, d ≠ r.dock → t.dock d = { s.dock d with pending := (t.dock d).pending }
  queue   : t.releaseQ.map (fun e => (e.dock, e.ride)) =
    (s.releaseQ.filter (fun e => decide (e.dock ≠ r.dock))).map (fun e => (e.dock, e.ride))
  grant   : r.dock ∉ t.grants

theorem State.cancelRide_spec (s : State) (r : Ride) (o : RideOutcome) : CancelSpec s (s.cancelRide r o) r o := by
  have hrf := s.cancelRide_ride r o
  have hlf : LineFrame (s.cancelled r o) (s.cancelRide r o) := State.returnGrant_frame _ _
  have e1 := State.endRideOf_pool (s.freeSlot r.slot) r.cred
  have hpk := State.postK_pool ((s.freeSlot r.slot).endRideOf r.cred) (.outcome r.number r.cred r.dock o)
  have hq : ∀ e ∈ (s.cancelled r o).releaseQ, e.dock ≠ r.dock := by
    intro e he
    simp only [State.cancelled, State.updDock_releaseQ, State.releaseQ_leaveQueue] at he
    simpa using (List.mem_filter.mp he).2
  have hdk : ∀ d, (s.cancelled r o).dock d = if d = r.dock then (s.dock r.dock).toDocked else s.dock d := by
    intro d
    have hb : ∀ j, ((((s.freeSlot r.slot).endRideOf r.cred).postK (.outcome r.number r.cred r.dock o)).dropRide
        r.number).dock j = s.dock j := by
      intro j
      rw [State.dropRide_dock, hpk.dock]
      unfold State.dock; rw [State.endRideOf_docks]; rfl
    simp only [State.cancelled, State.dock_updDock, State.leaveQueue_dock, hb]
  refine ⟨hrf, ?_, ?_, ?_, ?_, ?_, ?_, ?_, ?_⟩
  · rw [hlf.rides]
    simp only [State.cancelled, State.updDock_rides, State.leaveQueue_rides, State.rides_dropRide]
    rw [hpk.rides, State.endRideOf_rides]; rfl
  · intro c
    rw [hlf.findCred]
    simp only [State.cancelled, State.updDock_findCred, State.leaveQueue_findCred, State.dropRide_findCred]
    rw [hpk.findCred, State.findCred_endRideOf]
    by_cases hc : c = r.cred
    · simp [hc]
    · simp [hc]
  · rcases State.postK_cases ((s.freeSlot r.slot).endRideOf r.cred) (.outcome r.number r.cred r.dock o) with
      ⟨n, h, _⟩ | ⟨h, _⟩
    · refine ⟨n, ?_⟩
      rw [hlf.pool.2.2]
      simpa [State.cancelled] using h
    · rw [e1.1] at h; simp at h
  · rw [hlf.pool.2.1]
    simp only [State.cancelled, State.updDock_listN, State.leaveQueue_listN, State.dropRide_listN]
    rw [State.postK_listN, e1.2.1]; rfl
  · rw [State.cancelRide_eq, State.returnGrant_dock hq, hdk, if_pos rfl]
  · intro d hd
    have e := hlf.dock d
    rw [hdk d, if_neg hd] at e
    exact e
  · rw [hlf.queue]
    simp only [State.cancelled, State.updDock_releaseQ, State.releaseQ_leaveQueue, State.dropRide_releaseQ]
    rw [hpk.releaseQ, State.endRideOf_releaseQ]; rfl
  · exact State.returnGrant_not_mem hq

/-- Everything that puts a dock into RELATCHING does to it and to the others (R71, R81). -/
theorem State.relatchDock_dock (s : State) (d : DockIx) :
    (s.relatchDock d).dock d = { s.dock d with state := .relatching, relatch := 0, pending := .closeCmd } := by
  unfold State.relatchDock
  rw [State.setPending_dock (by decide)]
  simp

theorem State.relatchDock_frame (s : State) (d : DockIx) :
    LineFrame (s.updDock d (fun x => { x with state := .relatching, relatch := 0 })) (s.relatchDock d) :=
  State.setPending_frame _ _ _

/-- The grant set of a dock put into RELATCHING: the procedure that a return from QUIET runs grants waiting docks
alone. -/
theorem State.setPending_not_mem {s : State} {d : DockIx} {c : Pending} {j : DockIx} (hg : j ∉ s.grants)
    (h : ∀ e ∈ s.releaseQ, e.dock ≠ j) : j ∉ (s.setPending d c).grants := by
  unfold State.setPending; dsimp only; split
  · intro a
    rcases State.mem_issueGrants a with a | a
    · rw [State.markPending_grants] at a; exact hg a
    · obtain ⟨e, he, _, hd⟩ := State.mem_waiting.mp a
      rw [State.markPending_releaseQ] at he
      exact h e he hd
  · rw [State.markPending_grants]; exact hg

/-- Everything that the relatching of a RELEASING ride does (R71). -/
structure RelatchSpec (s t : State) (r : Ride) : Prop where
  frame  : RideFrame s t
  rides  : t.rides = s.rides.map (fun x =>
    if x.number = r.number then { x with state := .relatching, windowLeft := none } else x)
  creds  : t.creds = s.creds
  pool   : SamePool s t
  dock   : t.dock r.dock = { s.dock r.dock with state := .relatching, relatch := 0, pending := .closeCmd }
  others : ∀ d, d ≠ r.dock → t.dock d = { s.dock d with pending := (t.dock d).pending }
  queue  : t.releaseQ.map (fun e => (e.dock, e.ride)) = s.releaseQ.map (fun e => (e.dock, e.ride))
  grant  : (∀ e ∈ s.releaseQ, e.dock ≠ r.dock) → r.dock ∉ t.grants
  portK  : t.portK = s.portK

/-- A relatched dock after a returned grant: shared by the relatching of a ride and by an early close (R71, R81). -/
theorem State.returnRelatch_dock (s : State) (d : DockIx) :
    ((s.returnGrant d).relatchDock d).dock d = { s.dock d with state := .relatching, relatch := 0, pending := .closeCmd } := by
  rw [State.relatchDock_dock, (State.returnGrant_frame s d).dock d]

theorem State.returnRelatch_others (s : State) (d j : DockIx) (hj : j ≠ d) :
    ((s.returnGrant d).relatchDock d).dock j =
      { s.dock j with pending := (((s.returnGrant d).relatchDock d).dock j).pending } := by
  have h := (State.relatchDock_frame (s.returnGrant d) d).dock j
  rw [State.dock_updDock, if_neg hj, (State.returnGrant_frame s d).dock j] at h
  exact h

theorem State.returnRelatch_not_mem (s : State) (d : DockIx) (h : ∀ e ∈ s.releaseQ, e.dock ≠ d) :
    d ∉ ((s.returnGrant d).relatchDock d).grants := by
  refine State.setPending_not_mem ?_ ?_
  · exact State.returnGrant_not_mem h
  · exact (State.returnGrant_frame s d).not_queued h

theorem State.relatchRide_spec (s : State) (r : Ride) : RelatchSpec s (s.relatchRide r) r := by
  have h1 := State.returnGrant_frame (s.updRide r.number (fun x => { x with state := .relatching, windowLeft := none })) r.dock
  have h2 := State.relatchDock_frame (State.returnGrant (s.updRide r.number (fun x => { x with
    state := .relatching, windowLeft := none })) r.dock) r.dock
  refine ⟨s.relatchRide_ride r, ?_, ?_, ?_, ?_, ?_, ?_, ?_, ?_⟩
  · exact h2.rides.trans h1.rides
  · exact h2.creds.trans h1.creds
  · exact ⟨h2.pool.1.trans h1.pool.1, h2.pool.2.1.trans h1.pool.2.1, h2.pool.2.2.trans h1.pool.2.2⟩
  · exact State.returnRelatch_dock _ _
  · intro d hd; exact State.returnRelatch_others _ _ d hd
  · exact h2.queue.trans h1.queue
  · intro h; exact State.returnRelatch_not_mem _ _ h
  · exact h2.portK.trans h1.portK

/-! ## Take-up (R69, R72) -/

/-- The state of a take-up before its two records. -/
def State.takenUp (s : State) (r : Ride) (late : Bool) : State :=
  State.returnGrant ((s.updRide r.number (fun x => { x with
    state := .opened, takeUp := some s.minute, late := x.late || late, windowLeft := none })).updDock r.dock Dock.toTaken) r.dock

/-- Everything a take-up does to rides, docks and the grant set (R69). -/
structure TakeUpSpec (s t : State) (r : Ride) (late : Bool) : Prop where
  frame  : RideFrame s t
  rides  : t.rides = s.rides.map (fun x => if x.number = r.number then
    { x with state := .opened, takeUp := some s.minute, late := x.late || late, windowLeft := none } else x)
  creds  : t.creds = s.creds
  dock   : (∀ e ∈ s.releaseQ, e.dock ≠ r.dock) → t.dock r.dock = (s.dock r.dock).toTaken
  others : ∀ d, d ≠ r.dock → t.dock d = { s.dock d with pending := (t.dock d).pending }
  queue  : t.releaseQ.map (fun e => (e.dock, e.ride)) = s.releaseQ.map (fun e => (e.dock, e.ride))
  grant  : (∀ e ∈ s.releaseQ, e.dock ≠ r.dock) → r.dock ∉ t.grants
  posted : s.free ≠ [] ∨ s.listK ≠ [] → PostedK t (.outcome r.number r.cred r.dock .taken)

theorem State.takeUp_spec (s : State) (r : Ride) (late : Bool) : TakeUpSpec s (s.takeUp r late) r late := by
  have h1 : LineFrame ((s.updRide r.number (fun x => { x with
      state := .opened, takeUp := some s.minute, late := x.late || late, windowLeft := none })).updDock r.dock Dock.toTaken)
      (s.takenUp r late) := State.returnGrant_frame _ r.dock
  have h2 := State.postK_pool (s.takenUp r late) (.outcome r.number r.cred r.dock .taken)
  have h3 := State.notice_pool ((s.takenUp r late).postK (.outcome r.number r.cred r.dock .taken)) (.dock r.dock)
    (.rideStarted r.number r.cred late)
  have h := h2.trans h3
  refine ⟨s.takeUp_ride r late, ?_, ?_, ?_, ?_, ?_, ?_, ?_⟩
  · exact h.rides.trans h1.rides
  · exact h.creds.trans h1.creds
  · intro hq
    rw [show (s.takeUp r late).dock r.dock = _ from h.dock r.dock]
    have e2 := State.returnGrant_dock (s := (s.updRide r.number (fun x => { x with
      state := .opened, takeUp := some s.minute, late := x.late || late, windowLeft := none })).updDock r.dock
      Dock.toTaken) (d := r.dock) (j := r.dock) hq
    unfold State.takenUp
    rw [e2]
    simp
  · intro d hd
    have e := h1.dock d
    rw [State.dock_updDock, if_neg hd] at e
    have e2 : (s.takeUp r late).dock d = (s.takenUp r late).dock d := h.dock d
    rw [e2]
    exact e
  · rw [show (s.takeUp r late).releaseQ = _ from h.releaseQ]
    exact h1.queue
  · intro hq
    rw [show (s.takeUp r late).grants = _ from h.grants]
    exact State.returnGrant_not_mem hq
  · intro hf
    rcases State.postK_cases (s.takenUp r late) (.outcome r.number r.cred r.dock .taken) with ⟨n, e, _⟩ | ⟨a, b, _⟩
    · refine ⟨n, ?_⟩
      have : (s.takeUp r late).listK = ((s.takenUp r late).postK (.outcome r.number r.cred r.dock .taken)).listK :=
        State.notice_listK _ _ _
      rw [this]; exact e
    · rw [h1.pool.1] at a
      rw [h1.pool.2.2] at b
      rcases hf with hf | hf
      · exact absurd a hf
      · exact absurd b hf

/-! ## Close (R80) -/

/-- Everything a close of an OPEN ride does to the tables and the pool (R80). -/
structure CloseSpec (s t : State) (r : Ride) (k : TripKind) (b : Trip) (f : CloseFigures) : Prop where
  frame  : RideFrame s t
  cred   : ∀ c, t.findCred c = if c = r.cred then (s.findCred c).bind (fun e => settledEntry e f) else s.findCred c
  rides  : t.rides = s.rides.filter (fun x => decide (x.number ≠ r.number))
  listN  : t.listN = insertTail ⟨r.slot, ⟨(s.level k.kind).val, s.clockSet, .trip k b⟩⟩ s.listN
  free   : t.free = s.free
  listK  : t.listK = s.listK
  docks  : t.docks = s.docks
  queue  : t.releaseQ = s.releaseQ
  grants : t.grants = s.grants
  lineA  : t.lineA = s.lineA
  lineB  : t.lineB = s.lineB
  portN  : t.portN = s.portN
  portK  : t.portK = s.portK

theorem State.closeRide_spec (s : State) (r : Ride) (k : TripKind) (d : Option DockIx) (m : Minute) (q : Bool) :
    CloseSpec s (s.closeRide r k d m q) r k (tripOf r d m (s.figures r m) q) (s.figures r m) := by
  have hp := State.endRideOf_pool (s.updCred r.cred (fun e => e.debited (s.figures r m))) r.cred
  have hpt : ∀ c, ((s.updCred r.cred (fun e => e.debited (s.figures r m))).endRideOf c).portN = s.portN ∧
      ((s.updCred r.cred (fun e => e.debited (s.figures r m))).endRideOf c).portK = s.portK := by
    intro c; unfold State.endRideOf; split
    · exact ⟨rfl, rfl⟩
    · split <;> exact ⟨rfl, rfl⟩
  have hst := State.endRideOf_ride (s.updCred r.cred (fun e => e.debited (s.figures r m))) r.cred
  refine ⟨s.closeRide_ride r k d m q, ?_, ?_, ?_, ?_, ?_, ?_, ?_, ?_, ?_, ?_, ?_, ?_⟩
  · intro c
    show ((s.updCred r.cred (fun e => e.debited (s.figures r m))).endRideOf r.cred).findCred c = _
    rw [State.findCred_endRideOf, State.findCred_updCred s _ _ (f := fun e => e.debited (s.figures r m)) (fun _ => rfl),
      State.findCred_updCred s _ _ (f := fun e => e.debited (s.figures r m)) (fun _ => rfl)]
    by_cases hc : c = r.cred
    · subst hc
      simp only [if_true]
      cases hf : s.findCred r.cred with
      | none => rfl
      | some e =>
        simp only [Option.map_some, Option.bind_some, cancelledEntry, settledEntry, Cred.debited]
        by_cases hl : e.state = .lapsed
        · simp [hl]
        · by_cases hs : 0 < (s.figures r m).shortfall ∧ e.state = .active <;> simp [hl, hs]
    · simp [hc]
  · show (((s.updCred r.cred (fun e => e.debited (s.figures r m))).endRideOf r.cred).rides).filter _ = _
    rw [State.endRideOf_rides]; rfl
  · show insertTail _ ((s.updCred r.cred (fun e => e.debited (s.figures r m))).endRideOf r.cred).listN = _
    rw [hp.2.1]
    unfold State.level
    rw [hst.station.1.2.2.2.2.2.2.1, hst.station.1.2.2.1]; rfl
  · exact hp.1
  · exact hp.2.2
  · exact State.endRideOf_docks _ _
  · exact State.endRideOf_releaseQ _ _
  · exact State.endRideOf_grants _ _
  · exact (State.endRideOf_lines _ _).1
  · exact (State.endRideOf_lines _ _).2
  · exact (hpt _).1
  · exact (hpt _).2

end Sys2Proof.Machine
end

