-- ==== Sys2Proof/Laws/Admission.lean ====
section
/-! SUPPORT. The admission decision: ride numbers, the counter that is spent, and who is admitted (R48 to R58, R65). -/

namespace Sys2Proof.Machine

/-! ## Ride numbers (R65) -/

theorem nextNumber_toNat (n : RideNo) : (nextNumber n).toNat = if n.toNat = 65535 then 1 else n.toNat + 1 := by
  have h1 := n.isLt
  unfold nextNumber
  by_cases h : n = 0xFFFF#16
  · subst h; rfl
  · have : n.toNat ≠ 65535 := fun a => h (BitVec.eq_of_toNat_eq a)
    rw [if_neg h, if_neg this, BitVec.toNat_add]
    simp
    omega

/-- The numbers after one another run through 1 to 65535 in a circle. -/
theorem nextNumber_iterate {n : RideNo} (hn : n ≠ 0#16) (i : Nat) :
    (nextNumber^[i] n).toNat = (n.toNat - 1 + i) % 65535 + 1 := by
  have h0 : 0 < n.toNat := Nat.pos_of_ne_zero (fun a => hn (BitVec.eq_of_toNat_eq a))
  have h1 := n.isLt
  induction i with
  | zero => simp only [Function.iterate_zero, id_eq, Nat.add_zero]; omega
  | succ i ih =>
    rw [Function.iterate_succ_apply', nextNumber_toNat, ih]
    split <;> omega

theorem nextNumber_iterate_ne_zero {n : RideNo} (hn : n ≠ 0#16) (i : Nat) : nextNumber^[i] n ≠ 0#16 := by
  intro h
  have := congrArg BitVec.toNat h
  rw [nextNumber_iterate hn] at this
  simp at this

/-- What the search finds: the first number that no ride holds, or the fuel ran out on held numbers. -/
theorem freeNumber_cases (s : State) (k : Nat) (n : RideNo) :
    ∃ j ≤ k, freeNumber s k n = nextNumber^[j] n ∧ (∀ i < j, s.findRide (nextNumber^[i] n) ≠ none) ∧
      (j < k → s.findRide (nextNumber^[j] n) = none) := by
  induction k generalizing n with
  | zero => exact ⟨0, Nat.le_refl _, rfl, fun i hi => absurd hi (Nat.not_lt_zero i), fun h => absurd h (Nat.lt_irrefl 0)⟩
  | succ k ih =>
    unfold freeNumber
    split
    · next h =>
      obtain ⟨j, hj, e, h1, h2⟩ := ih (nextNumber n)
      refine ⟨j + 1, by omega, e, fun i hi => ?_, fun hlt => h2 (by omega)⟩
      match i with
      | 0 => intro a; rw [Function.iterate_zero, id] at a; rw [a] at h; simp at h
      | i + 1 => exact h1 i (by omega)
    · next h =>
      exact ⟨0, by omega, rfl, fun i hi => absurd hi (Nat.not_lt_zero i), fun _ => by simpa using h⟩

/-- With fewer rides than numbers the search finds a number that no ride holds, and it is not 0 (R65). -/
theorem freeNumber_free {s : State} (hl : s.rides.length < 65535) (hn : s.nextRide ≠ 0#16) :
    s.findRide (freeNumber s (s.rides.length + 1) s.nextRide) = none ∧
    freeNumber s (s.rides.length + 1) s.nextRide ≠ 0#16 := by
  obtain ⟨j, hj, e, h1, h2⟩ := freeNumber_cases s (s.rides.length + 1) s.nextRide
  rw [e]
  refine ⟨?_, nextNumber_iterate_ne_zero hn j⟩
  by_cases hlt : j < s.rides.length + 1
  · exact h2 hlt
  · exfalso
    have hj' : j = s.rides.length + 1 := by omega
    subst hj'
    let ns := (List.range (s.rides.length + 1)).map (fun i => nextNumber^[i] s.nextRide)
    have hnd : ns.Nodup := by
      refine List.Nodup.map_on ?_ List.nodup_range
      intro a ha b hb hab
      have ha' := List.mem_range.mp ha
      have hb' := List.mem_range.mp hb
      have := congrArg BitVec.toNat hab
      rw [nextNumber_iterate hn, nextNumber_iterate hn] at this
      omega
    have hsub : ns ⊆ s.rides.map (fun r => r.number) := by
      intro m hm
      obtain ⟨i, hi, rfl⟩ := List.mem_map.mp hm
      have := h1 i (List.mem_range.mp hi)
      obtain ⟨r, hr⟩ := Option.ne_none_iff_exists'.mp this
      obtain ⟨a, b⟩ := State.findRide_some hr
      exact List.mem_map.mpr ⟨r, a, b⟩
    have := (hnd.subperm hsub).length_le
    simp [ns] at this

/-! ## The counter (R10, R50) -/

/-- A counter that passes the window lies 1 to W steps ahead (R10). -/
theorem counterTest_none {last n : Word16} {w : Nat} (h : counterTest last n w = none) :
    1 ≤ (n - last).toNat ∧ (n - last).toNat ≤ w := by
  unfold counterTest at h
  dsimp only at h
  split at h
  · cases h
  · next h1 =>
    split at h
    · next h2 => exact ⟨by omega, h2⟩
    · cases h

/-- A token that passes checks 1 to 5 names an entry whose counter it moves forward (R49, R50). -/
theorem tokenChecks_ok {s : State} {t : Token} {e : Cred} (h : tokenChecks s t = .ok e) :
    s.clockSet = true ∧ s.findCred t.cred = some e ∧ t.cred ≠ 0#24 ∧
    checkWord e.secret t.cred t.counter t.issue = t.tag ∧
    counterTest e.counter t.counter s.settings.lookAhead = none ∧
    timeTest s.minute t.issue (s.classOf e).life s.settings.skew = none := by
  unfold tokenChecks at h
  split at h
  · cases h
  · next hc =>
    split at h
    · cases h
    · next e' he =>
      split at h
      · cases h
      · next h0 =>
        split at h
        · cases h
        · next hw =>
          split at h
          · cases h
          · next hn =>
            split at h
            · cases h
            · next htm =>
              injection h with h
              subst h
              exact ⟨by simpa using hc, he, h0, by simpa using hw, hn, htm⟩

/-- A dock that passes check 7 is DOCKED, ONLINE and holds a tag that no ride holds (R52). -/
theorem dockCheck_none {s : State} {m : Bool} {d : DockIx} (h : dockCheck s m d = none) :
    (s.dock d).state = .docked ∧ (s.dock d).link = .online ∧ (s.dock d).tag ≠ 0#32 ∧ s.rideOfTag (s.dock d).tag = none ∧
    ((s.dock d).hold = none ∨ m = true) := by
  unfold dockCheck at h
  dsimp only at h
  split at h
  · cases h
  · cases h
  · cases h
  · split at h <;> cases h
  · split at h <;> cases h
  · split at h <;> cases h
  · split at h <;> cases h
  · next hd =>
    split at h
    · cases h
    · next hl =>
      split at h
      · cases h
      · next ht =>
        split at h
        · cases h
        · next hh =>
          rw [not_or] at ht
          refine ⟨hd, by simpa using hl, ht.1, ?_, ?_⟩
          · simpa [State.tagInRide] using ht.2
          · by_cases a : (s.dock d).hold = none
            · exact .inl a
            · refine .inr ?_
              have : (s.dock d).hold.isSome = true := by
                cases hx : (s.dock d).hold with
                | none => exact absurd hx a
                | some _ => rfl
              simpa [this] using hh

/-- A dock the kiosk may choose has all that a named dock must have, and its line runs (R54). -/
theorem eligible_spec {s : State} {m : Bool} {d : DockIx} (h : eligible s m d = true) :
    (s.dock d).state = .docked ∧ (s.dock d).link = .online ∧ (s.dock d).tag ≠ 0#32 ∧ s.rideOfTag (s.dock d).tag = none ∧
    ((s.dock d).hold = none ∨ m = true) ∧ s.lineRuns d = true := by
  unfold eligible at h
  simp only [Bool.and_eq_true, decide_eq_true_eq, Bool.or_eq_true] at h
  obtain ⟨⟨⟨⟨h1, h2, h3⟩, h4⟩, h5⟩, h6⟩ := h
  exact ⟨h1, h2, h3, by simpa [State.tagInRide] using h4, by simpa using h5, h6⟩

theorem foldl_choose_mem {s : State} (ds : List DockIx) (b : Option DockIx) {d : DockIx}
    (h : ds.foldl (fun best d => match best with
      | none => some d
      | some b => if dockedFor s b < dockedFor s d then some d else some b) b = some d) : d ∈ ds ∨ b = some d := by
  induction ds generalizing b with
  | nil => exact .inr h
  | cons x xs ih =>
    rw [List.foldl_cons] at h
    rcases ih _ h with a | a
    · exact .inl (List.mem_cons_of_mem _ a)
    · cases b with
      | none => injection a with a; exact .inl (a ▸ List.mem_cons_self)
      | some b =>
        dsimp only at a
        split at a
        · injection a with a; exact .inl (a ▸ List.mem_cons_self)
        · exact .inr a

/-- The kiosk's choice is an eligible dock (R54). -/
theorem chooseDock_eligible {s : State} {m : Bool} {d : DockIx} (h : chooseDock s m = some d) : eligible s m d = true := by
  rcases foldl_choose_mem _ none h with a | a
  · exact (List.mem_filter.mp a).2
  · cases a

/-- An admission has passed checks 6 to 10 at its dock (R51 to R55). -/
theorem laterChecks_ok {s : State} {o : Origin} {e : Cred} {d : DockIx} (h : laterChecks s o e = .ok d) :
    e.state = .active ∧ (s.dock d).state = .docked ∧ (s.dock d).link = .online ∧ (s.dock d).tag ≠ 0#32 ∧
    s.rideOfTag (s.dock d).tag = none ∧ ((s.dock d).hold = none ∨ (s.classOf e).mayHeld = true) ∧
    e.openRides < (s.classOf e).limit ∧ (s.classOf e).minBal ≤ e.balance ∧ s.free ≠ [] := by
  unfold laterChecks at h
  split at h
  · cases h
  · next hs =>
    have hact : e.state = .active := by
      unfold stateCheck at hs
      split at hs
      · assumption
      · cases hs
      · cases hs
      · cases hs
    split at h
    · cases h
    · next d' hd =>
      split at h
      · cases h
      · next h1 =>
        split at h
        · cases h
        · next h2 =>
          split at h
          · cases h
          · next h3 =>
            injection h with h
            subst h
            have hdock : (s.dock d').state = .docked ∧ (s.dock d').link = .online ∧ (s.dock d').tag ≠ 0#32 ∧
                s.rideOfTag (s.dock d').tag = none ∧ ((s.dock d').hold = none ∨ (s.classOf e).mayHeld = true) := by
              unfold dockFor at hd
              split at hd
              · split at hd
                · cases hd
                · next hc => injection hd with hd; subst hd; exact dockCheck_none hc
              · split at hd
                · cases hd
                · next hc => injection hd with hd; subst hd; exact dockCheck_none hc
              · split at hd
                · next hc =>
                  injection hd with hd; subst hd
                  obtain ⟨a, b, c, f, g, _⟩ := eligible_spec (chooseDock_eligible hc)
                  exact ⟨a, b, c, f, g⟩
                · cases hd
            obtain ⟨a, b, c, f, g⟩ := hdock
            exact ⟨hact, a, b, c, f, g, by omega, by omega, h3⟩

end Sys2Proof.Machine
end

