-- ==== Sys2Proof/Laws/Cancel.lean ====
section
/-! SUPPORT. What withdrawing a credential does to its QUEUED rides: the whole of cancelQueuedOf (R28, R29). -/

namespace Sys2Proof.Machine

/-- An entry after k of its rides were cancelled, one after another. -/
def cancelledTimes : Nat → Option Cred → Option Cred
  | 0, e => e
  | k + 1, e => cancelledTimes k (e.bind cancelledEntry)

/-- An entry that is not LAPSED loses one ride from its count for each cancellation. -/
theorem cancelledTimes_kept {e : Cred} (h : e.state ≠ .lapsed) (k : Nat) :
    cancelledTimes k (some e) = some { e with openRides := e.openRides - k } := by
  induction k generalizing e with
  | zero => rfl
  | succ k ih =>
    have h1 : (some e).bind cancelledEntry = some { e with openRides := e.openRides - 1 } := by
      simp [cancelledEntry, h]
    show cancelledTimes k ((some e).bind cancelledEntry) = _
    rw [h1, ih (e := { e with openRides := e.openRides - 1 }) h]
    simp only [Option.some.injEq, Cred.mk.injEq, true_and, and_true]
    omega

theorem cancelledTimes_none (k : Nat) : cancelledTimes k none = none := by
  induction k with
  | zero => rfl
  | succ k ih => exact ih

/-- A LAPSED entry is deleted by the cancellation of its last ride (R29). -/
theorem cancelledTimes_lapsed {e : Cred} (h : e.state = .lapsed) (k : Nat) (hk : k ≤ e.openRides) :
    cancelledTimes k (some e) = if 0 < k ∧ k = e.openRides then none else some { e with openRides := e.openRides - k } := by
  induction k generalizing e with
  | zero => simp [cancelledTimes]
  | succ k ih =>
    show cancelledTimes k ((some e).bind cancelledEntry) = _
    by_cases h1 : e.openRides ≤ 1
    · have : (some e).bind cancelledEntry = none := by simp [cancelledEntry, h, h1]
      rw [this, cancelledTimes_none, if_pos (by omega)]
    · have : (some e).bind cancelledEntry = some { e with openRides := e.openRides - 1 } := by simp [cancelledEntry, h1]
      rw [this, ih (e := { e with openRides := e.openRides - 1 }) h (by simp only; omega)]
      by_cases h2 : k + 1 = e.openRides
      · rw [if_pos (by simp only; omega), if_pos (by omega)]
      · rw [if_neg (by simp only; omega), if_neg (by omega)]
        simp only [Option.some.injEq, Cred.mk.injEq, true_and, and_true]
        omega

/-- Everything that withdrawing credentials does to rides and entries (R28, R29). -/
structure WithdrawSpec (s t : State) (gone : Ride → Bool) : Prop where
  frame : RideFrame s t
  rides : t.rides = s.rides.filter (fun r => !gone r)
  cred  : ∀ c, t.findCred c = cancelledTimes (s.rides.countP (fun r => decide (r.cred = c) && gone r)) (s.findCred c)
  listN : t.listN = s.listN

theorem foldl_cancel_spec (rs : List Ride) (s : State) (hs : RidesSorted s) (hsub : rs.Sublist s.rides)
    (hq : ∀ r ∈ rs, r.state = .queued) :
    WithdrawSpec s ((rs.map (fun r => r.number)).foldl State.cancelForCred s) (fun r => rs.any (fun x => decide (x.number = r.number))) ∧
    ∀ c, s.rides.countP (fun r => decide (r.cred = c) && rs.any (fun x => decide (x.number = r.number))) =
      rs.countP (fun r => decide (r.cred = c)) := by
  induction rs generalizing s with
  | nil =>
    have e : ∀ xs : List Ride, xs.filter (fun _ => true) = xs := fun xs => by simp
    refine ⟨⟨RideFrame.refl s, by simp, fun c => ?_, rfl⟩, fun c => by simp⟩
    simp [cancelledTimes]
  | cons r rs ih =>
    have hmem : r ∈ s.rides := hsub.mem List.mem_cons_self
    have hsort := hs.sublist hsub
    obtain ⟨hr1, _⟩ := List.pairwise_cons.mp hsort
    have hne : ∀ x ∈ rs, x.number ≠ r.number := fun x hx a => BitVec.lt_irrefl _ (a ▸ hr1 x hx)
    have hstep : s.cancelForCred r.number = s.cancelRide r .cancelledCredential := by
      simp [State.cancelForCred, State.findRide_of_mem hs hmem, hq r List.mem_cons_self]
    have hsp := s.cancelRide_spec r .cancelledCredential
    have hs' : RidesSorted (s.cancelRide r .cancelledCredential) := by
      unfold RidesSorted; rw [hsp.rides]; exact hs.filter _
    have hsub' : rs.Sublist (s.cancelRide r .cancelledCredential).rides := by
      rw [hsp.rides]
      have := (List.sublist_of_cons_sublist hsub).filter (fun x => decide (x.number ≠ r.number))
      rwa [List.filter_eq_self.mpr (fun x hx => by simpa using hne x hx)] at this
    obtain ⟨ih1, ih2⟩ := ih _ hs' hsub' (fun x hx => hq x (List.mem_cons_of_mem _ hx))
    have huniq : ∀ x ∈ s.rides, x.number = r.number → x = r := by
      intro x hx a
      have h1 := State.findRide_of_mem hs hx
      have h2 := State.findRide_of_mem hs hmem
      rw [a, h2] at h1
      exact (Option.some.inj h1).symm
    have hcount : ∀ c, s.rides.countP (fun x => decide (x.cred = c) && (r :: rs).any (fun y => decide (y.number = x.number))) =
        (if r.cred = c then 1 else 0) + rs.countP (fun x => decide (x.cred = c)) := by
      intro c
      rw [← ih2 c, hsp.rides, List.countP_filter]
      have hperm : s.rides.Perm (r :: s.rides.filter (fun x => decide (x.number ≠ r.number))) := by
        have hnd : s.rides.Nodup := List.Pairwise.imp (S := fun a b => a ≠ b)
          (fun {a b} h e => BitVec.lt_irrefl b.number (by rw [e] at h; exact h)) hs
        have he : s.rides.filter (fun x => decide (x.number ≠ r.number)) = s.rides.erase r := by
          rw [hnd.erase_eq_filter]
          refine List.filter_congr (fun x hx => ?_)
          by_cases hxr : x.number = r.number
          · rw [huniq x hx hxr]; simp
          · have : x ≠ r := fun a => hxr (a ▸ rfl)
            simp [hxr, this]
        rw [he]; exact List.perm_cons_erase hmem
      rw [hperm.countP_eq, List.countP_cons, hperm.countP_eq, List.countP_cons, List.countP_filter, List.countP_filter]
      have e1 : ∀ x ∈ s.rides, ((decide (x.cred = c) && (r :: rs).any (fun y => decide (y.number = x.number))) &&
          decide (x.number ≠ r.number)) = true ↔ ((((decide (x.cred = c) && rs.any (fun y => decide (y.number = x.number))) &&
          decide (x.number ≠ r.number))) && decide (x.number ≠ r.number)) = true := by
        intro x _
        simp only [List.any_cons, Bool.and_eq_true, Bool.or_eq_true, decide_eq_true_eq]
        constructor
        · rintro ⟨⟨a, b | b⟩, d⟩
          · exact absurd b.symm d
          · exact ⟨⟨⟨a, b⟩, d⟩, d⟩
        · rintro ⟨⟨⟨a, b⟩, d⟩, _⟩
          exact ⟨⟨a, .inr b⟩, d⟩
      rw [List.countP_congr e1]
      simp [Nat.add_comm]
    rw [List.map_cons, List.foldl_cons, hstep]
    refine ⟨⟨hsp.frame.trans ih1.frame, ?_, ?_, ih1.listN.trans hsp.listN⟩, ?_⟩
    · rw [ih1.rides, hsp.rides, List.filter_filter]
      refine List.filter_congr (fun x _ => ?_)
      by_cases hx : x.number = r.number <;> simp [hx, eq_comm]
    · intro c
      rw [ih1.cred, ih2, hsp.cred, hcount]
      by_cases hc : c = r.cred
      · subst hc; simp only [if_true]
        rw [Nat.add_comm]; rfl
      · rw [if_neg hc, if_neg (fun a => hc a.symm), Nat.zero_add]
    · intro c
      rw [hcount, List.countP_cons, Nat.add_comm]
      simp

/-- The whole of cancelQueuedOf: the QUEUED rides of the credentials named go, each lowering its entry's count. -/
theorem State.cancelQueuedOf_spec {s : State} (hs : RidesSorted s) (f : CredNo → Bool) :
    WithdrawSpec s (s.cancelQueuedOf f) (fun r => decide (r.state = .queued) && f r.cred) := by
  have h := (foldl_cancel_spec (s.rides.filter (fun r => decide (r.state = .queued) && f r.cred)) s hs List.filter_sublist
    (fun r hr => by simpa using ((List.mem_filter.mp hr).2 |> fun a => (Bool.and_eq_true_iff.mp a).1))).1
  have hg : ∀ r ∈ s.rides, (s.rides.filter (fun r => decide (r.state = .queued) && f r.cred)).any
      (fun x => decide (x.number = r.number)) = (decide (r.state = .queued) && f r.cred) := by
    intro r hr
    rw [Bool.eq_iff_iff, List.any_eq_true]
    constructor
    · rintro ⟨x, hx, e⟩
      obtain ⟨hx1, hx2⟩ := List.mem_filter.mp hx
      have h1 := State.findRide_of_mem hs hx1
      have h2 := State.findRide_of_mem hs hr
      rw [of_decide_eq_true e, h2] at h1
      rw [Option.some.inj h1]; exact hx2
    · intro a
      exact ⟨r, List.mem_filter.mpr ⟨hr, a⟩, by simp⟩
  refine ⟨h.frame, ?_, ?_, h.listN⟩
  · show State.rides _ = _
    rw [show (s.cancelQueuedOf f).rides = _ from h.rides]
    exact List.filter_congr (fun r hr => by rw [hg r hr])
  · intro c
    rw [show (s.cancelQueuedOf f).findCred c = _ from h.cred c]
    congr 1
    exact List.countP_congr (fun r hr => by rw [hg r hr])

end Sys2Proof.Machine
end

