-- ==== Sys2Proof/Laws/Codes.lean ====
section
/-! SUPPORT. Bytes and the frame check: multi-byte fields come back from their bytes, and a sequence closed with its check
has check 0 (R192, R194). -/

namespace Sys2Proof

theorem join2_bytes (x : Word16) : join2 (byteOf x 1) (byteOf x 0) = x := by
  unfold join2 byteOf
  rw [BitVec.extractLsb'_append_extractLsb'_eq_extractLsb' (by rfl)]
  exact BitVec.extractLsb'_eq_self

theorem join3_bytes (x : CredNo) : join3 (byteOf x 2) (byteOf x 1) (byteOf x 0) = x := by
  unfold join3 byteOf
  rw [BitVec.extractLsb'_append_extractLsb'_eq_extractLsb' (by rfl), BitVec.extractLsb'_append_extractLsb'_eq_extractLsb' (by rfl)]
  exact BitVec.extractLsb'_eq_self

theorem join4_bytes (x : BitVec 32) : join4 (byteOf x 3) (byteOf x 2) (byteOf x 1) (byteOf x 0) = x := by
  unfold join4 byteOf
  rw [BitVec.extractLsb'_append_extractLsb'_eq_extractLsb' (by rfl), BitVec.extractLsb'_append_extractLsb'_eq_extractLsb' (by rfl),
    BitVec.extractLsb'_append_extractLsb'_eq_extractLsb' (by rfl)]
  exact BitVec.extractLsb'_eq_self

/-- A byte that equals the running check leaves check 0. -/
theorem crcByte_self (c : Byte) : crcByte c c = 0#8 := by
  unfold crcByte
  rw [BitVec.xor_self]
  decide

/-- A sequence closed with its check has check 0 (R194). -/
theorem crc8_withCheck (bytes : List Byte) : crc8 (withCheck bytes) = 0#8 := by
  unfold withCheck crc8
  rw [List.foldl_append]
  exact crcByte_self _

/-- Every code names its request (R192). -/
theorem Req.ofCode_code (r : Req) : Req.ofCode r.code = some r := by
  cases r <;> rfl

/-- Marked characters of different addresses differ (R116). -/
theorem Machine.replyMark_inj {a b : Addr} (h : Machine.replyMark a = Machine.replyMark b) : a = b := by
  have := a.isLt
  have := b.isLt
  have e := congrArg BitVec.toNat h
  simp only [Machine.replyMark, BitVec.toNat_ofNat] at e
  exact Fin.ext (by omega)

end Sys2Proof
end

