-- ==== Sys2Proof/Laws/Lines.lean ====
section
/-! SUPPORT. Dock indices, and what each line operation does, said once: rounds, turns, breaks (R119, R120, R130, R134). -/

namespace Sys2Proof.Machine

/-! ## Dock indices (section 4.2) -/

@[simp] theorem lineOf_dockIx (l : Line) (a : Addr) : lineOf (dockIx l a) = l := by
  cases l <;> simp [lineOf, dockIx]

@[simp] theorem addrOf_dockIx (l : Line) (a : Addr) : addrOf (dockIx l a) = a := by
  have := a.isLt
  cases l <;> simp only [addrOf, dockIx, Fin.ext_iff] <;> omega

@[simp] theorem dockIx_lineOf_addrOf (d : DockIx) : dockIx (lineOf d) (addrOf d) = d := by
  have := d.isLt
  unfold lineOf; split <;> simp [dockIx, addrOf, Fin.ext_iff] <;> omega

theorem dockIx_inj {l m : Line} {a b : Addr} : dockIx l a = dockIx m b ↔ l = m ∧ a = b := by
  constructor
  · intro h
    exact ⟨by simpa using congrArg lineOf h, by simpa using congrArg addrOf h⟩
  · rintro ⟨rfl, rfl⟩; rfl

theorem otherLine_ne (l : Line) : otherLine l ≠ l := by cases l <;> decide

theorem State.line_of_eq {s t : State} (ha : t.lineA = s.lineA) (hb : t.lineB = s.lineB) (l : Line) : t.line l = s.line l := by
  cases l
  · exact ha
  · exact hb

theorem PoolFrame.lines {s t : State} (h : PoolFrame s t) (l : Line) : t.line l = s.line l := h.line l

/-! ## Rides but for how far OPEN has come -/

theorem SameRides.refl (s : State) : SameRides s s := rfl
theorem SameRides.of_eq {s t : State} (h : t.rides = s.rides) : SameRides s t := by unfold SameRides; rw [h]
theorem SameRides.trans {s t u : State} (h : SameRides s t) (k : SameRides t u) : SameRides s u := Eq.trans k h

theorem settleOpen_sameRides (s : State) (d : DockIx) (b : Bool) : SameRides s (settleOpen s d b) := by
  unfold SameRides settleOpen
  simp only [List.map_map]
  refine List.map_congr_left (fun r _ => ?_)
  simp only [Function.comp]; split <;> rfl

theorem State.sendOpen_sameRides (s : State) (d : DockIx) : SameRides s (s.sendOpen d) := by
  unfold SameRides State.sendOpen
  simp only [List.map_map]
  refine List.map_congr_left (fun r _ => ?_)
  simp only [Function.comp]; split <;> rfl

/-- What became of an OPEN changes the ride's progress and nothing else (R68, R120). -/
theorem settleOpen_eq (s : State) (d : DockIx) (b : Bool) : settleOpen s d b = { s with rides := (settleOpen s d b).rides } := rfl

@[simp] theorem settleOpen_line (s : State) (d : DockIx) (b : Bool) (l : Line) : (settleOpen s d b).line l = s.line l := by
  cases l <;> rfl
@[simp] theorem settleOpen_dock (s : State) (d : DockIx) (b : Bool) (j : DockIx) : (settleOpen s d b).dock j = s.dock j := rfl

/-! ## The line events' frame: one line and the progress of OPEN -/

/-- Only this line and how far OPEN has come may differ. -/
structure OwnLine (s t : State) (l : Line) : Prop where
  rest  : t = { s with rides := t.rides, lineA := t.lineA, lineB := t.lineB }
  rides : SameRides s t
  other : t.line (otherLine l) = s.line (otherLine l)

theorem OwnLine.refl (s : State) (l : Line) : OwnLine s s l := ⟨rfl, SameRides.refl s, rfl⟩

theorem OwnLine.trans {s t u : State} {l : Line} (h : OwnLine s t l) (k : OwnLine t u l) : OwnLine s u l := by
  refine ⟨?_, h.rides.trans k.rides, k.other.trans h.other⟩
  have e := k.rest
  rw [h.rest] at e
  exact e

theorem State.updLine_own (s : State) (l : Line) (f : LineCtl → LineCtl) : OwnLine s (s.updLine l f) l := by
  cases l <;> exact ⟨rfl, rfl, rfl⟩

theorem settleOpen_own (s : State) (d : DockIx) (b : Bool) (l : Line) : OwnLine s (settleOpen s d b) l :=
  ⟨rfl, settleOpen_sameRides s d b, by cases l <;> rfl⟩

theorem State.startRound_own (s : State) (l : Line) : OwnLine s (s.startRound l) l := s.updLine_own l _

theorem State.endTurn_own (s : State) (l : Line) : OwnLine s (s.endTurn l) l := by
  unfold State.endTurn; split
  · exact OwnLine.refl s l
  · split
    · exact s.updLine_own l _
    · split
      · exact (s.updLine_own l _).trans (State.startRound_own _ l)
      · exact s.updLine_own l _

theorem State.abandonTurn_own (s : State) (l : Line) : OwnLine s (s.abandonTurn l) l := by
  unfold State.abandonTurn; split
  · exact OwnLine.refl s l
  · exact (settleOpen_own s _ _ l).trans (State.updLine_own _ l _)

section
variable {s t : State} {l : Line} (h : OwnLine s t l)
include h
theorem OwnLine.docks : t.docks = s.docks := by rw [h.rest]
theorem OwnLine.dock (d : DockIx) : t.dock d = s.dock d := by unfold State.dock; rw [h.docks]
theorem OwnLine.creds : t.creds = s.creds := by rw [h.rest]
theorem OwnLine.releaseQ : t.releaseQ = s.releaseQ := by rw [h.rest]
theorem OwnLine.grants : t.grants = s.grants := by rw [h.rest]
theorem OwnLine.free : t.free = s.free := by rw [h.rest]
theorem OwnLine.pool : SamePool s t := by rw [h.rest]; exact ⟨rfl, rfl, rfl⟩
theorem OwnLine.portN : t.portN = s.portN := by rw [h.rest]
theorem OwnLine.portK : t.portK = s.portK := by rw [h.rest]
theorem OwnLine.station : SameStation s t := by rw [h.rest]; exact SameStation.refl s
theorem OwnLine.settings : t.settings = s.settings := by rw [h.rest]
end

/-- The rides of a line operation, at a dock: same dock, same state. -/
theorem SameRides.rideAt_none {s t : State} (h : SameRides s t) (d : DockIx) : t.rideAt d = none ↔ s.rideAt d = none := by
  have key : ∀ u : State, u.rideAt d = none ↔
      ∀ r ∈ u.rides.map (fun r => { r with progress := .notSent }), ¬ (r.dock = d ∧ r.state ≠ .opened) := by
    intro u
    simp only [State.rideAt, List.find?_eq_none, List.mem_map, decide_eq_true_eq]
    constructor
    · rintro a r ⟨x, hx, rfl⟩; exact a x hx
    · intro a x hx; exact a { x with progress := .notSent } ⟨x, hx, rfl⟩
  rw [key, key, h]

/-! ## Breaks (R130, R134) -/

/-- Everything that the entry into BREAK does (R130). -/
structure BreakSpec (s t : State) (l : Line) (line : LineCtl) (latched : Bool) : Prop where
  line   : t.line l = line
  other  : t.line (otherLine l) = s.line (otherLine l)
  rides  : SameRides s t
  docks  : t.docks = s.docks
  creds  : t.creds = s.creds
  queue  : t.releaseQ = s.releaseQ
  grants : t.grants = s.grants
  pool   : SamePool s t
  frame  : RideFrame s t
  portN  : t.portN.latched = if latched then s.portN.latched ||| evLine else s.portN.latched
  portK  : t.portK = s.portK

theorem State.latchLineIf_break {s t : State} {l : Line} (h : OwnLine s t l) (b : Bool) :
    BreakSpec s (t.latchLineIf b) l (t.line l) b where
  line := by unfold State.latchLineIf; split <;> simp
  other := by unfold State.latchLineIf; split <;> simp [h.other]
  rides := by
    refine h.rides.trans (SameRides.of_eq ?_)
    unfold State.latchLineIf; split <;> simp
  docks := by unfold State.latchLineIf; split <;> simp [h.docks]
  creds := by unfold State.latchLineIf; split <;> simp [h.creds]
  queue := by unfold State.latchLineIf; split <;> simp [h.releaseQ]
  grants := by unfold State.latchLineIf; split <;> simp [h.grants]
  pool := by
    obtain ⟨a, b, c⟩ := h.pool
    unfold State.latchLineIf; split
    · exact ⟨by simp [a], by simp [b], by simp [c]⟩
    · exact ⟨a, b, c⟩
  frame := RideFrame.trans ⟨h.station, by rw [h.rest]; exact PortsKept.refl s⟩ (State.latchLineIf_ride t b)
  portN := by
    unfold State.latchLineIf
    cases b
    · simp [h.portN]
    · simp [State.latch, State.updPort, State.setPort, h.portN]
  portK := by
    unfold State.latchLineIf; split
    · simp [State.latch, State.updPort, State.setPort, h.portK]
    · exact h.portK

theorem State.enterBreak_spec (s : State) (l : Line) (c : BreakCause) :
    BreakSpec s (s.enterBreak l c) l (inBreak (s.settings.rate l) c) (decide ((s.line l).state ≠ .brk)) := by
  have h := (s.abandonTurn_own l).trans (State.updLine_own (s.abandonTurn l) l (fun x => { x.dropAll with
    state := .brk, rate := s.settings.rate l, breakTimer := .breakTime, breakCause := some c }))
  have hb := State.latchLineIf_break h (decide ((s.line l).state ≠ .brk))
  have e : ((s.abandonTurn l).updLine l (fun x => { x.dropAll with
      state := .brk, rate := s.settings.rate l, breakTimer := .breakTime, breakCause := some c })).line l =
      inBreak (s.settings.rate l) c := by
    simp [LineCtl.dropAll, inBreak]
  rw [e] at hb
  exact hb

theorem State.abandonTurn_line (s : State) (l : Line) : (s.abandonTurn l).line l = { s.line l with turn := none } := by
  unfold State.abandonTurn; split
  · next h => rw [← h]
  · simp

theorem State.disableLine_spec (s : State) (l : Line) :
    BreakSpec s (s.disableLine l) l { state := .disabled, rate := (s.line l).rate, breakCause := (s.line l).breakCause }
      (decide ((s.line l).state ≠ .disabled)) := by
  have h := (s.abandonTurn_own l).trans (State.updLine_own (s.abandonTurn l) l (fun x => { x.dropAll with state := .disabled }))
  have hb := State.latchLineIf_break h (decide ((s.line l).state ≠ .disabled))
  have e : ((s.abandonTurn l).updLine l (fun x => { x.dropAll with state := .disabled })).line l =
      { state := .disabled, rate := (s.line l).rate, breakCause := (s.line l).breakCause } := by
    simp [LineCtl.dropAll, State.abandonTurn_line]
  rw [e] at hb
  exact hb

/-! ## Turns (R119, R120) -/

/-- A turn in flight ends: no turn is left and the line keeps its state, rate, error count and timers. -/
theorem State.endTurn_line {s : State} {l : Line} {x : Turn} (h : (s.line l).turn = some x) :
    ((s.endTurn l).line l).turn = none ∧ ((s.endTurn l).line l).state = (s.line l).state ∧
    ((s.endTurn l).line l).rate = (s.line l).rate ∧ ((s.endTurn l).line l).errors = (s.line l).errors ∧
    ((s.endTurn l).line l).errTimer = (s.line l).errTimer ∧ ((s.endTurn l).line l).quietTimer = (s.line l).quietTimer ∧
    ((s.endTurn l).line l).quietInterval = (s.line l).quietInterval ∧
    ((s.endTurn l).line l).breakTimer = (s.line l).breakTimer ∧
    ((s.endTurn l).line l).breakCause = (s.line l).breakCause ∧ ((s.endTurn l).line l).quietDue = (s.line l).quietDue := by
  unfold State.endTurn
  rw [h]; dsimp only
  split
  · simp
  · split
    · simp [State.startRound]
    · simp

/-- The lowest fitted address is where a round starts (R119). -/
theorem State.nextFitted_lowest {s : State} {l : Line} {a : Addr} (hf : s.fitted (dockIx l a) = true)
    (hl : ∀ b : Addr, b.val < a.val → s.fitted (dockIx l b) = false) : s.nextFitted l 0 = some a := by
  unfold State.nextFitted
  rw [List.find?_eq_some_iff_append]
  refine ⟨by simp [hf], (List.finRange 30).take a.val, (List.finRange 30).drop (a.val + 1), ?_, ?_⟩
  · have hlt : a.val < (List.finRange 30).length := by simp
    have := List.take_append_drop a.val (List.finRange 30)
    rw [List.drop_eq_getElem_cons hlt] at this
    simpa using this.symm
  · intro b hb
    obtain ⟨i, hi, e⟩ := List.mem_take_iff_getElem.mp hb
    have : b.val < a.val := by
      have := congrArg Fin.val e
      simp at this hi
      omega
    simp [hl b this]

end Sys2Proof.Machine
end

