-- ==== Sys2Proof/Laws/Pins.lean ====
section
/-! SUPPORT. The bits of characters and transactions: what is sent is what is read back, and the pins by condition. -/

namespace Sys2Proof.Machine

/-- The bits of a character make up that character. -/
theorem charOfBits_bits (c : LineChar) : charOfBits c.bits = some c := by
  obtain ⟨d, m⟩ := c
  have h : ∀ x : Byte, bit (x.getLsbD 0) 0 ||| bit (x.getLsbD 1) 1 ||| bit (x.getLsbD 2) 2 ||| bit (x.getLsbD 3) 3 |||
      bit (x.getLsbD 4) 4 ||| bit (x.getLsbD 5) 5 ||| bit (x.getLsbD 6) 6 ||| bit (x.getLsbD 7) 7 = x := by
    decide +kernel
  exact congrArg (fun y => some (LineChar.mk y m)) (h d)

theorem LineChar.bits_length (c : LineChar) : c.bits.length = 11 := rfl

/-- The bits of a byte, followed by any others, make up that byte first. -/
theorem spiBytes_byte (b : Byte) (rest : List Bool) :
    spiBytes (spiBits b ++ rest) = (b :: (spiBytes rest).1, (spiBytes rest).2) := by
  have h : ∀ x : Byte, bit (x.getLsbD 7) 7 ||| bit (x.getLsbD 6) 6 ||| bit (x.getLsbD 5) 5 ||| bit (x.getLsbD 4) 4 |||
      bit (x.getLsbD 3) 3 ||| bit (x.getLsbD 2) 2 ||| bit (x.getLsbD 1) 1 ||| bit (x.getLsbD 0) 0 = x := by
    decide +kernel
  simp only [spiBits, spiBytes, List.cons_append, List.nil_append, h b]

/-- The bits of bytes, followed by fewer than eight, make up those bytes and that tail. -/
theorem spiBytes_flatMap (bs : List Byte) (tail : List Bool) (h : tail.length < 8) :
    spiBytes (bs.flatMap spiBits ++ tail) = (bs, tail) := by
  induction bs with
  | nil =>
    match tail, h with
    | [], _ | [_], _ | [_, _], _ | [_, _, _], _ | [_, _, _, _], _ | [_, _, _, _, _], _ | [_, _, _, _, _, _], _
    | [_, _, _, _, _, _, _], _ => rfl
    | _ :: _ :: _ :: _ :: _ :: _ :: _ :: _ :: _, h => simp only [List.length_cons] at h; omega
  | cons b bs ih => rw [List.flatMap_cons, List.append_assoc, spiBytes_byte, ih]

/-- The bits a processor drives are the bits sampled. -/
theorem sampleRising_spiWave (bits : List Bool) : sampleRising .low (spiWave bits) = bits := by
  have h : ∀ before : Level, sampleRising before (spiWave bits) = bits := by
    induction bits with
    | nil => intro before; cases before <;> rfl
    | cons b bs ih =>
      intro before
      show sampleRising before (⟨.low, b⟩ :: ⟨.high, b⟩ :: spiWave bs) = _
      cases before <;> simp [sampleRising, ih]
  exact h .low

@[simp] theorem attentionPin_low (s : State) (p : Port) : s.attentionPin p = .low ↔ s.attention p = true := by
  cases h : s.attention p <;> simp [State.attentionPin, h]

@[simp] theorem selectPin_high (s : State) (p : Port) : s.selectPin p = .high ↔ (s.port p).trans = .idle := by
  cases h : (s.port p).trans <;> simp [State.selectPin, h]

end Sys2Proof.Machine
end

