-- ==== Sys2Proof/Tests/Slice0.lean ====
section
/-! SUPPORT. Tests: the well-formedness smoke, the manual's worked examples, single commands on a small station, and for
each statement with hypotheses a state and operands that meet them. Expected values come from the sections cited. -/

namespace Sys2Proof.Tests

set_option Elab.async false

open Sys2Proof Sys2Proof.Machine

/-! ## Helpers -/

/-- The next state of an outcome. -/
def nextOf : Outcome → Option State
  | .next s => some s
  | .fault _ | .refused _ => none

/-- The state after a command; the state itself where there is none. -/
def after (c : Instr) (s : State) : State := (nextOf (exec c s)).getD s

/-- Several commands, one after another. -/
def afterAll (cs : List Instr) (s : State) : State := cs.foldl (fun t c => after c t) s

/-- The status a port holds. -/
def statusAt (p : Port) (s : State) : Option Status := (s.port p).held.map (fun r => r.status)

/-- The fields a port holds. -/
def fieldsAt (p : Port) (s : State) : Option Fields := (s.port p).held.map (fun r => r.fields)

/-- The Port N list as slots and levels. -/
def listed (s : State) : List (Nat × Nat) := s.listN.map (fun x => (x.slot, x.record.level))

/-- The class of section 1.6.1, with the limits of section 1.5.1. -/
def cls1 : ClassRec := { incl := 30, unit := 15, price := 50, cap := 600, minBal := -40, limit := 2, life := 10 }

/-- An entry of class 0 that has no ride. -/
def entry (c : CredNo) : Cred :=
  { number := c, state := .active, cls := 0, secret := 0x12345678#32, counter := 2#16, balance := 200, overdraft := 40,
    openRides := 0, mark := 3#8 }

/-- A ride of a credential with a tag, at a dock. -/
def ride (n : RideNo) (c : CredNo) (d : DockIx) (tag : BikeTag) (slot : Nat) (st : RideState) : Ride :=
  { number := n, cred := c, cls := 0, dock := d, tag := tag, state := st, admMinute := 1000#16, admSecond := 0,
    release := if st = .queued then none else some 1000#16, takeUp := if st = .opened then some 1001#16 else none,
    late := false, slot := slot, source := .dock, waitLeft := if st = .queued then some 0 else none,
    windowLeft := if st = .releasing then some 0 else none,
    progress := .delivered }

/-- A fitted dock that answers. -/
def dockAt (st : DockState) (tag : BikeTag) : Dock := { state := st, link := .online, tag := tag, since := 990#16 }

/-- Line A: RUNNING, a round in progress at the lowest address. -/
def lineOn : LineCtl := { state := .running, roundOn := true, pos := some 0, errTimer := some 0 }

/-- A station in mid-service: line A runs with docks A1 DOCKED, A2 QUEUED with its grant and OPEN, A3 RELEASING, A4
EMPTY, A5 RELATCHING without a ride, A6 UNKNOWN; credential 1 has an OPEN ride of tag 21, 2 a QUEUED and a RELEASING
one, 3 is LAPSED with an OPEN ride of tag 22, 4 and 5 have none; sweep 7 is open; a notice and a record are posted,
and each port holds a slot. -/
def station : State :=
  { State.reset with
    minute := 1047#16, second := 59, clockSet := true
    classes := Vector.replicate 4 cls1
    creds := [{ entry 1#24 with openRides := 1 }, { entry 2#24 with openRides := 2 },
              { entry 3#24 with openRides := 1, state := .lapsed }, { entry 4#24 with mark := 7#8 }, entry 5#24]
    sweep := ⟨7#8, 3#8, some ⟨600, 600⟩⟩
    rides := [ride 1#16 1#24 0 21#32 0 .opened, ride 2#16 2#24 1 12#32 1 .queued, ride 3#16 2#24 2 13#32 2 .releasing,
              ride 4#16 3#24 0 22#32 3 .opened]
    nextRide := 5#16
    docks := (((((State.reset.docks.set 0 (dockAt .docked 11#32)).set 1 { dockAt .queued 12#32 with pending := .openCmd }).set
      2 (dockAt .releasing 13#32)).set 3 (dockAt .empty 0#32)).set 4 { dockAt .relatching 14#32 with pending := .closeCmd }).set
      5 { state := .unknown }
    releaseQ := [⟨1, 2#16, true⟩]
    grants := [1, 2]
    lineA := lineOn
    free := (List.range 376).map (fun n => n + 8)
    listN := [⟨4, ⟨2, true, .notice (.dock 5) 1040#16 3 (.nodeLost none)⟩⟩]
    listK := [⟨5, ⟨0, false, .outcome 3#16 2#24 2 .taken⟩⟩]
    portN := { masks := 0x3F#8, latched := 0x14#8,
               taken := [⟨6, ⟨1, true, .notice (.dock 0) 1039#16 0 (.rideStarted 1#16 1#24 false)⟩⟩] }
    portK := { masks := 0x0F#8, taken := [⟨7, ⟨0, false, .outcome 1#16 1#24 0 .taken⟩⟩] } }

/-- A state with the turn of an address of line A in a phase, carrying a command. -/
def turned (s : State) (a : Addr) (cmd : Pending) (ph : TurnPhase) : State :=
  { s with lineA := { lineOn with pos := some a, turn := some ⟨a, cmd, 0#8, 6, ph⟩ } }

/-- The station so. -/
def inTurn (a : Addr) (cmd : Pending) (ph : TurnPhase) : State := turned station a cmd ph

/-- A STATUS reply with nothing to report but bike, tag and latch. -/
def status (bike : Bool) (tag : BikeTag) (latch : Latch) : StatusReply := ⟨bike, tag, latch, false, false, none⟩

/-- A state with line A QUIET: a round in progress between turns at this address, or none. -/
def inQuiet (s : State) (pos : Option Addr) : State :=
  { s with lineA := { lineOn with state := .quiet, quietInterval := some ⟨0, 2⟩, roundOn := pos.isSome, pos := pos } }

/-- The station with the budget spent and two entries waiting behind that of A2: A7 first and then A1. -/
def waiting : State :=
  { station with
    settings := { budget := 2 }
    creds := [{ entry 1#24 with openRides := 1 }, { entry 2#24 with openRides := 2 },
              { entry 3#24 with openRides := 1, state := .lapsed }, { entry 4#24 with openRides := 1 },
              { entry 5#24 with openRides := 1 }]
    rides := station.rides ++ [{ ride 5#16 4#24 6 15#32 8 .queued with progress := .notSent },
                               { ride 6#16 5#24 0 11#32 9 .queued with progress := .notSent }]
    nextRide := 7#16
    docks := (station.docks.set 0 (dockAt .queued 11#32)).set 6 (dockAt .queued 15#32)
    releaseQ := [⟨1, 2#16, true⟩, ⟨6, 5#16, false⟩, ⟨0, 6#16, false⟩]
    free := station.free.drop 2 }

/-- The token of a credential of the station that passes checks 1 to 5. -/
def goodToken (c : CredNo) : Token := ⟨c, 3#16, 1045#16, checkWord 0x12345678#32 c 3#16 1045#16⟩

/-- The station with a presentation at the head of its queue. -/
def presented (o : Origin) (t : Token) : State := { station with queue := [⟨o, t⟩] }

/-! ## Well-formedness: each check refuses an ill-formed command -/

theorem test_wf_dockFit : (Instr.dockFit .n 0#8 (List.replicate 31 1#8)).wellFormed = false := by decide +kernel
theorem test_wf_dockFit_most : (Instr.dockFit .n 0#8 (List.replicate 30 1#8)).wellFormed = true := by decide +kernel
theorem test_wf_badFrame_good : (Instr.badFrame .n [0x14#8, 3#8, crc8 [0x14#8, 3#8]] []).wellFormed = false := by decide +kernel
theorem test_wf_badFrame_collect : (Instr.badFrame .n [0xA5#8, 0#8] []).wellFormed = false := by decide +kernel
theorem test_wf_badFrame_empty : (Instr.badFrame .n [] []).wellFormed = false := by decide +kernel
theorem test_wf_badFrame_tail : (Instr.badFrame .n [7#8] (List.replicate 8 true)).wellFormed = false := by decide +kernel
theorem test_wf_badFrame : (Instr.badFrame .n [0x14#8, 3#8, 0#8] []).wellFormed = true := by decide +kernel
theorem test_wf_status : (Instr.statusReply .a (status false 5#32 .locked)).wellFormed = false := by decide +kernel
theorem test_wf_wait : (Instr.queueWaitExpiry 0#16).wellFormed = false := by decide +kernel
theorem test_wf_window : (Instr.takeUpWindowExpiry 0#16).wellFormed = false := by decide +kernel

/-! ## Worked examples of chapter 1 -/

/-- Section 1.3.1. -/
theorem test_checkWord_plain : checkWord 0x12345678#32 1000#24 3#16 256#16 = 0x9424C298#32 := by decide +kernel
/-- Section 1.3.2. -/
theorem test_checkWord_wrap : checkWord 0xF0E1D2C3#32 100000#24 37#16 3600#16 = 0x0A0646DE#32 := by decide +kernel

/-- The table of section 1.4.1. -/
theorem test_counter_window :
    [(65530#16, 5#16), (100#16, 100#16), (100#16, 99#16), (100#16, 164#16), (100#16, 165#16), (100#16, 32867#16),
     (100#16, 32868#16), (0#16, 0#16)].map (fun x => counterTest x.1 x.2 64) =
    [none, some .counterStale, some .counterStale, none, some .counterFar, some .counterFar, some .counterStale,
     some .counterStale] := by decide +kernel

/-- The table of section 1.5.1. -/
theorem test_time_window :
    [(3#16, 65534#16), (100#16, 100#16), (100#16, 90#16), (100#16, 89#16), (100#16, 102#16), (100#16, 103#16),
     (65535#16, 1#16), (20000#16, 52769#16), (20000#16, 52768#16)].map (fun x => timeTest x.1 x.2 10 2) =
    [none, none, none, some .tokenExpired, none, some .tokenEarly, none, some .tokenExpired, some .tokenEarly] := by decide +kernel

/-- The table of section 1.6.1: charge, capped, clock step. -/
theorem test_charges :
    [(1000#16, 1047#16), (1000#16, 1030#16), (1000#16, 1031#16), (1000#16, 1280#16), (65500#16, 20#16),
     (1000#16, 990#16), (1000#16, 33767#16), (1000#16, 33768#16)].map (fun x =>
      (chargeOf cls1 (rideDuration x.1 x.2).1, (rideDuration x.1 x.2).2)) =
    [((100, false), false), ((0, false), false), ((50, false), false), ((600, true), false), ((100, false), false),
     ((0, false), true), ((600, true), false), ((0, false), true)] := by decide +kernel

/-- The table of section 1.6.2: overdraft limit, balance, charge; balance after and shortfall. -/
theorem test_balances :
    [debit 40 80 100, debit 40 60 100, debit 40 30 100, debit 40 140 100, debit 40 (-40) 0, debit 40 (-40) 100,
     debit 0 0 600] =
    [(-20, 0), (-40, 0), (-40, 30), (40, 0), (-40, 0), (-40, 100), (0, 600)] := by decide +kernel

/-! ## Formats -/

/-- Section 12.3.1: POLL to A3 with acknowledgement 15h. -/
theorem test_poll_frame : commandFrame 2 .none 0x15#8 = [0x03#8, 0x01#8, 0x15#8, 0xC3#8] := by decide +kernel

/-- The check of that frame leaves 0 (section 12.3.1). -/
theorem test_poll_check : crc8 [0x03#8, 0x01#8, 0x15#8, 0xC3#8] = 0#8 := by decide +kernel

/-- A CLOCK SET frame is read field by field, most significant byte first (R192): minute 0E10h, second 3Bh. -/
theorem test_clockSet_frame :
    requestOfFrame .n (withCheck [0x07#8, 0x06#8, 0x0E#8, 0x10#8, 0x3B#8]) = some (.clockSet .n 3600#16 59#8) := by decide +kernel

/-- A condition byte of 2Bh: bike present, latch OPEN, reader fault, no power low, token present (R194). -/
theorem test_status_condition :
    conditionByte ⟨true, 5#32, .unlatched, true, false, some ⟨1#8, ⟨1#24, 1#16, 1#16, 1#32⟩⟩⟩ = 0x2B#8 := by decide +kernel

/-- The characters of a POLL to A3. -/
def inTurnFrame : List LineChar := Turn.frame ⟨2, .none, 0x15#8, 6, .sending⟩

/-- The bits of the first two characters of that frame: start, data least significant bit first, mark, stop (R194). -/
theorem test_poll_bits : ((inTurnFrame.map LineChar.bits).take 2) =
    [[.start, .value true, .value true, .value false, .value false, .value false, .value false, .value false, .value false,
      .value true, .stop],
     [.start, .value true, .value false, .value false, .value false, .value false, .value false, .value false, .value false,
      .value false, .stop]] := by decide +kernel

/-- WAKE is one character: 40h with its mark bit set (R194). -/
theorem test_wake_bits : wakeFrame.map LineChar.bits =
    [[.start, .value false, .value false, .value false, .value false, .value false, .value false, .value true, .value false,
      .value true, .stop]] := by decide +kernel

/-- R193, section 12.4: LINE_DEGRADED of line B, and a FOREIGN_RETURN, whose absent fields the model fills with zeros
(log 36). -/
theorem test_record_bytes :
    (⟨2, true, .notice (.line .b) 0x0102#16 3 (.lineDegraded 12 11)⟩ : Record).bytes =
      [7#8, 2#8, 0#8, 0x80#8, 1#8, 1#8, 1#8, 2#8, 3#8, 12#8, 11#8] ++ List.replicate 21 0#8 ∧
    (⟨1, false, .trip .foreignReturn
      ⟨none, 0#24, 0x01020304#32, none, some 33, none, 0x0506#16, none, 0, 0, none, false, false, false, false⟩⟩ : Record).bytes =
      [0x13#8, 1#8, 4#8, 0#8, 0#8, 0#8, 0#8, 0#8, 0#8, 1#8, 2#8, 3#8, 4#8, 0#8, 33#8, 0#8, 0#8, 5#8, 6#8] ++
        List.replicate 13 0#8 := by decide +kernel

/-- R192: the response to GIVE BACK, refused NOT_FOUND; status, code, events present and masked, no fields, check. -/
theorem test_response_bytes :
    (responseBytes (some ⟨0x15#8, .notFound, .none⟩) 0x14#8 0x3F#8).dropLast = [6#8, 0x15#8, 0x14#8, 0x3F#8, 0#8] := by
  decide +kernel

/-- R192: STATION SET of the high mark answers setting and value with presence map 2 and the low mark it moved; of a line
rate with presence map 1, the line and zeros; of the budget with map 0 and zeros. -/
theorem test_stationSet_bytes :
    (Fields.setting 5#8 none 6 (some 5)).bytes = [2#8, 5#8, 0#8, 0#8, 6#8, 0#8, 5#8] ∧
    (Fields.setting 14#8 (some .b) 3 none).bytes = [1#8, 14#8, 1#8, 0#8, 3#8, 0#8, 0#8] ∧
    (Fields.setting 4#8 none 8 none).bytes = [0#8, 4#8, 0#8, 0#8, 8#8, 0#8, 0#8] := by decide +kernel

/-- R195: 81h is shifted most significant bit first, and READ STATION with its check in a wave is that request. -/
theorem test_spi_bits : spiBits 0x81#8 = [true, false, false, false, false, false, false, true] ∧
    commandOfWave .n (spiWave ((withCheck [0x19#8, 0x03#8]).flatMap spiBits)) = .readStation .n := by decide +kernel

/-- R195, R115: attention is low while asserted, data out undriven while select is high, and a line driven in the break
time and in a frame alone. -/
theorem test_pins :
    (after (.maskClear .n 0x10#8) station).attentionPin .n = .low ∧ State.reset.attentionPin .n = .high ∧ station.selectPin .k = .high ∧
    (after (.transactionStart .k) station).selectPin .k = .low ∧ dataOutPin .high true = none ∧
    (inTurn 2 .none .sending).driverEnabled .a = true ∧ (inTurn 2 .none .awaiting).driverEnabled .a = false ∧
    (after (.lineRestart .n 0#8) station).lineA.out = .breakLevel ∧
    (afterAll [.lineRestart .n 0#8, .breakTimeEnd .a] station).driverEnabled .a = false := by decide +kernel

/-! ## Section 3.6.4: the dock choice across the minute wrap -/

/-- The six docks of the table, both lines RUNNING, minute 10. -/
def choiceStation : State :=
  { State.reset with
    minute := 10#16, lineA := lineOn, lineB := lineOn
    docks := (((((State.reset.docks.set 1 { dockAt .docked 1#32 with since := 65530#16 }).set 4 { dockAt .docked 2#32 with since := 3#16 }).set
      8 (dockAt .empty 0#32)).set 30 { dockAt .docked 3#32 with since := 65520#16, hold := some .n }).set
      33 { dockAt .docked 4#32 with since := 65500#16, link := .lost }).set 38 { dockAt .docked 5#32 with since := 65530#16 } }

theorem test_choice : chooseDock choiceStation false = some 1 := by decide +kernel
theorem test_choice_may_held : chooseDock choiceStation true = some 30 := by decide +kernel
theorem test_choice_break : chooseDock (choiceStation.setLine .a { lineOn with state := .brk }) false = some 38 := by
  decide +kernel

/-! ## Single commands on the station -/

theorem test_station_ConfigInv : ConfigInv station := by decide +kernel
theorem test_station_GrantBound : GrantBound station := by decide +kernel
theorem test_station_QueueInv : QueueInv station := by decide +kernel
theorem test_station_CredInv : CredInv station := by decide +kernel
theorem test_station_CountInv : CountInv station := by decide +kernel
theorem test_station_TagInv : TagInv station := by decide +kernel
theorem test_station_DockTagInv : DockTagInv station := by decide +kernel
theorem test_station_RideBound : RideBound station := by decide +kernel
theorem test_station_GrantsIssued : GrantsIssued station := by decide +kernel
theorem test_station_ListsInv : ListsInv station := by decide +kernel
theorem test_station_DockInv : DockInv station := by decide +kernel
theorem test_station_UnfittedInv : UnfittedInv station := by decide +kernel
theorem test_station_LineInv : LineInv station := by decide +kernel
theorem test_station_BindInv : BindInv station := by decide +kernel
theorem test_station_ReleaseQInv : ReleaseQInv station := by decide +kernel
theorem test_station_GrantSetInv : GrantSetInv station := by decide +kernel
theorem test_station_PendingInv : PendingInv station := by decide +kernel
theorem test_station_ReleaseInv : ReleaseInv station :=
  ⟨test_station_BindInv, test_station_ReleaseQInv, test_station_GrantSetInv, test_station_PendingInv⟩
theorem test_station_slots : SlotInv station := by decide +kernel

theorem test_waiting_ReleaseInv : ReleaseInv waiting := ⟨by decide +kernel, by decide +kernel, by decide +kernel, by decide +kernel⟩
theorem test_waiting_GrantsIssued : GrantsIssued waiting := by decide +kernel

/-- R105, R108 to R110: a grant given back goes to the oldest waiting entry, and a raised budget to as many as it allows. -/
theorem test_oldest_granted :
    let s := after (.rideCancel .n 2#16) waiting
    let u := after (.stationSet .n 4#8 0#8 3#16) waiting
    (s.releaseQ = [⟨6, 5#16, true⟩, ⟨0, 6#16, false⟩] ∧ s.grants = [2, 6] ∧ (s.dock 6).pending = .openCmd ∧
      (s.dock 0).pending = .none ∧ newGrants waiting [1] = [6]) ∧
    (u.releaseQ = [⟨1, 2#16, true⟩, ⟨6, 5#16, true⟩, ⟨0, 6#16, false⟩] ∧ u.grants = [1, 2, 6]) ∧
    (after (.stationSet .n 4#8 0#8 8#16) waiting).grants = [1, 2, 6, 0] := by decide +kernel

/-- R68, R120, R123: OPEN goes out with the turn of A2 and counts as delivered after a STATUS, not after a BUSY. -/
theorem test_open_progress :
    let go (reply : Instr) (s : State) := afterAll [.turnStart .a, .commandDelivered .a, reply] s
    let s := { station with lineA := { lineOn with pos := some 1 }, rides := station.rides.map (fun r => { r with progress := .notSent }) }
    let p (u : State) := (u.findRide 2#16).map (fun r => r.progress)
    p (after (.turnStart .a) s) = some .inFlight ∧ p (go (.busyReply .a) s) = some .notSent ∧
    p (go (.statusReply .a (status true 12#32 .locked)) s) = some .delivered ∧
    p (go (.lineRestart .n 0#8) s) = some .delivered ∧
    p (afterAll [.turnStart .a, .lineRestart .n 0#8] s) = some .notSent := by decide +kernel

/-- R1, R62: the rollover wraps the minute counter and clears the mismatch counts. -/
theorem test_rollover_wraps :
    let s := (after .secondTick { station with minute := 65535#16, docks := station.docks.set 0 { station.docks.get 0 with mismatch := 3 } })
    s.minute = 0#16 ∧ s.second.val = 0 ∧ (s.dock 0).mismatch = 0 := by decide +kernel
theorem test_rollover_command : after .minuteRollover station = after .secondTick station := by decide +kernel

/-- R3: a second above 59 is clamped. -/
theorem test_clockSet : let s := after (.clockSet .n 7#16 60#8) station
    s.minute = 7#16 ∧ s.second.val = 59 ∧ statusAt .n s = some .clamped := by decide +kernel

/-- The table of R6: U = 0, K = 6, V = 300, I = 241, P = 1200, C = 30001. -/
theorem test_classSet : let s := after (.classSet .n 3#8 241#8 0#8 1200#16 30001#16 0xFFFF#16 6#8 300#16 2#8) station
    s.classes.get 3 = ⟨240, 1, 1000, 30000, -1, 4, 240, true⟩ ∧ statusAt .n s = some .clamped := by decide +kernel

/-- R24, R33: a new entry takes the mark of the open sweep. -/
theorem test_credLoad : let s := after (.credLoad .n 9#24 1#8 2#8 5#32 6#16 0xFFF6#16 4#16 1#8) station
    s.findCred 9#24 = some ⟨9#24, .suspended, 2, 5#32, 6#16, -4, 4, 0, 7#8⟩ ∧ statusAt .n s = some .clamped := by decide +kernel
/-- R25: keep-local keeps counter and balance. -/
theorem test_credLoad_keep : let s := after (.credLoad .n 5#24 0#8 1#8 5#32 6#16 10#16 4#16 1#8) station
    (s.findCred 5#24).map (fun e => (e.counter, e.balance, e.overdraft)) = some (2#16, 200, 4) := by decide +kernel

/-- R24, R28: a new entry may be REVOKED from the start; an old one loses its QUEUED ride and takes every field. -/
theorem test_credLoad_revoked :
    (let s := after (.credLoad .n 9#24 2#8 3#8 5#32 6#16 0xFFF6#16 4#16 1#8) station
     s.findCred 9#24 = some ⟨9#24, .revoked, 3, 5#32, 6#16, -4, 4, 0, 7#8⟩ ∧ s.rides = station.rides) ∧
    (let s := after (.credLoad .n 2#24 2#8 3#8 5#32 6#16 10#16 4#16 0#8) station
     s.findCred 2#24 = some ⟨2#24, .revoked, 3, 5#32, 6#16, 10, 4, 1, 7#8⟩ ∧ s.findRide 2#16 = none) := by decide +kernel
/-- R28: REVOKED cancels the QUEUED ride alone. -/
theorem test_credState_revoked : let s := after (.credState .n 2#24 2#8) station
    s.rides.map (fun r => r.number) = [1#16, 3#16, 4#16] ∧ (s.findCred 2#24).map (fun e => e.openRides) = some 1 ∧
    (s.dock 1).state = .docked ∧ s.grants = [2] := by decide +kernel

/-- The third row of the table of R27: balance 10, D = 40, ADD −100. -/
theorem test_credBalance :
    let s := after (.credBalance .n 5#24 1#8 0xFF9C#16) { station with creds := [{ entry 5#24 with balance := 10 }] }
    (s.findCred 5#24).map (fun e => e.balance) = some (-40) ∧ statusAt .n s = some .clamped := by decide +kernel

/-- R30: an entry whose rides remain becomes LAPSED. -/
theorem test_credRemove : let s := after (.credRemove .n 1#24) station
    (s.findCred 1#24).map (fun e => (e.state, e.openRides)) = some (.lapsed, 1) := by decide +kernel

/-- R37: a second SWEEP OPEN abandons the open sweep. -/
theorem test_sweepOpen : let s := after (.sweepOpen .n 8#8) station
    s.sweep.openNo = 8#8 ∧ s.listN.map (fun x => x.record.body) =
      [.notice (.dock 5) 1040#16 3 (.nodeLost none), .notice .none 1047#16 59 (.sweepAbandoned 7#8 .reopen (some 8#8))] := by
  decide +kernel

/-- R28, R35: entry 2 loses its QUEUED ride and stays LAPSED with the other one. -/
theorem test_sweepClose_lapsed : ((after (.sweepClose .n 7#8) station).findCred 2#24) =
    some { entry 2#24 with state := .lapsed, openRides := 1 } := by decide +kernel
/-- R35: entry 4 carries the mark, 5 is deleted, 1 to 3 hold rides. -/
theorem test_sweepClose : let s := after (.sweepClose .n 7#8) station
    fieldsAt .n s = some (.sweepCounts 1 3 1) ∧ s.creds.map (fun e => e.number) = [1#24, 2#24, 3#24, 4#24] := by decide +kernel

/-- R82: charge 100 for 47 minutes from balance 200; no slot is taken. -/
theorem test_rideClose : let s := after (.rideClose .n 21#32 1047#16) station
    fieldsAt .n s = some (.rideClosed 1#16 100 0 100) ∧ listed s = [(4, 2), (0, 1)] := by decide +kernel
/-- R81: the close of a RELEASING ride leaves its dock RELATCHING with CLOSE pending and no grant. -/
theorem test_rideClose_early : let s := after (.rideClose .n 13#32 1047#16) station
    (s.dock 2).state = .relatching ∧ (s.dock 2).pending = .closeCmd ∧ s.grants = [1] ∧ s.findRide 3#16 = none := by
  decide +kernel

/-- R29, R80: the close of the last ride of a LAPSED entry deletes the entry. -/
theorem test_close_lapsed : (after (.rideClose .n 22#32 1047#16) station).findCred 3#24 = none := by decide +kernel

/-- R88: a QUEUED dock may not be unfitted. -/
theorem test_dockFit : let s := after (.dockFit .n 0#8 [1#8, 3#8, 5#8]) station
    statusAt .n s = some .badState ∧ s.docks = station.docks := by decide +kernel
/-- R89, R131, R120: a first fit of line B, its break, and the first turn at its lowest address. -/
theorem test_line_up :
    let s := afterAll [.dockFit .n 1#8 [30#8, 7#8], .breakTimeEnd .b, .recoveryEnd .b, .turnStart .b, .commandDelivered .b] station
    (s.line .b).state = .running ∧ (s.line .b).turn = some ⟨6, .none, 0#8, 6, .awaiting⟩ ∧ s.fitted 36 = true ∧
    s.fitted 59 = true ∧ s.driverEnabled .b = false := by decide +kernel

/-- R139: a new rate restarts the line with cause RATE. -/
theorem test_stationSet_rate : let s := after (.stationSet .n 14#8 0#8 3#16) station
    (s.line .a).state = .brk ∧ (s.line .a).rate = .r115200 ∧ (s.line .a).breakCause = some .rate := by decide +kernel
/-- R188: a high mark at or below the low mark pulls the low mark below it. -/
theorem test_stationSet_high : let s := after (.stationSet .n 5#8 0#8 6#16) station
    s.settings.high = 6 ∧ s.settings.low = 5 ∧ statusAt .n s = some .clamped := by decide +kernel

/-- R154: a trip record kind at level 0 is stored as 1. -/
theorem test_kindSet : let s := after (.kindSet .n 0x10#8 0#8) station
    (s.level .closedHere).val = 1 ∧ statusAt .n s = some .clamped := by decide +kernel

theorem test_lineRestart : let s := after (.lineRestart .n 0#8) station
    (s.line .a).state = .brk ∧ (s.line .a).breakCause = some .request ∧ s.grants = station.grants := by decide +kernel

/-- R46: a preferred dock of 60 names none. -/
theorem test_tokenPresent : statusAt .k (after (.tokenPresent .k (goodToken 5#24) 60#8) station) = some .badValue := by
  decide +kernel

theorem test_dockHold : let s := after (.dockHold .k 0#8) station
    (s.dock 0).hold = some .k ∧ statusAt .k s = some .ok := by decide +kernel
theorem test_dockFree : let s := afterAll [.dockHold .n 0#8, .dockFree .k 0#8] station
    (s.dock 0).hold = none := by decide +kernel
theorem test_readDock : fieldsAt .k (after (.readDock .k 1#8) station) =
    some (.dock (station.dock 1) (some 2#16) true) := by decide +kernel
theorem test_rideCancel : let s := after (.rideCancel .k 2#16) station
    s.listK.map (fun x => x.slot) = [5, 8] ∧ s.free.getLast? = some 1 ∧ (s.dock 1).state = .docked := by decide +kernel
theorem test_readRide : fieldsAt .n (after (.readRide .n 1#8 13#32) station) =
    some (.ride (ride 3#16 2#24 2 13#32 2 .releasing)) := by decide +kernel
theorem test_take : let s := after (.take .k) station
    s.listK = [] ∧ s.portK.taken.map (fun x => x.slot) = [7, 5] := by decide +kernel
theorem test_giveBack : let s := after (.giveBack .n 6#16) station
    s.portN.taken = [] ∧ s.free.getLast? = some 6 := by decide +kernel
theorem test_readStation : (match fieldsAt .n (after (.readStation .n) station) with
    | some (.station r) => (r.freeCount, r.rides, r.creds, r.grants, r.posted, r.held)
    | _ => (0, 0, 0, 0, 0, 0)) = (376, 4, 5, 2, 1, 1) := by decide +kernel
theorem test_maskClear : let s := after (.maskClear .n 0x10#8) station
    s.attention .n = true ∧ s.portN.masks = 0x2F#8 := by decide +kernel
theorem test_maskSet : (after (.maskSet .k 0x10#8) station).portK.masks = 0x0F#8 := by decide +kernel
theorem test_eventClear : fieldsAt .n (after (.eventClear .n 0x04#8) station) = some (.events 0x11#8) := by decide +kernel

/-- Section 10.8.1: PORT CLEAR returns 60 and 61 in front of their levels and abandons sweep 7 in slot 70. -/
theorem test_portClear :
    let x (n k : Nat) : Posted := ⟨n, ⟨k, true, .notice (.dock 0) 0#16 0 .nodePowerLow⟩⟩
    let s := after (.portClear .n) { station with
      free := (List.range 200).map (fun n => n + 70), listN := [x 64 3, x 62 1], levels := resetLevels.set 9 2
      portN := { masks := 0x3F#8, latched := 0x14#8, taken := [x 60 3, x 61 1] } }
    listed s = [(60, 3), (64, 3), (70, 2), (61, 1), (62, 1)] ∧ s.portN.latched = 0x20#8 ∧ s.sweep.openNo = 0#8 ∧
    s.free.length = 199 := by decide +kernel

/-- R175, R192: the response of GIVE BACK is removed when all its bytes have been shifted. -/
theorem test_collect : let s := afterAll [.giveBack .n 6#16, .transactionStart .n, .collect .n 7] station
    s.portN.held = none ∧ s.portN.dataOut.length = 8 := by decide +kernel
theorem test_badFrame : let s := after (.badFrame .k [0x14#8, 3#8, 0#8] []) station
    s.portK.held = some ⟨0x14#8, .badFrame, .none⟩ := by decide +kernel
theorem test_select_at_reset : let s := afterAll [.powerOnOrPinReset true false, .readStation .n] station
    s.portN = { masks := 0x3F#8 } := by decide +kernel

/-- R56 to R60, section 3.6.2: a good token at A1 is admitted, granted and shown ACCEPT. -/
theorem test_admission : let s := after .admissionDecision (presented (.dock 0 9#8) (goodToken 4#24))
    (s.dock 0).state = .queued ∧ (s.dock 0).pending = .showCmd .accept 9#8 ∧ s.releaseQ = [⟨1, 2#16, true⟩, ⟨0, 5#16, true⟩] ∧
    (s.findCred 4#24).map (fun e => (e.counter, e.openRides)) = some (3#16, 1) ∧ (s.findRide 5#16).map (fun r => r.slot) = some 8 := by
  decide +kernel
/-- R52: a token at the EMPTY dock A4 is refused NO_BIKE, and its counter is spent. -/
theorem test_refusal : let s := after .admissionDecision (presented (.dock 3 9#8) (goodToken 4#24))
    s.listK.map (fun x => x.record.body) = [.outcome 3#16 2#24 2 .taken, .decision (some 3) 4#24 .noBike none none] ∧
    (s.findCred 4#24).map (fun e => e.counter) = some 3#16 := by decide +kernel

theorem test_queueWait : (after (.queueWaitExpiry 2#16) station).findRide 2#16 = none := by decide +kernel
theorem test_takeUpWindow : ((after (.takeUpWindowExpiry 3#16) station).findRide 3#16).map (fun r => r.state) = some .relatching := by
  decide +kernel

/-- R69: the bike is gone from RELEASING A3. -/
theorem test_takeUp : let s := after (.statusReply .a (status false 0#32 .unlatched)) (inTurn 2 .none .awaiting)
    (s.dock 2).state = .empty ∧ s.grants = [1] ∧ listed s = [(4, 2), (9, 1)] ∧ (s.line .a).pos = some 3 := by decide +kernel
/-- R79, R80: tag 21 is returned at A4; the ride of 47 minutes costs 100. -/
theorem test_return : let s := after (.statusReply .a (status true 21#32 .locked)) (inTurn 3 .none (.receiving 0x84#8))
    (s.dock 3).state = .docked ∧ (s.findCred 1#24).map (fun e => e.balance) = some 100 ∧ listed s = [(4, 2), (0, 1)] := by
  decide +kernel

theorem test_busyReply : ((after (.busyReply .a) (inTurn 0 .none .awaiting)).dock 0).busy = 1 := by decide +kernel
/-- A reply from the wrong address fails the turn with a line error. -/
theorem test_badReply : let s := after (.badReply .a 0x82#8 []) (inTurn 0 .none .awaiting)
    (s.dock 0).failed = 1 ∧ (s.line .a).errors = 1 := by decide +kernel
theorem test_replyGap : ((after (.replyGapTimeout .a) (inTurn 0 .none (.receiving 0x81#8))).line .a).errors = 1 := by decide +kernel
/-- No error is counted at A6, whose link is not ONLINE (R121, R128). -/
theorem test_replyWindow : let s := after (.replyWindowExpiry .a) (inTurn 5 .none .awaiting)
    (s.dock 5).failed = 1 ∧ (s.line .a).errors = 0 ∧ (s.line .a).pos = some 0 := by decide +kernel
theorem test_replyStart : ((after (.replyStart .a 0x81#8) (inTurn 0 .none .awaiting)).line .a).turn =
    some ⟨0, .none, 0#8, 6, .receiving 0x81#8⟩ := by decide +kernel
theorem test_errorPeriod : let s := after (.errorPeriodBoundary .a) (station.setLine .a { lineOn with errors := 3, errTimer := some 8 })
    (s.line .a).errors = 0 ∧ (s.line .a).errTimer = some 0 := by decide +kernel
theorem test_sweepIdle : (after .sweepIdleExpiry station).sweep = ⟨0#8, 3#8, none⟩ := by decide +kernel
theorem test_emptyEnd : ((afterAll [.transactionStart .k, .emptyTransactionEnd .k] station).portK).trans = .idle := by decide +kernel

/-- R135 to R137: line A goes QUIET with nothing to do, its interval starts a round, and a WAKE returns it. -/
def quietStation : State :=
  { State.reset with
    settings := { quietA := true }, docks := State.reset.docks.set 0 (dockAt .docked 11#32)
    lineA := { state := .running, roundOn := false, errTimer := some 0, quietTimer := 300, quietDue := true } }
theorem test_quietEntry : ((after (.quietEntry .a) quietStation).line .a).state = .quiet := by decide +kernel
theorem test_quietInterval :
    let s := afterAll [.quietEntry .a, .secondTick, .secondTick, .quietIntervalExpiry .a] quietStation
    (s.line .a).roundOn = true ∧ (s.line .a).pos = some 0 ∧ (s.line .a).quietInterval = some ⟨0, 2⟩ := by decide +kernel
theorem test_wake : ((afterAll [.quietEntry .a, .wake .a] quietStation).line .a).state = .running := by decide +kernel

/-! ## Witnesses: for each statement with hypotheses, a state and operands that meet them, clause by clause -/

/-- The station with one command waiting. -/
def working : State := { station with pending := [.secondTick] }

theorem test_witness_StepTakesFront : State.reset.pending = [] ∧ working.pending = .secondTick :: [] := by decide +kernel

theorem test_witness_WrongPortRefused :
    (requestParts (.clockSet .k 0#16 60#8) = some (.clockSet, .k, [0#8, 0#8, 60#8]) ∧
      (Instr.clockSet .k 0#16 60#8).wellFormed = true ∧ station.takes .k) ∧
    (requestParts (.dockFit .k 0#8 (List.replicate 30 1#8)) = some (.dockFit, .k, 0#8 :: 30#8 :: List.replicate 30 1#8) ∧
      (Instr.dockFit .k 0#8 (List.replicate 30 1#8)).wellFormed = true) ∧
    (requestParts (.tokenPresent .n ⟨0#24, 0#16, 0#16, 0#32⟩ 0xFF#8) =
        some (.tokenPresent, .n, List.replicate 11 0#8 ++ [0xFF#8]) ∧ station.takes .n) := by decide +kernel

theorem test_witness_OtherPortUntouched :
    ∃ t, requestParts (.take .k) = some (.take, .k, []) ∧ exec (.take .k) station = .next t := ⟨_, rfl, rfl⟩

theorem test_witness_SecretHidden :
    ∃ t, Instr.readCred .n 1#24 ≠ .admissionDecision ∧ exec (.readCred .n 1#24) station = .next t := ⟨_, by decide, rfl⟩

/-- The largest window and life; each clause of the counter window and of the time window at its ends. -/
theorem test_witness_TokenArithmetic :
    (List.map (fun n => counterTest 0#16 n 32767) [0#16, 32768#16, 1#16, 32767#16] =
      [some .counterStale, some .counterStale, none, none]) ∧
    (List.map (fun n => counterTest 0#16 n 64) [64#16, 65#16, 32767#16] = [none, some .counterFar, some .counterFar]) ∧
    (List.map (fun m => timeTest m 0#16 10 2) [10#16, 65534#16, 11#16, 32767#16, 32768#16, 65533#16] =
      [none, none, some .tokenExpired, some .tokenExpired, some .tokenEarly, some .tokenEarly]) := by decide +kernel

theorem test_witness_ChargeUnits :
    (1 ≤ cls1.unit ∧ cls1.unit ≤ 240 ∧ chargeUnits cls1 32767 = 2183) ∧
    (chargeUnits { cls1 with unit := 240, incl := 240 } 240 = 0 ∧ chargeUnits { cls1 with unit := 1, incl := 0 } 32767 = 32767) := by
  decide +kernel

/-- A shortfall, a clock step, and the largest balance. -/
theorem test_witness_Settlement :
    let e := entry 1#24
    let low := { e with balance := -40 }
    let top := { e with balance := 32767, overdraft := 32767 }
    (-(low.overdraft : Int) ≤ low.balance ∧ low.balance ≤ 32767 ∧ 0 < (closeFigures cls1 low 1000#16 1031#16).shortfall) ∧
    (-(top.overdraft : Int) ≤ top.balance ∧ (closeFigures cls1 top 1000#16 33768#16).clockStep = true) := by decide +kernel

/-- Second 59 and 58; a RUNNING line with quiet enabled, with and without work. -/
theorem test_witness_SecondTickCounts :
    station.second.val = 59 ∧ ({ station with second := 58 } : State).second.val < 59 ∧
    ((quietStation.line .a).state = .running ∧ quietStation.settings.quiet .a = true ∧ quietStation.lineBusy .a = false) ∧
    (let s : State := { station with settings := { quietA := true } }
     (s.line .a).state = .running ∧ s.settings.quiet .a = true ∧ s.lineBusy .a = true) := by decide +kernel

theorem test_witness_ClockSetWrites : station.takes .n := by decide +kernel
theorem test_witness_ClassSetReplaces : station.takes .n ∧ station.takes .k ∧ (3#8).toNat < 4 ∧ 4 ≤ (4#8).toNat := by decide +kernel

/-- A table of 2048 entries. -/
def fullCreds : State := { station with creds := (List.range 2048).map (fun n => entry (BitVec.ofNat 24 (n + 1))) }

/-- Each bad field at the end of its range; a full table; an entry that exists and one that does not. -/
theorem test_witness_CredLoadWrites :
    station.takes .n ∧ (0#24 = 0#24 ∧ 3 ≤ (3#8).toNat ∧ 4 ≤ (4#8).toNat) ∧
    (5#24 ≠ 0#24 ∧ (station.findCred 5#24).isSome = true) ∧
    (9#24 ≠ 0#24 ∧ station.findCred 9#24 = none ∧ station.creds.length < 2048) ∧ (1#8).toNat < 2 ∧ (3#8).toNat < 4 ∧
    station.sweep.openNo ≠ 0#8 := by
  decide +kernel

theorem test_witness_CredLoadWrites_full :
    fullCreds.takes .n ∧ (2#8).toNat < 3 ∧ ¬ ((fullCreds.findCred 5000#24).isSome = true ∨ fullCreds.creds.length < 2048) := by
  decide +kernel

/-- Each clause; an entry ACTIVE and one REVOKED already. -/
theorem test_witness_CredStateSets :
    station.takes .n ∧ CredsSorted station ∧ RidesSorted station ∧ 3 ≤ (3#8).toNat ∧
    ((2#8).toNat < 3 ∧ station.findCred 9#24 = none) ∧ ((1#8).toNat < 2 ∧ (station.findCred 3#24).isSome = true) ∧
    (station.findCred 2#24 = some { entry 2#24 with openRides := 2 } ∧ (entry 2#24).state ≠ .revoked ∧ 2#24 ≠ 0#24 ∧
      (3#8).toNat < 4) ∧
    (station.findCred 9#24 = none ∧ station.creds.length < 2048 ∧ ∀ r ∈ station.rides, r.cred ≠ 9#24) ∧
    (let s := after (.credState .n 2#24 2#8) station
     s.takes .n ∧ CredsSorted s ∧ (s.findCred 2#24).map (fun e => e.state) = some .revoked) := by decide +kernel

theorem test_witness_CredBalanceWrites :
    station.takes .n ∧ station.takes .k ∧ station.findCred 9#24 = none ∧
    ((station.findCred 5#24).isSome = true ∧ 2 ≤ (2#8).toNat) ∧
    (CredsSorted station ∧ station.findCred 5#24 = some (entry 5#24) ∧ (1#8).toNat < 2) := by decide +kernel

theorem test_witness_CredRemoveWithdraws :
    station.takes .n ∧ station.findCred 9#24 = none ∧
    (station.findCred 5#24 = some (entry 5#24) ∧ (entry 5#24).openRides = 0) ∧
    (station.findCred 3#24 = some { entry 3#24 with openRides := 1, state := .lapsed }) ∧
    (CountInv station ∧ station.findCred 2#24 = some { entry 2#24 with openRides := 2 } ∧ (entry 2#24).state ≠ .lapsed) := by
  decide +kernel

theorem test_witness_SweepOpenAndAbandon :
    (State.reset.takes .n ∧ State.reset.sweep.openNo = 0#8 ∧ 255#8 ≠ 0#8) ∧ (station.takes .n ∧ station.sweep.openNo ≠ 0#8) ∧
    station.sweep.idle = some ⟨600, 600⟩ := by decide +kernel

theorem test_witness_SweepCloseWithdraws :
    (State.reset.takes .n ∧ State.reset.sweep.openNo = 0#8) ∧ station.takes .n ∧ CountInv station ∧ 7#8 ≠ 0#8 ∧
    station.sweep.openNo = 7#8 ∧ station.sweep.openNo ≠ 0#8 ∧ station.sweep.openNo ≠ 8#8 ∧
    (∃ e ∈ station.creds, e.mark ≠ 7#8 ∧ e.openRides = 2) ∧ (∃ e ∈ station.creds, e.mark ≠ 7#8 ∧ e.openRides = 0) := by
  decide +kernel

theorem test_witness_ReadsChangeNothing :
    station.takes .n ∧ station.takes .k ∧ 65535#16 ≠ 0#16 ∧ 1#32 ≠ 0#32 ∧ 65536 ≤ (65536#32).toNat ∧ 2 ≤ (2#8).toNat ∧
    60 ≤ (60#8).toNat := by decide +kernel

/-- From Port K, and in a reply from A1 in either phase: a new token, a new token under hold-off, a repeated one. -/
theorem test_witness_TokenPresentQueues :
    station.takes .k ∧ station.holdOff = false ∧ (60 ≤ (60#8).toNat ∧ (254#8).toNat ≤ 254) ∧
    (let s : State := { station with holdOff := true }
     s.takes .k ∧ (59#8).toNat < 60 ∧ s.holdOff = true) ∧
    (ReplyDue (inTurn 0 .none .awaiting) .a ⟨0, .none, 0#8, 6, .awaiting⟩ ∧
      ReplyDue (inTurn 29 .none (.receiving 0x9E#8)) .a ⟨29, .none, 0#8, 6, .receiving 0x9E#8⟩) ∧
    1#8 ≠ ((inTurn 0 .none .awaiting).dock 0).ack ∧ 0#8 = ((inTurn 0 .none .awaiting).dock 0).ack := by decide +kernel

/-- A token of credential 4 with a right check word. -/
def tokenOf (n m : Word16) : Token := ⟨4#24, n, m, checkWord 0x12345678#32 4#24 n m⟩

/-- Each reason of checks 1 to 5, at the ends of its range. -/
theorem test_witness_RefusedDecision :
    (presented (.dock 0 9#8) (tokenOf 2#16 1047#16)).queue = [⟨.dock 0 9#8, tokenOf 2#16 1047#16⟩] ∧
    FailsFirstFive { station with clockSet := false } (tokenOf 3#16 1047#16) .clockUnset ∧
    FailsFirstFive station ⟨0#24, 3#16, 1047#16, 0#32⟩ .unknownCredential ∧
    FailsFirstFive station ⟨9#24, 3#16, 1047#16, 0#32⟩ .unknownCredential ∧
    FailsFirstFive station { tokenOf 3#16 1047#16 with tag := 0#32 } .checkMismatch ∧
    FailsFirstFive station (tokenOf 2#16 1047#16) .counterStale ∧
    FailsFirstFive station (tokenOf 32770#16 1047#16) .counterStale ∧
    FailsFirstFive station (tokenOf 67#16 1047#16) .counterFar ∧
    FailsFirstFive station (tokenOf 32769#16 1047#16) .counterFar ∧
    FailsFirstFive station (tokenOf 66#16 1036#16) .tokenExpired ∧
    FailsFirstFive station (tokenOf 66#16 33816#16) .tokenExpired ∧
    FailsFirstFive station (tokenOf 3#16 1050#16) .tokenEarly ∧
    FailsFirstFive station (tokenOf 3#16 33815#16) .tokenEarly := by
  refine ⟨by decide +kernel, ?_, ?_, ?_, ⟨?_, ?_, { entry 4#24 with mark := 7#8 }, ?_, ?_⟩,
    ⟨?_, ?_, { entry 4#24 with mark := 7#8 }, ?_, ?_⟩, ⟨?_, ?_, { entry 4#24 with mark := 7#8 }, ?_, ?_⟩,
    ⟨?_, ?_, { entry 4#24 with mark := 7#8 }, ?_, ?_⟩, ⟨?_, ?_, { entry 4#24 with mark := 7#8 }, ?_, ?_⟩,
    ⟨?_, ?_, { entry 4#24 with mark := 7#8 }, ?_, ?_⟩, ⟨?_, ?_, { entry 4#24 with mark := 7#8 }, ?_, ?_⟩,
    ⟨?_, ?_, { entry 4#24 with mark := 7#8 }, ?_, ?_⟩, ⟨?_, ?_, { entry 4#24 with mark := 7#8 }, ?_, ?_⟩⟩
  all_goals first | decide +kernel | (unfold FailsFirstFive; decide +kernel)

/-- The entry the tokens name. -/
def entry4 : Cred := { entry 4#24 with mark := 7#8 }

/-- Each reason of checks 6 to 10, and the entry's passing of checks 1 to 5 before it. -/
theorem test_witness_RefusedDecision_later :
    PassesFirstFive station (tokenOf 3#16 1037#16) entry4 ∧
    FailsLastFive station (.dock 0 9#8) { entry4 with state := .suspended } .suspended ∧
    FailsLastFive station (.dock 0 9#8) { entry4 with state := .revoked } .revoked ∧
    FailsLastFive station (.kiosk none) { entry4 with state := .lapsed } .lapsed ∧
    FailsLastFive station (.dock 3 9#8) entry4 .noBike ∧ FailsLastFive station (.kiosk (some 4)) entry4 .dockBusy ∧
    FailsLastFive station (.kiosk (some 59)) entry4 .dockFaulted ∧
    FailsLastFive (station.updDock 0 (fun x => { x with hold := some .auto })) (.dock 0 9#8) entry4 .dockHeld ∧
    FailsLastFive (station.updDock 0 (fun x => { x with hold := some .auto })) (.kiosk none) entry4 .noDockFree ∧
    FailsLastFive station (.dock 0 9#8) { entry4 with openRides := 2 } .rideLimit ∧
    FailsLastFive station (.kiosk none) { entry4 with balance := -41 } .balanceLow ∧
    FailsLastFive { station with free := [] } (.kiosk (some 0)) entry4 .storeFull := by
  refine ⟨?_, ?_, ?_, ?_, ?_, ?_, ?_, ?_, ?_, ?_, ?_, ?_⟩
  · decide +kernel
  all_goals (unfold FailsLastFive; try unfold DockReason; try unfold DockFails; try unfold DockFor)
  all_goals decide +kernel

/-- A mismatch at A1 that reaches the burst threshold, its notice not held back and two slots free (R62, R63). -/
theorem test_witness_RefusedDecision_burst :
    let x : Presentation := ⟨.dock 0 9#8, { tokenOf 3#16 1047#16 with tag := 0#32 }⟩
    let s := (presented x.origin x.token).updDock 0 (fun x => { x with mismatch := 4 })
    Mismatched s x .checkMismatch 0 ∧ s.settings.burst ≤ mismatchAfter (s.dock 0) ∧
    holdAfter s.settings.burst (s.dock 0) = some .auto ∧ s.level .authBurst ≠ 0 ∧
    s.suppressed (.dock 0) .authBurst = false ∧ 2 ≤ s.free.length := by decide +kernel

/-- The refusal at A1 of QUIET line A in a state with no grant unissued. -/
theorem test_witness_RefusedDecision_quiet :
    let s := { inQuiet station none with queue := [⟨.dock 0 9#8, tokenOf 2#16 1047#16⟩] }
    GrantsIssued s ∧ (s.line .a).state = .quiet ∧ (s.dock 0).pending = .none := by decide +kernel

/-- The station with a presentation from A1 whose token is one counter ahead and 10 minutes old. -/
def admissible : State := presented (.dock 0 9#8) (tokenOf 3#16 1037#16)

/-- At its own dock, at a named one and at the chosen one; the token passes 64 counters ahead and 2 minutes early too. -/
theorem test_witness_AdmissionAtDock :
    admissible.queue = [⟨.dock 0 9#8, tokenOf 3#16 1037#16⟩] ∧
    PassesFirstFive admissible (tokenOf 3#16 1037#16) entry4 ∧ PassesFirstFive admissible (tokenOf 66#16 1049#16) entry4 ∧
    PassesLastFive admissible (.dock 0 9#8) entry4 0 ∧ PassesLastFive admissible (.kiosk (some 0)) entry4 0 ∧
    PassesLastFive admissible (.kiosk none) entry4 0 ∧
    RidesSorted admissible ∧ ReleaseQInv admissible ∧ GrantSetInv admissible ∧ GrantsIssued admissible ∧
    (AgedOut admissible none ∧ admissible.nextRide ≠ 0#16) ∧
    admissible.free = 8 :: (List.range 375).map (fun n => n + 9) := by
  unfold PassesLastFive DockFor AgedOut
  refine ⟨?_, ?_, ?_, ?_, ?_, ?_, ?_, ?_, ?_, ?_, ?_, ?_⟩
  all_goals decide +kernel

/-- A kiosk token at a station whose table holds 256 OPEN rides of credential 5, ride 1 the oldest; the next number is
taken. -/
def fullTable : State :=
  { State.reset with
    minute := 1047#16, clockSet := true, classes := Vector.replicate 4 cls1, creds := [entry4, entry 5#24]
    queue := [⟨.kiosk none, tokenOf 3#16 1037#16⟩], nextRide := 2#16
    rides := (List.range 256).map (fun n => ride (BitVec.ofNat 16 (n + 1)) 5#24 40 (BitVec.ofNat 32 (n + 100)) n .opened)
    docks := State.reset.docks.set 0 (dockAt .docked 11#32), lineA := lineOn, free := [300, 301] }

/-- The same at a QUIET line A. -/
theorem test_witness_AdmissionAtDock_quiet :
    let s := inQuiet admissible none
    PassesLastFive s (.dock 0 9#8) entry4 0 ∧ GrantsIssued s ∧ (s.line .a).state = .quiet ∧ s.lineRuns 0 = true ∧
    (after .admissionDecision s).lineA = lineOn := by
  unfold PassesLastFive DockFor
  decide +kernel

theorem test_witness_AdmissionAtDock_aged_table :
    RidesSorted fullTable ∧ ReleaseQInv fullTable ∧ GrantSetInv fullTable ∧ GrantsIssued fullTable ∧
    PassesFirstFive fullTable (tokenOf 3#16 1037#16) entry4 := by
  refine ⟨?_, ?_, ?_, ?_, ?_⟩
  all_goals decide +kernel

theorem test_witness_AdmissionAtDock_aged :
    PassesLastFive fullTable (.kiosk none) entry4 0 ∧ AgedOut fullTable (some (ride 1#16 5#24 40 100#32 0 .opened)) ∧
    (ride 1#16 5#24 40 100#32 0 .opened).release = some 1000#16 ∧ fullTable.findCred 5#24 = some (entry 5#24) ∧
    fullTable.nextRide ≠ 0#16 ∧ fullTable.free = 300 :: [301] := by
  unfold PassesLastFive DockFor AgedOut
  refine ⟨?_, ?_, ?_, ?_, ?_, ?_⟩
  all_goals decide +kernel

/-- R67: ride 1 leaves with an AGED_OUT record in its slot 0; the new ride takes 257, as 2 to 256 are taken. -/
theorem test_aged_out : let s := after .admissionDecision fullTable
    listed s = [(0, 1)] ∧ (s.findRide 257#16).map (fun r => (r.cred, r.slot)) = some (4#24, 300) ∧ s.rides.length = 256 := by
  decide +kernel

theorem test_witness_CounterMovesForward :
    ∃ t, exec .admissionDecision (presented (.dock 0 9#8) (tokenOf 3#16 1047#16)) = .next t ∧
      (presented (.dock 0 9#8) (tokenOf 3#16 1047#16)).findCred 5#24 = some (entry 5#24) ∧
      t.findCred 5#24 = some (entry 5#24) := ⟨_, rfl, by decide +kernel, by decide +kernel⟩

/-- The station after the cancellation of RELEASING ride 3: RELATCHING, as is its dock A3. -/
def relatched : State := after (.rideCancel .n 3#16) station

theorem test_witness_RideCancelAndExpiries :
    (station.takes .n ∧ station.takes .k ∧ station.findRide 99#16 = none) ∧
    (station.findRide 1#16 = some (ride 1#16 1#24 0 21#32 0 .opened) ∧
      (relatched.findRide 3#16).map (fun r => r.state) = some .relatching ∧ relatched.takes .n) ∧
    (let r := ride 2#16 2#24 1 12#32 1 .queued
     station.findRide 2#16 = some r ∧ station.findCred 2#24 = some { entry 2#24 with openRides := 2 } ∧ r.state = .queued ∧
     r.waitLeft = some 0) ∧
    (let r := ride 3#16 2#24 2 13#32 2 .releasing
     station.findRide 3#16 = some r ∧ r.state = .releasing ∧ (∀ x ∈ station.releaseQ, x.dock ≠ r.dock) ∧
     r.windowLeft = some 0) := by decide +kernel

/-- A state whose tables agree and that has no grant unissued, with entries waiting for the grant given back. -/
theorem test_witness_RideCancelAndExpiries_grants :
    ReleaseInv waiting ∧ GrantsIssued waiting ∧ newGrants waiting [2] = [6] ∧
    waiting.findRide 2#16 = some (ride 2#16 2#24 1 12#32 1 .queued) ∧ (waiting.findCred 2#24).isSome = true :=
  ⟨test_waiting_ReleaseInv, test_waiting_GrantsIssued, by decide +kernel, by decide +kernel, by decide +kernel⟩

/-- An unknown tag, a QUEUED ride, and rides OPEN, RELEASING and RELATCHING. -/
theorem test_witness_RideCloseSettles :
    station.takes .n ∧ station.rideOfTag 99#32 = none ∧ station.rideOfTag 12#32 = some (ride 2#16 2#24 1 12#32 1 .queued) ∧
    (let r := ride 1#16 1#24 0 21#32 0 .opened
     station.rideOfTag 21#32 = some r ∧ r.release = some 1000#16 ∧
     station.findCred 1#24 = some { entry 1#24 with openRides := 1 } ∧ (∀ y ∈ station.releaseQ, y.dock ≠ r.dock)) ∧
    (let r := ride 3#16 2#24 2 13#32 2 .releasing
     station.rideOfTag 13#32 = some r ∧ r.release = some 1000#16 ∧ (station.findCred 2#24).isSome = true ∧
     (∀ y ∈ station.releaseQ, y.dock ≠ r.dock)) ∧
    (let r := { ride 3#16 2#24 2 13#32 2 .relatching with release := some 1000#16 }
     relatched.takes .n ∧ relatched.rideOfTag 13#32 = some r ∧ (relatched.findCred 2#24).isSome = true ∧
     (∀ y ∈ relatched.releaseQ, y.dock ≠ r.dock)) := by decide +kernel

theorem test_witness_HoldAndFree :
    station.takes .n ∧ station.takes .k ∧ 60 ≤ (60#8).toNat ∧ ((59 : DockIx).val = (59#8).toNat ∧ (station.dock 59).state = .unfitted) ∧
    ((0 : DockIx).val = (0#8).toNat ∧ (station.dock 0).state ≠ .unfitted) := by decide +kernel

/-- A line code of 2, an address of 31, a map without A2, and maps that keep the bound docks of either line. -/
theorem test_witness_DockFitRefits :
    station.takes .n ∧ 2 ≤ (2#8).toNat ∧ 30 < (31#8).toNat ∧
    ((station.dock (dockIx .a 1)).state = .queued ∧ ∀ x ∈ [3#8, 5#8], x.toNat ≠ (1 : Addr).val + 1) ∧
    (∀ a : Addr, ((station.dock (dockIx .a a)).state = .queued ∨ (station.dock (dockIx .a a)).state = .releasing ∨
        (station.dock (dockIx .a a)).state = .relatching) → ∃ x ∈ [2#8, 3#8, 5#8, 30#8], x.toNat = a.val + 1) ∧
    (∀ a : Addr, (station.dock (dockIx .b a)).state = .unfitted) := by decide +kernel

theorem test_witness_LineRestartBreaks :
    station.takes .n ∧ 2 ≤ (2#8).toNat ∧ (station.line .b).state = .disabled ∧ (station.line .a).state ≠ .disabled := by
  decide +kernel

/-- Every clause of LineEvents, at its condition. -/
theorem test_witness_LineEvents :
    (station.lineA.state = .running ∧ station.lineA.roundOn = true ∧ station.lineA.pos = some 0 ∧ station.lineA.turn = none) ∧
    (inTurn 29 .openCmd .sending).lineA.turn = some ⟨29, .openCmd, 0#8, 6, .sending⟩ ∧
    (inTurn 0 .none .awaiting).lineA.turn = some ⟨0, .none, 0#8, 6, .awaiting⟩ ∧
    ({ lineOn with errTimer := some 8 } : LineCtl).errTimer = some 8 ∧
    ((after (.lineRestart .n 0#8) station).lineA.state = .brk ∧ (after (.lineRestart .n 0#8) station).lineA.breakTimer = .breakTime) ∧
    (quietStation.lineA.state = .running ∧ quietStation.settings.quiet .a = true ∧ quietStation.lineA.quietDue = true ∧
      quietStation.lineBusy .a = false) ∧
    (let s := afterAll [.quietEntry .a, .secondTick, .secondTick] quietStation
     s.lineA.state = .quiet ∧ s.lineA.quietInterval = some ⟨2, 2⟩ ∧ s.lineA.roundOn = false ∧ s.fitted (dockIx .a 0) = true) ∧
    (let s := afterAll [.quietEntry .a, .secondTick, .secondTick, .quietIntervalExpiry .a, .secondTick, .secondTick] quietStation
     s.lineA.state = .quiet ∧ s.lineA.quietInterval = some ⟨2, 2⟩ ∧ s.lineA.roundOn = true) := by decide +kernel

/-- RELEASING and RELATCHING ride 3 at A3, in either phase. -/
theorem test_witness_TakeUp :
    let s := inTurn 2 .none .awaiting
    let u := turned relatched 2 .closeCmd (.receiving 0x83#8)
    (ReplyDue s .a ⟨2, .none, 0#8, 6, .awaiting⟩ ∧ RidesSorted s ∧ (s.rideAt 2).map (fun r => r.state) = some .releasing ∧
      (∀ y ∈ s.releaseQ, y.dock ≠ 2) ∧ NoLinkNotice (s.dock 2) (status false 0#32 .unlatched) ∧ 3 ≤ s.free.length) ∧
    (ReplyDue u .a ⟨2, .closeCmd, 0#8, 6, .receiving 0x83#8⟩ ∧ RidesSorted u ∧
      (u.rideAt 2).map (fun r => r.state) = some .relatching ∧ (∀ y ∈ u.releaseQ, y.dock ≠ 2) ∧
      NoLinkNotice (u.dock 2) (status false 0#32 .locked)) := by
  decide +kernel

/-- With OPEN delivered and with OPEN not sent; each clause's reply follows. -/
theorem test_witness_LatchOpenAcknowledged :
    let s := inTurn 1 .openCmd (.receiving 0x82#8)
    let r := ride 2#16 2#24 1 12#32 1 .queued
    let u := s.updRide 2#16 (fun x => { x with progress := .notSent })
    ReplyDue s .a ⟨1, .openCmd, 0#8, 6, .receiving 0x82#8⟩ ∧ RidesSorted s ∧
    s.rideAt 1 = some r ∧ r.progress ≠ .notSent ∧ (s.dock 1).state = .queued ∧ (s.findCred r.cred).isSome = true ∧
    NoLinkNotice (s.dock 1) (status true 12#32 .unlatched) ∧ NoLinkNotice (s.dock 1) (status false 0#32 .unlatched) ∧
    ReplyDue u .a ⟨1, .openCmd, 0#8, 6, .receiving 0x82#8⟩ ∧
    u.rideAt 1 = some { r with progress := .notSent } ∧ RidesSorted u ∧ (u.dock 1).state = .queued := by decide +kernel

/-- A3 RELEASING, A3 RELATCHING at the first and the third attempt, A5 RELATCHING without a ride. -/
theorem test_witness_RelatchResolves :
    let s := inTurn 2 .none .awaiting
    let u := turned relatched 2 .closeCmd .awaiting
    let v := u.updDock 2 (fun x => { x with relatch := 2 })
    let w := inTurn 4 .closeCmd .awaiting
    (ReplyDue s .a ⟨2, .none, 0#8, 6, .awaiting⟩ ∧ RidesSorted s ∧
      s.rideAt 2 = some (ride 3#16 2#24 2 13#32 2 .releasing) ∧ (s.dock 2).state = .releasing ∧
      (s.findCred 2#24).isSome = true ∧ (∀ y ∈ s.releaseQ, y.dock ≠ 2) ∧ (s.dock 2).tag ≠ 0#32) ∧
    (ReplyDue u .a ⟨2, .closeCmd, 0#8, 6, .awaiting⟩ ∧ RidesSorted u ∧
      (u.rideAt 2).map (fun r => (r.state, r.cred)) = some (.relatching, 2#24) ∧ (u.dock 2).state = .relatching ∧
      (u.findCred 2#24).isSome = true ∧ (∀ y ∈ u.releaseQ, y.dock ≠ 2) ∧ (u.dock 2).tag ≠ 0#32 ∧ (u.dock 2).relatch < 2) ∧
    (ReplyDue v .a ⟨2, .closeCmd, 0#8, 6, .awaiting⟩ ∧ RidesSorted v ∧
      (v.rideAt 2).map (fun r => r.state) = some .relatching ∧ 2 ≤ (v.dock 2).relatch) ∧
    (ReplyDue w .a ⟨4, .closeCmd, 0#8, 6, .awaiting⟩ ∧ w.rideAt 4 = none ∧ (w.dock 4).state = .relatching ∧
      (∀ y ∈ w.releaseQ, y.dock ≠ 4) ∧ (w.dock 4).tag ≠ 0#32 ∧ (w.dock 4).relatch < 2 ∧
      2 ≤ ((w.updDock 4 (fun x => { x with relatch := 2 })).dock 4).relatch) := by decide +kernel

/-- R73: the third attempt with the latch still open ends the ride with LATCH_FAULT and jams the dock. -/
theorem test_relatch_third :
    let s := after (.statusReply .a (status true 13#32 .unlatched))
      ((turned relatched 2 .closeCmd .awaiting).updDock 2 (fun x => { x with relatch := 2 }))
    (s.dock 2).state = .faulted .jammed ∧ (s.dock 2).relatch = 0 ∧ s.findRide 3#16 = none ∧
    (s.listK.getLast?.map (fun x => x.record.body)) = some (.outcome 3#16 2#24 2 .latchFault) := by decide +kernel

/-- OPEN ride 1 was released from A1, which is QUEUED for ride 6 now: RIDE CLOSE and a return at EMPTY A4 close it. -/
theorem test_witness_OpenRideOfQueuedDock :
    let s := turned waiting 3 .none .awaiting
    let r := ride 1#16 1#24 0 21#32 0 .opened
    (waiting.takes .n ∧ waiting.rideOfTag 21#32 = some r ∧ r.release = some 1000#16 ∧
      (waiting.findCred 1#24).isSome = true ∧ (∃ y ∈ waiting.releaseQ, y.dock = r.dock)) ∧
    (ReplyDue s .a ⟨3, .none, 0#8, 6, .awaiting⟩ ∧ s.rideAt 3 = none ∧
      ReturnSeen (s.dock 3) (status true 21#32 .locked) ∧ s.rideOfTag 21#32 = some r ∧ r.state = .opened) := by
  decide +kernel

/-- R66, R80, R82: so closed, ride 1 leaves A1 and its entry in the release queue as they were. -/
theorem test_open_ride_of_queued_dock :
    [after (.rideClose .n 21#32 1047#16) waiting,
      after (.statusReply .a (status true 21#32 .locked)) (turned waiting 3 .none .awaiting)].map (fun t =>
      (t.findRide 1#16, decide (t.releaseQ = waiting.releaseQ ∧ t.dock 0 = waiting.dock 0),
        (t.findCred 1#24).map (fun e => e.balance), listed t)) =
    List.replicate 2 (none, true, some 100, [(4, 2), (0, 1)]) := by decide +kernel

/-- RELATCHING A5 and DOCKED A1 with tag 0: the bike gone, the latch open, the third attempt, and LOCKED with tag 0 again. -/
theorem test_witness_UntaggedDocks :
    let s := (inTurn 4 .closeCmd .awaiting).updDock 4 (fun x => { x with tag := 0#32 })
    let u := (inTurn 0 .none .awaiting).updDock 0 (fun x => { x with tag := 0#32 })
    (ReplyDue s .a ⟨4, .closeCmd, 0#8, 6, .awaiting⟩ ∧ s.rideAt 4 = none ∧ (s.dock 4).state = .relatching ∧
      (∀ y ∈ s.releaseQ, y.dock ≠ 4) ∧ 2 ≤ ((s.updDock 4 (fun x => { x with relatch := 2 })).dock 4).relatch ∧
      ∀ r ∈ [status false 0#32 .locked, status true 0#32 .unlatched, status true 99#32 .unlatched, status true 0#32 .locked],
        ¬ ReturnSeen (s.dock 4) r) ∧
    (ReplyDue u .a ⟨0, .none, 0#8, 6, .awaiting⟩ ∧ u.rideAt 0 = none ∧ (u.dock 0).state = .docked ∧
      ∀ r ∈ [status true 0#32 .unlatched, status true 99#32 .unlatched, status true 0#32 .locked],
        ¬ ReturnSeen (u.dock 0) r) := by decide +kernel

/-- R78, R93, R96: an untagged bike at RELATCHING A5 is latched without a record, and one at DOCKED A1 whose latch is open
goes to RELATCHING. -/
theorem test_untagged_docks :
    let s := after (.statusReply .a (status true 0#32 .locked))
      ((inTurn 4 .closeCmd .awaiting).updDock 4 (fun x => { x with tag := 0#32 }))
    let u := after (.statusReply .a (status true 0#32 .unlatched))
      ((inTurn 0 .none .awaiting).updDock 0 (fun x => { x with tag := 0#32 }))
    ((s.dock 4).state = .docked ∧ (s.dock 4).since = 990#16 ∧ (s.dock 4).pending = .none ∧ listed s = [(4, 2)]) ∧
    ((u.dock 0).state = .relatching ∧ (u.dock 0).pending = .closeCmd ∧ listed u = [(4, 2)]) := by decide +kernel

/-- Tag 21 of an OPEN ride and tag 13 of a RELEASING one at EMPTY A4; tag 21 read at last at FAULTED A1. -/
theorem test_witness_ReturnClosesRide :
    let s := inTurn 3 .none .awaiting
    let u := (inTurn 0 .none .awaiting).updDock 0 (fun x => { x with state := .faulted .reader, tag := 0#32 })
    let r := ride 1#16 1#24 0 21#32 0 .opened
    let q := ride 3#16 2#24 2 13#32 2 .releasing
    (ReplyDue s .a ⟨3, .none, 0#8, 6, .awaiting⟩ ∧ s.rideAt 3 = none ∧ ReturnSeen (s.dock 3) (status true 21#32 .locked) ∧
      s.rideOfTag 21#32 = some r ∧ r.state = .opened ∧ r.release = some 1000#16 ∧ (s.findCred 1#24).isSome = true ∧
      (∀ y ∈ s.releaseQ, y.dock ≠ r.dock) ∧ NoLinkNotice (s.dock 3) (status true 21#32 .locked)) ∧
    (ReturnSeen (s.dock 3) (status true 13#32 .locked) ∧ s.rideOfTag 13#32 = some q ∧ q.state = .releasing ∧ q.dock ≠ 3 ∧
      q.release = some 1000#16 ∧ (s.findCred 2#24).isSome = true ∧ (∀ y ∈ s.releaseQ, y.dock ≠ q.dock)) ∧
    (u.rideAt 0 = none ∧ ReturnSeen (u.dock 0) (status true 21#32 .locked) ∧ u.rideOfTag 21#32 = some r) := by decide +kernel

/-- R81: the bike of RELEASING ride 3 latched at A4 is the quick return: TAKEN, a close, A3 RELATCHING. -/
theorem test_quick_return : let s := after (.statusReply .a (status true 13#32 .locked)) (inTurn 3 .none .awaiting)
    (s.dock 3).state = .docked ∧ (s.dock 2).state = .relatching ∧ (s.dock 2).pending = .closeCmd ∧ s.grants = [1] ∧
    listed s = [(4, 2), (2, 1)] ∧ (s.listK.getLast?.map (fun x => x.record.body)) = some (.outcome 3#16 2#24 2 .taken) := by
  decide +kernel

/-- A tag 0, a tag of no ride and one of a QUEUED ride at A4, a free list with and without a slot, and DOCKED A1. -/
theorem test_witness_BikeWithoutRide :
    let s := inTurn 3 .none .awaiting
    let u := inTurn 0 .none .awaiting
    (ReplyDue s .a ⟨3, .none, 0#8, 6, .awaiting⟩ ∧ s.rideAt 3 = none ∧
      ReturnSeen (s.dock 3) (status true 0#32 .locked) ∧ ReturnSeen (s.dock 3) (status true 99#32 .locked) ∧
      s.rideOfTag 99#32 = none ∧ s.rideOfTag 12#32 = some (ride 2#16 2#24 1 12#32 1 .queued) ∧
      NoLinkNotice (s.dock 3) (status true 0#32 .locked) ∧ s.free = 8 :: (List.range 375).map (fun n => n + 9) ∧
      (let v : State := { s with free := [] }; ReplyDue v .a ⟨3, .none, 0#8, 6, .awaiting⟩ ∧ v.rideAt 3 = none)) ∧
    (ReplyDue u .a ⟨0, .none, 0#8, 6, .awaiting⟩ ∧ u.rideAt 0 = none ∧ (u.dock 0).state = .docked ∧
      (u.dock 0).tag ≠ 0#32 ∧ NoLinkNotice (u.dock 0) (status false 0#32 .locked)) := by decide +kernel

/-- UNKNOWN A6 with its link UNKNOWN and LOST, power low rising; EMPTY A4; DOCKED A1 with another tag. -/
theorem test_witness_LinkAndFirstReply :
    let s := State.updDock { inTurn 5 .none .awaiting with listN := [] } 5 (fun x => { x with link := .lost })
    let u := inTurn 3 .none .awaiting
    (ReplyDue s .a ⟨5, .none, 0#8, 6, .awaiting⟩ ∧ s.rideAt 5 = none ∧ (∀ y ∈ s.releaseQ, y.dock ≠ 5) ∧
      (s.dock 5).state = .unknown ∧ (s.dock 5).link = .lost ∧ (s.dock 5).powerLow = false ∧
      s.free = 8 :: 9 :: (List.range 374).map (fun n => n + 10) ∧ s.level .nodeBack ≠ 0 ∧ s.level .nodePowerLow ≠ 0 ∧
      s.suppressed (.dock 5) .nodeBack = false ∧ s.suppressed (.dock 5) .nodePowerLow = false) ∧
    (ReplyDue u .a ⟨3, .none, 0#8, 6, .awaiting⟩ ∧ u.rideAt 3 = none ∧ (∀ y ∈ u.releaseQ, y.dock ≠ 3) ∧
      (u.dock 3).state = .empty ∧ (u.dock 3).link ≠ .lost) ∧
    ((inTurn 0 .none .awaiting).dock 0).tag ≠ 12#32 ∧ ((inTurn 5 .none .awaiting).dock 5).link = .unknown := by
  decide +kernel

/-- Tables that agree, a fitted dock, and replies that keep quiet and that break it. -/
theorem test_witness_LinkAndFirstReply_quiet :
    ReleaseInv (inTurn 0 .none .awaiting) ∧ RidesSorted station ∧ station.fitted 0 = true ∧
    QuietHolds (station.dock 0) (status true 11#32 .locked) ∧ QuietBroken (station.dock 0) (status false 0#32 .locked) ∧
    QuietBroken (station.dock 0) (status true 12#32 .locked) :=
  ⟨test_station_ReleaseInv, by decide +kernel, by decide +kernel, by decide +kernel, .inr (.inr (by decide +kernel)),
   .inr (.inl (by decide +kernel))⟩

/-- R87, R92, R100: EMPTY A4 answers again after a loss, power low: NODE_BACK and then NODE_POWER_LOW. -/
theorem test_back_low :
    let s := after (.statusReply .a ⟨false, 0#32, .locked, false, true, none⟩)
      (State.updDock { inTurn 3 .none .awaiting with listN := [] } 3 (fun x => { x with link := .lost }))
    (s.dock 3).state = .empty ∧ (s.dock 3).link = .online ∧ s.listN.map (fun x => x.record.body) =
      [.notice (.dock 3) 1047#16 59 (.nodeBack .status), .notice (.dock 3) 1047#16 59 .nodePowerLow] := by decide +kernel

/-- Jammed at A2 with its QUEUED ride; docks without one that are DOCKED, EMPTY and UNKNOWN. -/
theorem test_witness_DockFaults :
    (let s := inTurn 1 .openCmd .awaiting
     ReplyDue s .a ⟨1, .openCmd, 0#8, 6, .awaiting⟩ ∧ RidesSorted s ∧ s.rideAt 1 = some (ride 2#16 2#24 1 12#32 1 .queued) ∧
     (s.findCred 2#24).isSome = true ∧ NoLinkNotice (s.dock 1) (status true 12#32 .jammed)) ∧
    (ReplyDue (inTurn 0 .none .awaiting) .a ⟨0, .none, 0#8, 6, .awaiting⟩ ∧
      ReplyDue (inTurn 3 .none .awaiting) .a ⟨3, .none, 0#8, 6, .awaiting⟩ ∧
      ReplyDue (inTurn 5 .none .awaiting) .a ⟨5, .none, 0#8, 6, .awaiting⟩) ∧
    (∀ d ∈ [(0 : DockIx), 3, 5], station.rideAt d = none ∧ (∀ y ∈ station.releaseQ, y.dock ≠ d) ∧
      (station.dock d).link ≠ .lost) ∧
    ((station.dock 5).state = .unknown ∧ (station.dock 3).state = .empty ∧ (station.dock 0).state = .docked) := by
  decide +kernel

/-- A1 FAULTED with a tag and without one. -/
theorem test_witness_DockFaults_clear :
    let u := (inTurn 0 .none .awaiting).updDock 0 (fun x => { x with state := .faulted .reader })
    let v := u.updDock 0 (fun x => { x with tag := 0#32, state := .faulted .jammed })
    (ReplyDue u .a ⟨0, .none, 0#8, 6, .awaiting⟩ ∧ u.rideAt 0 = none ∧ (∀ y ∈ u.releaseQ, y.dock ≠ 0) ∧
      (u.dock 0).state = .faulted .reader ∧ (u.dock 0).tag ≠ 0#32 ∧ ¬ ReturnSeen (u.dock 0) (status true 11#32 .locked)) ∧
    (ReplyDue v .a ⟨0, .none, 0#8, 6, .awaiting⟩ ∧ v.rideAt 0 = none ∧ (v.dock 0).state = .faulted .jammed ∧
      (v.dock 0).tag = 0#32) := by decide +kernel

/-- R97, R99: a jam at A1 posts LATCH_JAM once, and a reply that shows its bike latched again clears it. -/
theorem test_jam :
    let j := after (.statusReply .a (status true 11#32 .jammed)) (inTurn 0 .none .awaiting)
    (j.dock 0).state = .faulted .jammed ∧ listed j = [(8, 3), (4, 2)] ∧
    ((after (.statusReply .a (status true 11#32 .locked)) (turned j 0 .none .awaiting)).dock 0).state = .docked ∧
    listed (after (.statusReply .a (status true 11#32 .jammed)) (turned j 0 .none .awaiting)) = [(8, 3), (4, 2)] := by
  decide +kernel

/-- Busy streaks of 6 and 7, failed turns below and at 2, a link LOST; each way a turn fails, below the third failure and
above it. -/
theorem test_witness_TurnsWithoutStatus :
    let s := (inTurn 5 .none .awaiting).updDock 5 (fun x => { x with busy := 6, failed := 2 })
    let u := (inTurn 5 .none (.receiving 0x86#8)).updDock 5 (fun x => { x with busy := 7, failed := 1 })
    let v := (inTurn 5 .none .awaiting).updDock 5 (fun x => { x with busy := 7, failed := 3, link := .lost })
    let w := (inTurn 0 .none .awaiting).updDock 0 (fun x => { x with failed := 1 })
    (ReplyDue s .a ⟨5, .none, 0#8, 6, .awaiting⟩ ∧ (s.dock 5).busy < 7) ∧
    (ReplyDue u .a ⟨5, .none, 0#8, 6, .receiving 0x86#8⟩ ∧ ¬ (u.dock 5).busy < 7 ∧ (u.dock 5).failed < 2) ∧
    (ReplyDue v .a ⟨5, .none, 0#8, 6, .awaiting⟩ ∧ (v.dock 5).link = .lost) ∧
    ((w.dock 0).failed < 2 ∧ (w.line .a).errors + 1 < w.settings.errThreshold ∧ (w.dock 0).link = .online ∧
      (judgeReply 0 0x81#8 []).bad = true ∧ (judgeReply 0 0x82#8 [0x02#8]).bad = true ∧ (v.dock 5).failed = 3) := by
  decide +kernel

theorem test_witness_TurnsWithoutStatus_fails :
    FailsTurn (inTurn 0 .none .awaiting) .a ⟨0, .none, 0#8, 6, .awaiting⟩ (.badReply .a 0x82#8 []) true ∧
    FailsTurn (inTurn 0 .none (.receiving 0x81#8)) .a ⟨0, .none, 0#8, 6, .receiving 0x81#8⟩ (.badReply .a 0x81#8 []) true ∧
    FailsTurn (inTurn 0 .none (.receiving 0x81#8)) .a ⟨0, .none, 0#8, 6, .receiving 0x81#8⟩ (.replyGapTimeout .a) true ∧
    FailsTurn (inTurn 0 .none .awaiting) .a ⟨0, .none, 0#8, 6, .awaiting⟩ (.replyWindowExpiry .a) true ∧
    FailsTurn (inTurn 5 .none .awaiting) .a ⟨5, .none, 0#8, 6, .awaiting⟩ (.replyWindowExpiry .a) false ∧
    FailsTurn (inTurn 5 .none .awaiting) .a ⟨5, .none, 0#8, 6, .awaiting⟩ (.wake .a) true ∧
    ¬ RestartsItself (inTurn 5 .none .awaiting) .a true :=
  ⟨⟨.inl rfl, rfl, .inl ⟨_, _, rfl, rfl, .inl rfl, by decide +kernel⟩⟩,
   ⟨.inl rfl, rfl, .inl ⟨_, _, rfl, rfl, .inr rfl, by decide +kernel⟩⟩,
   ⟨.inl rfl, rfl, .inr (.inl ⟨_, rfl, rfl, rfl⟩)⟩,
   ⟨.inl rfl, rfl, .inr (.inr (.inr ⟨rfl, rfl, by decide +kernel⟩))⟩,
   ⟨.inl rfl, rfl, .inr (.inr (.inr ⟨rfl, rfl, by decide +kernel⟩))⟩,
   ⟨.inl rfl, rfl, .inr (.inr (.inl ⟨rfl, rfl, rfl⟩))⟩, by decide +kernel⟩

/-- R121, R137: a WAKE in the open reply window is a wrong address: a failed turn with a line error, the position on. -/
theorem test_wake_in_window : let s := after (.wake .a) (inTurn 0 .none .awaiting)
    (s.dock 0).failed = 1 ∧ s.lineA.errors = 1 ∧ s.lineA.turn = none ∧ s.lineA.pos = some 1 := by decide +kernel

/-- R119, R136: after the highest address a round starts at once in RUNNING, ends in QUIET, and starts there where one is
owed. -/
theorem test_round_end :
    let quiet (owed : Bool) : State := (inTurn 5 .none .awaiting).updLine .a (fun c =>
      { c with state := .quiet, quietInterval := some ⟨0, 2⟩, roundOwed := owed })
    [inTurn 5 .none .awaiting, quiet false, quiet true].map (fun s =>
      let c := (after (.busyReply .a) s).lineA; (c.roundOn, c.pos, c.roundOwed)) =
    [(true, some 0, false), (false, none, false), (true, some 0, false)] := by decide +kernel

/-- R123: the eighth BUSY in a row is a failed turn. -/
theorem test_busy_eighth :
    let s := after (.busyReply .a) ((inTurn 5 .none .awaiting).updDock 5 (fun x => { x with busy := 7, failed := 1 }))
    (s.dock 5).busy = 0 ∧ (s.dock 5).failed = 2 ∧ (s.line .a).errors = 0 := by decide +kernel

/-- A dock without a ride whose link is ONLINE or UNKNOWN; docks with a QUEUED, a RELEASING and a RELATCHING ride; a line
one error below its threshold. -/
theorem test_witness_LossAndRestart :
    let two (s : State) (d : DockIx) : State := s.updDock d (fun x => { x with failed := 2 })
    let u := (inTurn 0 .none .awaiting).updLine .a (fun c => { c with errors := 11 })
    (∀ a ∈ [(0 : Addr), 1, 2, 5], ((two (inTurn a .none .awaiting) (dockIx .a a)).dock (dockIx .a a)).failed = 2 ∧
      ((two (inTurn a .none .awaiting) (dockIx .a a)).dock (dockIx .a a)).link ≠ .lost) ∧ RidesSorted station ∧
    station.lineA.errors + 1 < station.settings.errThreshold ∧
    ((two (inTurn 0 .none .awaiting) 0).rideAt 0 = none ∧ ((two (inTurn 0 .none .awaiting) 0).dock 0).link = .online) ∧
    ((two (inTurn 1 .none .awaiting) 1).rideAt 1 = some (ride 2#16 2#24 1 12#32 1 .queued) ∧
      ((two (inTurn 1 .none .awaiting) 1).findCred 2#24).isSome = true) ∧
    ((two (inTurn 2 .none .awaiting) 2).rideAt 2 = some (ride 3#16 2#24 2 13#32 2 .releasing) ∧
      ∀ y ∈ (two (inTurn 2 .none .awaiting) 2).releaseQ, y.dock ≠ 2) ∧
    (let s := two (turned relatched 2 .closeCmd .awaiting) 2
     (s.rideAt 2).map (fun r => r.state) = some .relatching ∧ (s.dock 2).failed = 2 ∧ (s.dock 2).link = .online ∧
     RidesSorted s) ∧
    ((u.dock 0).failed < 2 ∧ u.settings.errThreshold ≤ (u.line .a).errors + 1) := by decide +kernel

/-- The third failure by the eighth BUSY, by a WAKE, by a bad reply below the threshold and at it; a restart at 3 failed
turns; a state whose tables agree and that has no grant unissued. -/
theorem test_witness_LossAndRestart_third :
    let two (s : State) (d : DockIx) : State := s.updDock d (fun x => { x with failed := 2, busy := 7 })
    let brink (s : State) : State := s.updLine .a (fun c => { c with errors := 11 })
    let three := brink ((inTurn 0 .none .awaiting).updDock 0 (fun x => { x with failed := 3, link := .lost }))
    (ThirdFailure (two (inTurn 0 .none .awaiting) 0) .a ⟨0, .none, 0#8, 6, .awaiting⟩ (.busyReply .a) false .notSent ∧
      ThirdFailure (two (inTurn 0 .none .awaiting) 0) .a ⟨0, .none, 0#8, 6, .awaiting⟩ (.wake .a) true .delivered ∧
      ThirdFailure (brink (two (inTurn 0 .none .awaiting) 0)) .a ⟨0, .none, 0#8, 6, .awaiting⟩ (.badReply .a 0x82#8 []) true
        .delivered) ∧
    (¬ RestartsItself (two (inTurn 0 .none .awaiting) 0) .a true ∧
      RestartsItself (brink (two (inTurn 0 .none .awaiting) 0)) .a true) ∧
    (FailsTurn three .a ⟨0, .none, 0#8, 6, .awaiting⟩ (.wake .a) true ∧ (three.dock 0).failed = 3 ∧
      RestartsItself three .a true) ∧
    (ReleaseInv (inTurn 0 .none .awaiting) ∧ GrantsIssued (inTurn 0 .none .awaiting)) :=
  ⟨⟨⟨by decide +kernel, by decide +kernel, .inr ⟨by decide +kernel, rfl, by decide +kernel, rfl, rfl⟩⟩,
    ⟨by decide +kernel, by decide +kernel, .inl ⟨⟨.inl rfl, rfl, .inr (.inr (.inl ⟨rfl, rfl, rfl⟩))⟩, rfl⟩⟩,
    ⟨by decide +kernel, by decide +kernel,
      .inl ⟨⟨.inl rfl, rfl, .inl ⟨_, _, rfl, rfl, .inl rfl, by decide +kernel⟩⟩, rfl⟩⟩⟩,
   ⟨by decide +kernel, by decide +kernel⟩,
   ⟨⟨.inl rfl, rfl, .inr (.inr (.inl ⟨rfl, rfl, rfl⟩))⟩, by decide +kernel, by decide +kernel⟩,
   ⟨test_station_ReleaseInv, by decide +kernel⟩⟩

/-- R123, R124: the eighth BUSY in a row after two failed turns makes the link LOST, and no line error is counted. -/
theorem test_busy_third :
    let s := after (.busyReply .a) ((inTurn 0 .none .awaiting).updDock 0 (fun x => { x with failed := 2, busy := 7 }))
    (s.dock 0).link = .lost ∧ (s.dock 0).failed = 3 ∧ (s.dock 0).busy = 0 ∧ s.lineA.errors = 0 ∧
    s.listN.map (fun x => x.record.body) = [.notice (.dock 5) 1040#16 3 (.nodeLost none),
      .notice (.dock 0) 1047#16 59 (.nodeLost none)] := by decide +kernel

/-- R124, R129: the third failed turn at the error threshold posts NODE_LOST and then LINE_DEGRADED, and breaks the line. -/
theorem test_loss_at_threshold :
    let s := after (.replyWindowExpiry .a) (((inTurn 0 .none .awaiting).updDock 0 (fun x => { x with failed := 2 })).updLine .a
      (fun c => { c with errors := 11 }))
    (s.dock 0).link = .lost ∧ s.lineA = inBreak .r38400 .errors ∧
    (s.listN.filter (fun x => decide (7 < x.slot))).map (fun x => (x.slot, x.record.body)) =
      [(8, .notice (.dock 0) 1047#16 59 (.nodeLost none)), (9, .notice (.line .a) 1047#16 59 (.lineDegraded 12 12))] := by
  decide +kernel

/-- R75: the loss of the link of A2 cancels its QUEUED ride with DOCK_LOST. -/
theorem test_loss_queued :
    let s := after (.replyWindowExpiry .a) ((inTurn 1 .none .awaiting).updDock 1 (fun x => { x with failed := 2 }))
    (s.dock 1).link = .lost ∧ (s.dock 1).state = .docked ∧ s.findRide 2#16 = none ∧
    (s.listK.getLast?.map (fun x => x.record.body)) = some (.outcome 2#16 2#24 1 .dockLost) := by decide +kernel

/-- A free list of 16 with a decision waiting, the three losses at an empty one. -/
theorem test_witness_StoreLowAndOverflow :
    (let s : State := { presented (.dock 0 9#8) (tokenOf 2#16 1047#16) with free := List.range 16 }
     16 ≤ s.free.length ∧ (after .admissionDecision s).free.length < 16 ∧ (s.port .n).latched &&& 0x04#8 ≠ 0#8 ∧
     (s.port .k).latched &&& 0x04#8 = 0#8 ∧ ((after .admissionDecision s).port .k).latched &&& 0x04#8 ≠ 0#8) ∧
    (let s : State := { presented (.dock 0 9#8) (tokenOf 2#16 1047#16) with free := [], listK := [], clockSet := false }
     s.queue ≠ [] ∧ s.clockSet = false ∧ s.free = [] ∧ s.listK = []) ∧
    (let s : State := { inTurn 3 .none .awaiting with free := [] }
     ReplyDue s .a ⟨3, .none, 0#8, 6, .awaiting⟩ ∧ s.rideAt 3 = none ∧ (s.dock 3).state = .empty ∧ s.free = []) ∧
    (let s : State := { station with free := [] }
     s.sweep.idle = some ⟨600, 600⟩ ∧ s.sweep.openNo ≠ 0#8 ∧ s.level .sweepAbandoned ≠ 0) := by decide +kernel

theorem test_witness_LineStarts :
    let s := afterAll [.lineRestart .n 0#8, .breakTimeEnd .a] station
    let u := after (.quietEntry .a) quietStation
    ((s.line .a).state = .brk ∧ (s.line .a).breakTimer = .recovery ∧ s.fitted (dockIx .a 0) = true ∧ s.free ≠ [] ∧
      s.level .lineRestarted ≠ 0 ∧ s.suppressed (.line .a) .lineRestarted = false) ∧
    ((u.line .a).state = .quiet ∧ (u.line .a).turn = none ∧ (u.line .a).roundOn = false ∧ u.fitted (dockIx .a 0) = true) ∧
    (let v := inQuiet station (some 3)
     (v.line .a).state = .quiet ∧ (v.line .a).turn = none ∧ (v.line .a).roundOn = true ∧ v.fitted (dockIx .a 0) = true) ∧
    ReleaseInv station :=
  ⟨by decide +kernel, by decide +kernel, by decide +kernel, test_station_ReleaseInv⟩

/-- R137: a WAKE between the turns of a quiet round lets the round go on; with none in progress one starts at the lowest
fitted address. R109, R137: so does the SHOW of a refusal at a QUIET line. -/
theorem test_quiet_returns :
    let refused := after .admissionDecision
      { inQuiet station none with queue := [⟨.dock 0 9#8, tokenOf 2#16 1047#16⟩] }
    let woken (pos : Option Addr) := (after (.wake .a) (inQuiet station pos)).lineA
    woken (some 3) = { lineOn with pos := some 3 } ∧ woken none = lineOn ∧ refused.lineA = lineOn ∧
    (refused.dock 0).pending = .showCmd .refuse 9#8 ∧ refused.portN.latched = 0x14#8 := by decide +kernel

/-- Full and empty held slots at either limit, and a slot held, not held, and out of range. -/
theorem test_witness_TakeAndGiveBack :
    let x : Posted := ⟨9, ⟨1, true, .notice (.dock 0) 0#16 0 .nodePowerLow⟩⟩
    let full := { station with portN := { masks := 0#8, taken := List.replicate 16 x }, portK := { masks := 0#8, taken := List.replicate 4 x } }
    (full.takes .n ∧ 16 ≤ (full.port .n).taken.length ∧ full.takes .k ∧ 4 ≤ (full.port .k).taken.length) ∧
    (State.reset.takes .n ∧ State.reset.postList .n = []) ∧
    (station.takes .k ∧ (station.port .k).taken.length < 4 ∧ station.postList .k = [⟨5, ⟨0, false, .outcome 3#16 2#24 2 .taken⟩⟩]) ∧
    383 < (384#16).toNat ∧ ((383#16).toNat ≤ 383 ∧ ∀ x ∈ (station.port .n).taken, x.slot ≠ (383#16).toNat) ∧
    (∃ x ∈ (station.port .n).taken, x.slot = (6#16).toNat) := by decide +kernel

theorem test_witness_KindSetStores :
    station.takes .n ∧ station.takes .k ∧ (∀ k ∈ Kind.all, k.code ≠ 0x20#8) ∧ Kind.nodeLost.code = 0x01#8 ∧
    Kind.foreignReturn.code = 0x13#8 := by decide +kernel

theorem test_witness_StationSetStores :
    station.takes .n ∧ SettingsInRange station.settings ∧ settingOfCode 5#8 = some (.num .high) ∧
    settingOfCode 6#8 = some (.num .low) ∧ settingOfCode 4#8 = some (.num .budget) ∧ station.settings.budget < 8 := by
  decide +kernel

/-- Codes past the tables; a rate held, changed on a DISABLED line and on a running one; quiet held, changed on a line
RUNNING, in BREAK, DISABLED and QUIET. -/
theorem test_witness_LineSettings :
    station.takes .n ∧ 15 ≤ (15#8).toNat ∧ 2 ≤ (2#8).toNat ∧ 4 ≤ (4#16).toNat ∧ station.settings.rate .a = .r38400 ∧
    (station.line .a).state = .running ∧ (station.line .b).state = .disabled ∧ station.settings.rate .b ≠ .r115200 ∧
    station.settings.quiet .a = decide (0#16 ≠ 0#16) ∧ station.settings.quiet .a ≠ decide (1#16 ≠ 0#16) ∧
    ((after (.lineRestart .n 0#8) station).line .a).state = .brk ∧
    (let s := after (.quietEntry .a) quietStation
     s.takes .n ∧ s.settings.quiet .a = true ∧ (s.line .a).state = .quiet ∧ s.fitted (dockIx .a 0) = true) := by
  decide +kernel

/-- R138: disabling quiet on a QUIET line returns it to RUNNING with a round. -/
theorem test_quiet_disable : let s := afterAll [.quietEntry .a, .stationSet .n 9#8 0#8 0#16] quietStation
    (s.line .a).state = .running ∧ (s.line .a).roundOn = true ∧ (s.line .a).quietInterval = none ∧
    s.settings.quiet .a = false := by decide +kernel

theorem test_witness_EventRequests :
    station.takes .n ∧ station.takes .k ∧ 0x40#8 &&& ~~~0x3F#8 ≠ 0#8 ∧ 0x10#8 &&& ~~~0x0F#8 ≠ 0#8 ∧
    0x3F#8 &&& ~~~0x3F#8 = 0#8 ∧ 0x00#8 &&& ~~~0x0F#8 = 0#8 := by decide +kernel

/-- R179, R182: the live events of the station, of reset and of hold-off; attention follows what is present and unmasked. -/
theorem test_live_events :
    [station, State.reset, { station with listK := [], holdOff := true, portK := { masks := 0x0D#8 } }].map (fun s =>
      (s.live .n, s.live .k, s.attention .n, s.attention .k)) =
    [(0x01#8, 0x01#8, false, false), (0x02#8, 0x00#8, false, false), (0x01#8, 0x02#8, false, true)] := by decide +kernel

/-- With no sweep open, and with one, the free list short or empty. -/
theorem test_witness_PortClearReturns :
    (let s : State := { station with sweep := {}, free := [] }
     s.takes .n ∧ s.sweep.openNo = 0#8 ∧ ListsInv s) ∧
    (station.takes .n ∧ station.sweep.openNo ≠ 0#8 ∧ ListsInv station ∧ station.level .sweepAbandoned ≠ 0) ∧
    (let s : State := { station with free := [] }
     s.takes .n ∧ s.sweep.openNo ≠ 0#8 ∧ ListsInv s) ∧ station.takes .k := by decide +kernel

/-- Idle, not idle, a begun transaction, a frame cut within a byte and one that spells no request. -/
theorem test_witness_Transactions :
    (station.port .n).trans = .idle ∧ ((after (.transactionStart .n) station).port .n).trans = .started 0x15#8 0x3F#8 ∧
    (station.takes .n ∧ 0x14#8 ≠ 0xA5#8 ∧ (List.replicate 7 true).length < 8) ∧
    requestOfFrame .n [0x14#8, 3#8, 0#8] = none := by decide +kernel

theorem test_witness_RequestFrameRoundTrip :
    let i : Instr := .dockFit .n 1#8 [30#8]
    i.wellFormed = true ∧ requestFrame i = some (.n, withCheck [0x0B#8, 6#8, 1#8, 1#8, 30#8]) ∧
    requestOfFrame .n (withCheck [0x0B#8, 6#8, 1#8, 1#8, 30#8]) = some i := by decide +kernel

theorem test_witness_ReplyFrameRoundTrip :
    (1 : Addr) ≠ 0 ∧ (∀ c ∈ [(⟨0x81#8, false⟩ : LineChar)], c.marked = false) ∧
    commandOfReply .a 0 (⟨0x81#8, false⟩ :: lineFrame (busyFrame 0)) = some (.busyReply .a) := by decide +kernel

theorem test_witness_ConfigKept : ∃ t, ConfigInv working ∧ GrantBound working ∧ step working = .next t :=
  ⟨_, test_station_ConfigInv, test_station_GrantBound, rfl⟩
theorem test_witness_QueueKept : ∃ t, QueueInv working ∧ step working = .next t := ⟨_, test_station_QueueInv, rfl⟩
theorem test_witness_CredKept : ∃ t, CredInv working ∧ step working = .next t := ⟨_, test_station_CredInv, rfl⟩
theorem test_witness_CountKept : ∃ t, CountInv working ∧ RideBound working ∧ step working = .next t :=
  ⟨_, test_station_CountInv, test_station_RideBound, rfl⟩
theorem test_witness_RideTableKept :
    ∃ t, ReleaseInv working ∧ TagInv working ∧ RideBound working ∧ DockTagInv working ∧ step working = .next t :=
  ⟨_, test_station_ReleaseInv, test_station_TagInv, test_station_RideBound, test_station_DockTagInv, rfl⟩
theorem test_witness_ReleaseKept : ∃ t, ReleaseInv working ∧ RideBound working ∧ step working = .next t :=
  ⟨_, test_station_ReleaseInv, test_station_RideBound, rfl⟩
theorem test_witness_GrantsIssuedKept : ∃ t, GrantsIssued working ∧ step working = .next t :=
  ⟨_, test_station_GrantsIssued, rfl⟩
theorem test_witness_SlotKept : ∃ t, SlotInv working ∧ step working = .next t := ⟨_, test_station_slots, rfl⟩
theorem test_witness_ListsKept : ∃ t, ListsInv working ∧ step working = .next t := ⟨_, test_station_ListsInv, rfl⟩
theorem test_witness_LinesKept :
    ∃ t, ReleaseInv working ∧ LineInv working ∧ UnfittedInv working ∧ DockInv working ∧ step working = .next t :=
  ⟨_, test_station_ReleaseInv, test_station_LineInv, test_station_UnfittedInv, test_station_DockInv, rfl⟩

end Sys2Proof.Tests
end

section
/-! PROOFS. Token arithmetic and the settlement of a ride in exact integers (R8, R10, R12, R14 to R17). -/

namespace Sys2Proof.Machine

/-! ## The arithmetic of chapter 1 -/

/-- A rotation by fewer places than the width, as a product and a quotient that do not overlap. -/
theorem toNat_rotateLeft_of_lt {w k : Nat} (x : BitVec w) (hk : k < w) :
    (x.rotateLeft k).toNat = x.toNat * 2 ^ k % 2 ^ w + x.toNat / 2 ^ (w - k) := by
  have hw : 2 ^ w = 2 ^ (w - k) * 2 ^ k := by rw [← Nat.pow_add, Nat.sub_add_cancel hk.le]
  have hhi : x.toNat * 2 ^ k % 2 ^ w = (x.toNat % 2 ^ (w - k)) <<< k := by
    rw [hw, Nat.mul_mod_mul_right, Nat.shiftLeft_eq]
  have hlo : x.toNat / 2 ^ (w - k) < 2 ^ k :=
    Nat.div_lt_of_lt_mul (hw ▸ x.isLt)
  rw [BitVec.toNat_rotateLeft, Nat.mod_eq_of_lt hk, Nat.shiftLeft_eq, Nat.shiftRight_eq_div_pow, hhi,
    ← Nat.shiftLeft_add_eq_or_of_lt hlo]

/-- The word that R8 scrambles: counter and issue minute side by side, mixed with the secret. -/
theorem toNat_mixed (secret : BitVec 32) (n : Word16) (m : Minute) :
    (BitVec.ofNat 32 (n.toNat * 65536 + m.toNat) ^^^ secret).toNat =
      (n.toNat * 65536 + m.toNat) ^^^ secret.toNat := by
  have hn := n.isLt
  have hm := m.isLt
  rw [BitVec.toNat_xor, BitVec.toNat_ofNat, Nat.mod_eq_of_lt (by omega)]

/-- The check word in exact arithmetic (R8). -/
theorem checkWord_toNat (secret : BitVec 32) (c : CredNo) (n : Word16) (m : Minute) :
    (checkWord secret c n m).toNat =
      (((n.toNat * 65536 + m.toNat) ^^^ secret.toNat) * 2 ^ (n.toNat % 32) % 2 ^ 32 +
        ((n.toNat * 65536 + m.toNat) ^^^ secret.toNat) / 2 ^ (32 - n.toNat % 32) + c.toNat * 40503) % 2 ^ 32 := by
  unfold checkWord
  dsimp only
  rw [BitVec.toNat_add, toNat_rotateLeft_of_lt _ (Nat.mod_lt _ (by decide)), toNat_mixed, BitVec.toNat_ofNat,
    Nat.add_mod_mod]

/-- The distance from one 16-bit count to another round the circle. -/
theorem toNat_sub_circle (x y : BitVec 16) : (x - y).toNat = (x.toNat + 65536 - y.toNat) % 65536 := by
  have hy := y.isLt
  rw [BitVec.toNat_sub]
  congr 1
  omega

/-- The three answers of the counter window, by the distance ahead (R10). -/
theorem counterTest_cases (last n : Word16) (w : Nat) :
    ((n - last).toNat = 0 ∨ 32768 ≤ (n - last).toNat) ∧ counterTest last n w = some .counterStale ∨
    (0 < (n - last).toNat ∧ (n - last).toNat ≤ 32767 ∧ (n - last).toNat ≤ w) ∧ counterTest last n w = none ∨
    (0 < (n - last).toNat ∧ (n - last).toNat ≤ 32767 ∧ w < (n - last).toNat) ∧
      counterTest last n w = some .counterFar := by
  unfold counterTest
  dsimp only
  split
  · next h => exact .inl ⟨h, rfl⟩
  · split
    · exact .inr (.inl ⟨by omega, rfl⟩)
    · exact .inr (.inr ⟨by omega, rfl⟩)

/-- The three answers of the token time window, by the age (R12). -/
theorem timeTest_cases (now issue : Minute) (life skew : Nat) :
    ((now - issue).toNat ≤ 32767 ∧ (now - issue).toNat ≤ life ∨
        32768 ≤ (now - issue).toNat ∧ 65536 - (now - issue).toNat ≤ skew) ∧ timeTest now issue life skew = none ∨
    ((now - issue).toNat ≤ 32767 ∧ life < (now - issue).toNat) ∧
      timeTest now issue life skew = some .tokenExpired ∨
    (32768 ≤ (now - issue).toNat ∧ skew < 65536 - (now - issue).toNat) ∧
      timeTest now issue life skew = some .tokenEarly := by
  unfold timeTest
  dsimp only
  split
  · split
    · exact .inl ⟨by omega, rfl⟩
    · exact .inr (.inl ⟨by omega, rfl⟩)
  · split
    · exact .inl ⟨by omega, rfl⟩
    · exact .inr (.inr ⟨by omega, rfl⟩)

/-- The least number of whole units that covers the billable minutes. -/
theorem ceilDiv_bounds (n : Nat) {u : Nat} (hu : 1 ≤ u) :
    n ≤ (n + u - 1) / u * u ∧ (n + u - 1) / u * u < n + u ∧ (n + u - 1) / u ≤ n := by
  have hdm := Nat.div_add_mod (n + u - 1) u
  have hlt := Nat.mod_lt (n + u - 1) hu
  rw [Nat.mul_comm] at hdm
  refine ⟨by omega, by omega, Nat.le_of_lt_succ (Nat.lt_of_not_le fun hle => ?_)⟩
  have hmul := Nat.mul_le_mul_right u hle
  have hn := Nat.le_mul_of_pos_right n hu
  rw [Nat.succ_mul] at hmul
  omega

/-- The units are 0 exactly where there is nothing to bill. -/
theorem ceilDiv_eq_zero {n u : Nat} (hu : 1 ≤ u) : (n + u - 1) / u = 0 ↔ n = 0 := by
  obtain ⟨hlow, -, hle⟩ := ceilDiv_bounds n hu
  constructor
  · intro h; rw [h, Nat.zero_mul] at hlow; exact Nat.le_zero.mp hlow
  · intro h; rw [h] at hle ⊢; exact Nat.le_zero.mp hle

/-! ## Settlement (R14 to R17) -/

/-- The two ways of writing the duration of a ride and its clock step (R14). -/
theorem rideDuration_eq (release endMinute : Minute) :
    rideDuration release endMinute =
      (if (endMinute - release).toNat ≤ 32767 then (endMinute - release).toNat else 0,
        decide (32768 ≤ (endMinute - release).toNat)) := by
  unfold rideDuration
  dsimp only
  split
  · next h => rw [if_pos (by omega), decide_eq_false (by omega)]
  · next h => rw [if_neg (by omega), decide_eq_true (by omega)]

/-- The units as the one formula of the settlement writes them; with a unit length of 0 both are 0. -/
theorem chargeUnits_eq (c : ClassRec) (duration : Nat) :
    chargeUnits c duration = (duration - c.incl + (c.unit - 1)) / c.unit := by
  unfold chargeUnits
  rcases Nat.eq_zero_or_pos c.unit with h | h
  · rw [h, Nat.div_zero, Nat.div_zero]
  · rw [Nat.add_sub_assoc h]

/-- The charge is the lesser of the uncapped charge and the cap (R16). -/
theorem chargeOf_eq (c : ClassRec) (duration : Nat) :
    chargeOf c duration = (min (chargeUnits c duration * c.price) c.cap,
      decide (c.cap < chargeUnits c duration * c.price)) := by
  unfold chargeOf
  dsimp only
  split
  · next h => rw [min_eq_right h.le, decide_eq_true h]
  · next h => rw [min_eq_left (Nat.le_of_not_lt h), decide_eq_false h]

/-- The balance never falls below −D, and what is left of the charge is the shortfall (R17). -/
theorem debit_eq (overdraft : Nat) (balance : Int) (charge : Nat) :
    debit overdraft balance charge =
      (max (-(overdraft : Int)) (balance - (charge : Int)),
        (max (-(overdraft : Int)) (balance - (charge : Int)) - (balance - (charge : Int))).toNat) := by
  unfold debit
  dsimp only
  split
  · next h => rw [max_eq_right h, Int.sub_self, Int.toNat_zero]
  · next h => rw [max_eq_left (by omega)]

/-- The figures of a close are those of the one formula. -/
theorem closeFigures_eq_settlement (c : ClassRec) (e : Cred) (release endMinute : Minute) :
    closeFigures c e release endMinute = settlement c e release endMinute := by
  unfold closeFigures settlement
  simp only [rideDuration_eq, chargeOf_eq, debit_eq, chargeUnits_eq]

/-- A duration of 0 is charged nothing. -/
theorem chargeOf_zero (c : ClassRec) : (chargeOf c 0).1 = 0 := by
  have hu : chargeUnits c 0 = 0 := by
    rw [chargeUnits_eq, Nat.zero_sub, Nat.zero_add]
    rcases Nat.eq_zero_or_pos c.unit with h | h
    · rw [h, Nat.div_zero]
    · exact Nat.div_eq_of_lt (by omega)
  rw [chargeOf_eq, hu, Nat.zero_mul, Nat.zero_min]

/-- What a debit leaves of a balance that was at least −D (R17). -/
theorem debit_bounds {overdraft : Nat} {balance : Int} (h : -(overdraft : Int) ≤ balance) (charge : Nat) :
    -(overdraft : Int) ≤ (debit overdraft balance charge).1 ∧ (debit overdraft balance charge).1 ≤ balance ∧
    (debit overdraft balance charge).1 = balance - (charge : Int) + ((debit overdraft balance charge).2 : Int) ∧
    (0 < (debit overdraft balance charge).2 → (debit overdraft balance charge).1 = -(overdraft : Int)) := by
  rw [debit_eq]
  dsimp only
  omega

end Sys2Proof.Machine

namespace Sys2Proof.Proofs

open Sys2Proof.Machine

/-- Settles O7: the rotation taken apart into product and quotient, and each window by its three cases. -/
theorem tokenArithmetic : Obligations.TokenArithmetic := by
  refine ⟨checkWord_toNat, fun last n w hw => ?_, fun now issue life skew hlife hskew => ?_⟩
  · have cases := counterTest_cases last n w
    rw [toNat_sub_circle] at cases
    rcases cases with ⟨hd, e⟩ | ⟨hd, e⟩ | ⟨hd, e⟩ <;> rw [e] <;> simp <;> omega
  · have cases := timeTest_cases now issue life skew
    rw [toNat_sub_circle] at cases
    rcases cases with ⟨hd, e⟩ | ⟨hd, e⟩ | ⟨hd, e⟩ <;> rw [e] <;> simp <;> omega

/-- Settles O8. -/
theorem chargeUnits : Obligations.ChargeUnits := by
  intro c duration hu _ hd billable
  have hb : billable = duration - c.incl := by
    show (if c.incl < duration then duration - c.incl else 0) = _
    split <;> omega
  have hc : Machine.chargeUnits c duration = (billable + c.unit - 1) / c.unit := by rw [hb]; rfl
  obtain ⟨hlow, hhigh, hle⟩ := ceilDiv_bounds billable hu
  rw [hc]
  exact ⟨rfl, hlow, hhigh, ceilDiv_eq_zero hu, by omega, by omega⟩

/-- Settles O9. -/
theorem settlement : Obligations.Settlement := by
  refine fun c e release endMinute => ⟨closeFigures_eq_settlement c e release endMinute, ?_⟩
  intro hlow _ f
  obtain ⟨hfloor, hfall, hsum, hshort⟩ := debit_bounds hlow (chargeOf c (rideDuration release endMinute).1).1
  refine ⟨hfloor, hfall, ?_, hsum, hshort, fun hstep => ?_⟩
  · show (chargeOf c _).1 ≤ c.cap
    rw [chargeOf_eq]
    exact Nat.min_le_right _ _
  · have hdur : (rideDuration release endMinute).1 = 0 := by
      have hclock : (rideDuration release endMinute).2 = true := hstep
      rw [rideDuration_eq, decide_eq_true_eq] at hclock
      rw [rideDuration_eq, if_neg (by omega)]
    show (chargeOf c (rideDuration release endMinute).1).1 = 0
    rw [hdur, chargeOf_zero]

end Sys2Proof.Proofs
end

section
/-! PROOFS. What reset leaves, and that it meets every invariant; CLOCK SET (R3, R185). -/

namespace Sys2Proof.Machine

/-! ## The state after reset (R185) -/

theorem State.reset_dock (d : DockIx) : State.reset.dock d = {} := by
  show (Vector.replicate 60 ({} : Dock)).get d = {}
  simp [Vector.get_eq_getElem]

theorem State.reset_class (c : Fin 4) : State.reset.classes.get c = {} := by
  show (Vector.replicate 4 ({} : ClassRec)).get c = {}
  simp [Vector.get_eq_getElem]

theorem State.reset_line (l : Line) : State.reset.line l = {} := by cases l <;> rfl

theorem State.reset_fitted (d : DockIx) : State.reset.fitted d = false := by
  rw [State.fitted, State.reset_dock]; rfl

theorem State.reset_free : State.reset.free = List.range 384 := by
  simp [State.reset, Config.slotCount]

theorem State.reset_allSlots : State.reset.allSlots = List.range 384 := by
  simp [State.allSlots, State.reset, Config.slotCount]

theorem State.reset_configInv : ConfigInv State.reset := by
  refine ⟨by decide, fun c => ?_, by decide⟩
  rw [State.reset_class]; decide

/-- No dock is QUEUED, RELEASING or RELATCHING, and no list names one. -/
theorem State.reset_releaseInv : ReleaseInv State.reset := by
  have hrides : State.reset.rides = [] := rfl
  have hq : State.reset.releaseQ = [] := rfl
  have hg : State.reset.grants = [] := rfl
  refine ⟨?_, ?_, ?_, ?_⟩
  · simp [BindInv, RidesSorted, hrides, State.reset_dock]
  · simp [ReleaseQInv, hq, State.reset_dock]
  · simp [GrantSetInv, hq, hg, State.reset_dock]
  · simp [PendingInv, hrides, hg, State.reset_dock]

theorem State.reset_lineInv : LineInv State.reset := by
  intro l _
  rw [State.reset_line]
  refine ⟨by simp [LineShape], ⟨fun _ a => State.reset_fitted _, fun _ => rfl⟩, by simp⟩

/-- The state that power-on or pin reset answers, by the levels of the select lines and the commands that wait. -/
def afterReset (selN selK : Bool) (waiting : List Instr) : State :=
  { State.reset with
    portN := resetPort State.reset.portN selN
    portK := resetPort State.reset.portK selK
    pending := waiting }

theorem exec_reset (selN selK : Bool) (s : State) :
    exec (.powerOnOrPinReset selN selK) s = .next (afterReset selN selK s.pending) := rfl

theorem afterReset_dock (selN selK : Bool) (waiting : List Instr) (d : DockIx) :
    (afterReset selN selK waiting).dock d = {} := by
  show State.reset.docks.get d = {}
  exact State.reset_dock d

theorem afterReset_free (selN selK : Bool) (waiting : List Instr) :
    (afterReset selN selK waiting).free = List.range 384 := by
  simp only [afterReset, State.reset_free]

theorem afterReset_present (selN selK : Bool) (waiting : List Instr) :
    (afterReset selN selK waiting).present .n = 0x02#8 ∧ (afterReset selN selK waiting).present .k = 0#8 := by
  simp [State.present, State.live, afterReset, State.reset, resetPort, evClock]

/-- CLOCK is present at Port N and masked; nothing is present at Port K. -/
theorem afterReset_attention (selN selK : Bool) (waiting : List Instr) (p : Port) :
    (afterReset selN selK waiting).attention p = false := by
  obtain ⟨hn, hk⟩ := afterReset_present selN selK waiting
  cases p
  · have hmasks : (afterReset selN selK waiting).portN.masks = 0x3F#8 := rfl
    simp [State.attention, hn, hmasks]
  · simp [State.attention, hk]

theorem afterReset_line (selN selK : Bool) (waiting : List Instr) (l : Line) :
    (afterReset selN selK waiting).line l = {} := by cases l <;> rfl

end Sys2Proof.Machine

namespace Sys2Proof.Proofs

open Sys2Proof.Machine

/-- Settles O3. -/
theorem resetValues : Obligations.ResetValues := by
  intro selN selK s
  have hpresent := afterReset_present selN selK s.pending
  have hattention := afterReset_attention selN selK s.pending
  exact ⟨afterReset selN selK s.pending, exec_reset selN selK s, ⟨rfl, rfl, rfl⟩, State.reset_class, ⟨rfl, rfl⟩,
    ⟨rfl, rfl, rfl, rfl⟩, afterReset_dock selN selK s.pending, ⟨rfl, rfl⟩, afterReset_line selN selK s.pending,
    ⟨afterReset_free selN selK s.pending, rfl, rfl⟩, rfl, rfl, rfl, rfl,
    ⟨hpresent.1, hpresent.2, hattention .n, hattention .k⟩, rfl⟩

/-- Settles O50: the tables and lists are empty, every dock and line holds its reset record, and every slot is free. -/
theorem resetInvariants : Obligations.ResetInvariants := by
  have hcreds : State.reset.creds = [] := rfl
  have hrides : State.reset.rides = [] := rfl
  refine ⟨State.reset_configInv, by decide, by decide, by decide, ?_, by simp [TagInv, hrides],
    by simp [DockTagInv, hrides], State.reset_releaseInv, by decide, .inr (by decide), ?_, by decide, ?_, ?_,
    State.reset_lineInv⟩
  · refine ⟨by decide, by decide, fun c => ?_, by decide, by decide⟩
    rw [State.reset_class]; decide
  · exact ⟨by decide, State.reset_allSlots ▸ List.Perm.refl _⟩
  · intro d; rw [State.reset_dock]; decide
  · intro d _; exact State.reset_dock d

/-- Settles O11. -/
theorem clockSetWrites : Obligations.ClockSetWrites := by
  intro s m b hs
  have hsec : clampSecond b = Fin.ofNat 60 (min b.toNat 59) :=
    Fin.ext (Nat.mod_eq_of_lt (by omega)).symm
  have hrule : onlyN .n (clockSetRule m b) s =
      ({ s with minute := m, second := Fin.ofNat 60 (min b.toNat 59), clockSet := true },
        ⟨if 59 < b.toNat then .clamped else .ok, .none⟩) := by
    simp [clockSetRule, hsec, okOr]
  exact request_next hs _ _ hrule (Nat.le_refl _)

end Sys2Proof.Proofs
end

section
/-! PROOFS. CLASS SET and the second tick (R1, R2, R6). -/

namespace Sys2Proof.Machine

/-! ## CLASS SET (R6) -/

theorem classOfCode_of_lt {b : Byte} (h : b.toNat < 4) : classOfCode b = some ⟨b.toNat, h⟩ := dif_pos h

theorem classOfCode_of_le {b : Byte} (h : 4 ≤ b.toNat) : classOfCode b = none := dif_neg (Nat.not_lt.mpr h)

/-- The record a CLASS SET stores, field by field (R6). -/
theorem classOfRequest_eq (incl unit : Byte) (price cap minBal : Word16) (limit : Byte) (life : Word16) (held : Byte) :
    classOfRequest incl unit price cap minBal limit life held =
      { incl := min incl.toNat 240, unit := max 1 (min unit.toNat 240), price := min price.toNat 1000,
        cap := min cap.toNat 30000, minBal := minBal.toInt, limit := max 1 (min limit.toNat 4),
        life := max 1 (min life.toNat 240), mayHeld := decide (held ≠ 0#8) } := by
  simp [classOfRequest, clampNat, signed, Nat.min_comm]

/-- CLAMPED is answered exactly where a field lay outside its range (R6). -/
theorem okOr_classClamped (incl unit : Byte) (price cap : Word16) (limit : Byte) (life : Word16) :
    okOr (classClamped incl unit price cap limit life) =
      if incl.toNat ≤ 240 ∧ (1 ≤ unit.toNat ∧ unit.toNat ≤ 240) ∧ price.toNat ≤ 1000 ∧ cap.toNat ≤ 30000 ∧
          (1 ≤ limit.toNat ∧ limit.toNat ≤ 4) ∧ (1 ≤ life.toNat ∧ life.toNat ≤ 240) then .ok else .clamped := by
  unfold okOr classClamped
  split
  · next h => rw [decide_eq_true_eq] at h; rw [if_neg (by omega)]
  · next h => rw [decide_eq_true_eq] at h; rw [if_pos (by omega)]

/-- A CLASS SET of a class number of at most 3, at its rule. -/
theorem classSetRule_of_lt {cls : Byte} (h : cls.toNat < 4) (incl unit : Byte) (price cap minBal : Word16)
    (limit : Byte) (life : Word16) (held : Byte) (s : State) :
    classSetRule cls incl unit price cap minBal limit life held s =
      ({ s with classes := s.classes.set cls.toNat (classOfRequest incl unit price cap minBal limit life held) h },
        ⟨okOr (classClamped incl unit price cap limit life), .none⟩) := by
  unfold classSetRule
  rw [classOfCode_of_lt h]

theorem classSetRule_of_le {cls : Byte} (h : 4 ≤ cls.toNat) (incl unit : Byte) (price cap minBal : Word16)
    (limit : Byte) (life : Word16) (held : Byte) (s : State) :
    classSetRule cls incl unit price cap minBal limit life held s = answer s .badValue := by
  unfold classSetRule
  rw [classOfCode_of_le h]

/-! ## The second tick (R1, R2) -/

/-- Below second 59 the tick raises the second counter alone. -/
theorem State.tickClock_second {s : State} (h : s.second.val < 59) :
    s.tickClock.second.val = s.second.val + 1 ∧ s.tickClock.minute = s.minute := by
  unfold State.tickClock
  rw [dif_pos (by omega)]
  exact ⟨rfl, rfl⟩

/-- At second 59 the second counter becomes 0 and the minute counter moves on round its circle (R1). -/
theorem State.tickClock_minute {s : State} (h : s.second.val = 59) :
    s.tickClock.second = 0 ∧ s.tickClock.minute = s.minute + 1 := by
  unfold State.tickClock
  rw [dif_neg (by omega)]
  exact ⟨rfl, rfl⟩

/-- The mismatch counts stand below second 59 and become 0 at the rollover (R62). -/
theorem State.tickMismatch_dock (s : State) (d : DockIx) :
    s.tickMismatch.dock d = if s.second.val + 1 < 60 then s.dock d else { s.dock d with mismatch := 0 } := by
  unfold State.tickMismatch
  split
  · rfl
  · rw [State.dock_mapDocks]

/-- The state of a second tick before its lines: clock, mismatch counts, ride windows and sweep idle timer. -/
def State.ticked (s : State) : State :=
  { s.tickMismatch.tickClock with
    rides := s.tickMismatch.tickClock.rides.map Ride.tick
    sweep := { s.tickMismatch.tickClock.sweep with idle := s.tickMismatch.tickClock.sweep.idle.map Timer.tick } }

theorem State.tick_eq (s : State) : s.tick = (s.ticked.tickLine .a).tickLine .b := rfl

theorem State.ticked_rest (s : State) : s.ticked = { s with
    second := s.tickClock.second, minute := s.tickClock.minute, docks := s.tickMismatch.docks,
    rides := s.rides.map Ride.tick, sweep := { s.sweep with idle := s.sweep.idle.map Timer.tick } } := by
  by_cases h : s.second.val + 1 < 60 <;> simp [State.ticked, State.tickClock, State.tickMismatch, h, State.mapDocks]

@[simp] theorem State.ticked_dock (s : State) (d : DockIx) : s.ticked.dock d = s.tickMismatch.dock d := by
  rw [State.ticked_rest]; rfl

@[simp] theorem State.ticked_line (s : State) (l : Line) : s.ticked.line l = s.line l := by
  rw [State.ticked_rest]; cases l <;> rfl

@[simp] theorem State.ticked_settings (s : State) : s.ticked.settings = s.settings := by
  rw [State.ticked_rest]

/-- Whether a line has work is read off the states and pending commands of its docks (R135). -/
theorem State.lineBusy_congr {s t : State}
    (h : ∀ d : DockIx, (t.dock d).state = (s.dock d).state ∧ (t.dock d).pending = (s.dock d).pending) (l : Line) :
    t.lineBusy l = s.lineBusy l := by
  unfold State.lineBusy
  simp only [h]

theorem State.ticked_lineBusy (s : State) (l : Line) : s.ticked.lineBusy l = s.lineBusy l := by
  refine State.lineBusy_congr (fun d => ?_) l
  rw [State.ticked_dock, State.tickMismatch_dock]
  split <;> exact ⟨rfl, rfl⟩

/-- The ticks of the two lines leave everything else as it is. -/
theorem State.tick_rest (s : State) : s.tick = { s.ticked with lineA := s.tick.lineA, lineB := s.tick.lineB } := rfl

theorem State.tick_dock (s : State) (d : DockIx) : s.tick.dock d = s.tickMismatch.dock d := by
  rw [State.tick_rest]; exact s.ticked_dock d

theorem State.tickLine_line (s : State) (l m : Line) :
    (s.tickLine l).line m =
      if m = l then (s.line l).tick (s.settings.quiet l) (s.lineBusy l) s.settings.quietDelay else s.line m := by
  rw [State.tickLine, State.line_updLine]

theorem State.tickLine_settings (s : State) (l : Line) : (s.tickLine l).settings = s.settings := by
  rw [State.tickLine, State.updLine_settings]

/-- Each line's timers take their second, by the work its docks had before the tick (R127, R135, R136). -/
theorem State.tick_line (s : State) (l : Line) :
    s.tick.line l = (s.line l).tick (s.settings.quiet l) (s.lineBusy l) s.settings.quietDelay := by
  have hbusy : (s.ticked.tickLine .a).lineBusy .b = s.ticked.lineBusy .b :=
    State.lineBusy_congr (fun d => by simp [State.tickLine]) .b
  cases l
  · rw [State.tick_eq, State.tickLine_line, if_neg (by decide), State.tickLine_line, if_pos rfl, State.ticked_lineBusy,
      State.ticked_line, State.ticked_settings]
  · rw [State.tick_eq, State.tickLine_line, if_pos rfl, State.tickLine_line, if_neg (by decide), hbusy,
      State.ticked_lineBusy, State.ticked_line, State.tickLine_settings, State.ticked_settings]

/-- What a second does to a line but for the quiet timer and its mark. -/
theorem LineCtl.tick_rest (c : LineCtl) (enabled busy : Bool) (delay : Nat) :
    c.tick enabled busy delay = { c with
      errTimer := c.errTimer.map (fun x => min (x + 1) 8)
      quietInterval := c.quietInterval.map (fun x => ⟨min (x.elapsed + 1) x.limit, x.limit⟩)
      quietTimer := (c.tick enabled busy delay).quietTimer
      quietDue := (c.tick enabled busy delay).quietDue } := by
  unfold LineCtl.tick
  split
  · cases busy <;> rfl
  · rfl

/-- The quiet timer of a RUNNING line with quiet enabled counts while the line has no work, and is 0 while it has; any
other quiet timer stands (R135). -/
theorem LineCtl.tick_quiet (c : LineCtl) (enabled busy : Bool) (delay : Nat) :
    if c.state = .running ∧ enabled = true then
      (busy = true → (c.tick enabled busy delay).quietTimer = 0 ∧ (c.tick enabled busy delay).quietDue = false) ∧
      (busy = false → (c.tick enabled busy delay).quietTimer = min (c.quietTimer + 1) 3600 ∧
        ((c.tick enabled busy delay).quietDue = true ↔ delay ≤ (c.tick enabled busy delay).quietTimer))
    else (c.tick enabled busy delay).quietTimer = c.quietTimer ∧ (c.tick enabled busy delay).quietDue = c.quietDue := by
  unfold LineCtl.tick
  split
  · cases busy <;> simp
  · exact ⟨rfl, rfl⟩

theorem exec_secondTick (s : State) : exec .secondTick s = .next s.tick :=
  event_same_free (by rw [State.tick_rest, State.ticked_rest])

/-- At second 59 the minute rollover is the tick (R1, log 3). -/
theorem exec_minuteRollover {s : State} (h : s.second.val = 59) : exec .minuteRollover s = .next s.tick := by
  have hroll : (if s.second.val + 1 < 60 then s else s.tick) = s.tick := if_neg (by omega)
  have hfree : s.tick.free = s.free := by rw [State.tick_rest, State.ticked_rest]
  show event (fun s : State => if s.second.val + 1 < 60 then s else s.tick) s = _
  rw [event_same_free (by rw [hroll, hfree]), hroll]

end Sys2Proof.Machine

namespace Sys2Proof.Proofs

open Sys2Proof.Machine

/-- Settles O12. -/
theorem classSetReplaces : Obligations.ClassSetReplaces := by
  intro s cls incl unit price cap minBal limit life held
  refine ⟨fun hs h => ?_, fun hs h => ?_, fun hs => ?_⟩
  · rw [← okOr_classClamped, ← classOfRequest_eq]
    exact request_next hs _ _ (classSetRule_of_lt h incl unit price cap minBal limit life held s) (Nat.le_refl _)
  · exact request_refused hs _ _ (classSetRule_of_le h incl unit price cap minBal limit life held s)
  · exact request_refused hs _ _ rfl

/-- Settles O10. -/
theorem secondTickCounts : Obligations.SecondTickCounts := by
  intro s
  refine ⟨s.tick, exec_secondTick s, exec_minuteRollover, fun h => ?_,
    fun h => ?_, ?_, ?_, fun l => ?_, fun l => ?_, ?_⟩
  · obtain ⟨hsec, hmin⟩ := State.tickClock_second h
    rw [State.tick_rest, State.ticked_rest]
    refine ⟨hsec, hmin, fun d => ?_⟩
    exact (State.tickMismatch_dock s d).trans (if_pos (by omega))
  · obtain ⟨hsec, hmin⟩ := State.tickClock_minute h
    rw [State.tick_rest, State.ticked_rest]
    refine ⟨congrArg Fin.val hsec, ?_, fun d => ?_⟩
    · show s.tickClock.minute.toNat = _
      rw [hmin, BitVec.toNat_add]; rfl
    · exact (State.tickMismatch_dock s d).trans (if_neg (by omega))
  · rw [State.tick_rest, State.ticked_rest]; rfl
  · rw [State.tick_rest, State.ticked_rest]; rfl
  · rw [State.tick_line]; exact LineCtl.tick_rest _ _ _ _
  · rw [State.tick_line]; exact LineCtl.tick_quiet _ _ _ _
  · rw [State.tick_rest, State.ticked_rest]
    exact ⟨rfl, rfl, rfl, rfl, rfl, rfl, rfl, rfl, ⟨rfl, rfl, rfl⟩, rfl, rfl, rfl, rfl, rfl⟩

end Sys2Proof.Proofs
end

section
/-! PROOFS. Settings, classes and levels in range, and at most 8 grants held: each shared operation keeps them (R5, R107,
R153, R186). -/

namespace Sys2Proof.Machine

/-- The two invariants of the station's configuration, kept together: the budget of one bounds the grants of the other. -/
def ConfigSound (s : State) : Prop := ConfigInv s ∧ GrantBound s

namespace ConfigSound

variable {s t : State}

/-- Only settings, classes, levels and the number of grants matter. -/
theorem of_le (h : ConfigSound s) (hset : t.settings = s.settings) (hcls : t.classes = s.classes)
    (hlev : t.levels = s.levels) (hg : t.grants.length ≤ max s.grants.length s.settings.budget) : ConfigSound t := by
  obtain ⟨⟨h1, h2, h3⟩, h4, h5, h6⟩ := h
  refine ⟨⟨by rwa [hset], by rwa [hcls], ?_⟩, by omega, by rwa [hset], by rwa [hset]⟩
  unfold State.level
  rwa [hlev]

theorem of_eq (h : ConfigSound s) (hset : t.settings = s.settings) (hcls : t.classes = s.classes)
    (hlev : t.levels = s.levels) (hg : t.grants = s.grants) : ConfigSound t :=
  h.of_le hset hcls hlev (hg ▸ Nat.le_max_left _ _)

theorem station (h : ConfigSound s) (k : SameStation s t)
    (hg : t.grants.length ≤ max s.grants.length s.settings.budget) : ConfigSound t := by
  obtain ⟨⟨-, -, -, hcls, -, -, hlev, hset, -⟩, -, -⟩ := k
  exact h.of_le hset hcls hlev hg

theorem ride (h : ConfigSound s) (k : RideFrame s t) (hg : t.grants = s.grants) : ConfigSound t :=
  h.station k.station (hg ▸ Nat.le_max_left _ _)

theorem pool (h : ConfigSound s) (k : PoolFrame s t) : ConfigSound t := h.ride k.ride k.grants

theorem own {l : Line} (h : ConfigSound s) (k : OwnLine s t l) : ConfigSound t :=
  h.station k.station (k.grants ▸ Nat.le_max_left _ _)

/-! ## Grants -/

theorem issueGrants (h : ConfigSound s) : ConfigSound s.issueGrants := by
  refine h.station s.issueGrants_frame.station ?_
  unfold State.issueGrants
  generalize (s.releaseQ.filter (fun e => !e.granted)).map (fun e => e.dock) = ds
  clear h
  induction ds generalizing s with
  | nil => exact Nat.le_max_left _ _
  | cons d ds ih =>
    have hstep : (s.grantStep d).grants.length ≤ max s.grants.length s.settings.budget := by
      unfold State.grantStep
      split
      · next hroom => rw [State.grant_grants, List.length_append]; simp only [List.length_singleton]; omega
      · exact Nat.le_max_left _ _
    have hset : (s.grantStep d).settings = s.settings := (s.grantStep_frame d).station.1.2.2.2.2.2.2.2.1
    have hrest := ih (s := s.grantStep d)
    rw [hset] at hrest
    rw [List.foldl_cons]
    omega

theorem returnGrant (h : ConfigSound s) (d : DockIx) : ConfigSound (s.returnGrant d) := by
  unfold State.returnGrant
  split
  · refine issueGrants (h.of_le rfl rfl rfl ?_)
    exact (List.length_filter_le _ _).trans (Nat.le_max_left _ _)
  · exact h

theorem updDock (h : ConfigSound s) (d : DockIx) (f : Dock → Dock) : ConfigSound (s.updDock d f) :=
  h.of_eq rfl rfl rfl rfl

theorem updLine (h : ConfigSound s) (l : Line) (f : LineCtl → LineCtl) : ConfigSound (s.updLine l f) :=
  h.own (s.updLine_own l f)

theorem updPort (h : ConfigSound s) (p : Port) (f : PortState → PortState) : ConfigSound (s.updPort p f) := by
  cases p <;> exact h.of_eq rfl rfl rfl rfl

theorem latch (h : ConfigSound s) (p : Port) (e : Byte) : ConfigSound (s.latch p e) := h.updPort p _

theorem startRound (h : ConfigSound s) (l : Line) : ConfigSound (s.startRound l) := h.updLine l _

theorem leaveQuiet (h : ConfigSound s) (l : Line) : ConfigSound (s.leaveQuiet l) := by
  unfold State.leaveQuiet
  dsimp only
  split
  · exact (h.updLine l _).latch _ _
  · exact ((h.updLine l _).latch _ _).startRound l

theorem markPending (h : ConfigSound s) (d : DockIx) (c : Pending) : ConfigSound (s.markPending d c) := by
  unfold State.markPending
  dsimp only
  split
  · exact (h.updDock d _).leaveQuiet _
  · exact h.updDock d _

theorem setPending (h : ConfigSound s) (d : DockIx) (c : Pending) : ConfigSound (s.setPending d c) := by
  unfold State.setPending
  dsimp only
  split
  · exact (h.markPending d c).issueGrants
  · exact h.markPending d c

theorem quietReturn (h : ConfigSound s) (l : Line) : ConfigSound (s.quietReturn l) := by
  unfold State.quietReturn
  split
  · exact (h.leaveQuiet l).issueGrants
  · exact h

/-! ## Records -/

theorem postK (h : ConfigSound s) (b : Body) : ConfigSound (s.postK b) := h.pool (s.postK_pool b)

theorem notice (h : ConfigSound s) (sub : Subject) (b : NoticeBody) : ConfigSound (s.notice sub b) :=
  h.pool (s.notice_pool sub b)

theorem trimK (h : ConfigSound s) (k : Nat) : ConfigSound (s.trimK k) := by
  induction k generalizing s with
  | zero => exact h
  | succ k ih =>
    unfold State.trimK
    split
    · exact ih (h.pool s.evictK_pool)
    · exact h

theorem untake (h : ConfigSound s) (p : Port) : ConfigSound (s.untake p) := by
  cases p
  · exact h.of_eq rfl rfl rfl rfl
  · refine trimK ?_ _
    exact h.of_eq rfl rfl rfl rfl

/-! ## Rides -/

theorem endRideOf (h : ConfigSound s) (c : CredNo) : ConfigSound (s.endRideOf c) :=
  h.ride (s.endRideOf_ride c) (s.endRideOf_grants c)

theorem relatchDock (h : ConfigSound s) (d : DockIx) : ConfigSound (s.relatchDock d) := (h.updDock d _).setPending d _

theorem relatchRide (h : ConfigSound s) (r : Ride) : ConfigSound (s.relatchRide r) := by
  unfold State.relatchRide
  refine (returnGrant ?_ r.dock).relatchDock r.dock
  exact h.of_eq rfl rfl rfl rfl

theorem freeSlot (h : ConfigSound s) (n : Nat) : ConfigSound (s.freeSlot n) := h.of_eq rfl rfl rfl rfl

theorem dropRide (h : ConfigSound s) (n : RideNo) : ConfigSound (s.dropRide n) := h.of_eq rfl rfl rfl rfl

theorem leaveQueue (h : ConfigSound s) (d : DockIx) : ConfigSound (s.leaveQueue d) := h.of_eq rfl rfl rfl rfl

theorem cancelRide (h : ConfigSound s) (r : Ride) (o : RideOutcome) : ConfigSound (s.cancelRide r o) :=
  ((((((h.freeSlot r.slot).endRideOf r.cred).postK _).dropRide r.number).leaveQueue r.dock).updDock r.dock _).returnGrant
    r.dock

theorem cancelForCred (h : ConfigSound s) (n : RideNo) : ConfigSound (s.cancelForCred n) := by
  unfold State.cancelForCred
  split
  · split
    · exact h.cancelRide _ _
    · exact h
  · exact h

theorem cancelQueuedOf (h : ConfigSound s) (f : CredNo → Bool) : ConfigSound (s.cancelQueuedOf f) := by
  unfold State.cancelQueuedOf
  generalize s.queuedRidesOf f = ns
  induction ns generalizing s with
  | nil => exact h
  | cons n ns ih => exact ih (h.cancelForCred n)

theorem acknowledge (h : ConfigSound s) (r : Ride) : ConfigSound (s.acknowledge r) := h.of_eq rfl rfl rfl rfl

theorem takeUp (h : ConfigSound s) (r : Ride) (late : Bool) : ConfigSound (s.takeUp r late) := by
  unfold State.takeUp
  refine ((returnGrant ?_ r.dock).postK _).notice _ _
  exact h.of_eq rfl rfl rfl rfl

theorem closeRide (h : ConfigSound s) (r : Ride) (k : TripKind) (d : Option DockIx) (m : Minute) (q : Bool) :
    ConfigSound (s.closeRide r k d m q) :=
  h.ride (s.closeRide_ride r k d m q) (s.closeRide_spec r k d m q).grants

theorem finishRide (h : ConfigSound s) (r : Ride) (k : TripKind) (d : Option DockIx) (m : Minute) :
    ConfigSound (s.finishRide r k d m) := by
  unfold State.finishRide
  split
  · exact h.closeRide r k d m false
  · exact (((h.closeRide _ k d m true).postK _).returnGrant r.dock).relatchDock r.dock

theorem ageOut (h : ConfigSound s) : ConfigSound s.ageOut := by
  unfold State.ageOut
  split
  · exact h
  · next r _ => exact (h.endRideOf r.cred).of_eq rfl rfl rfl rfl

theorem returnBike (h : ConfigSound s) (d : DockIx) (g : BikeTag) : ConfigSound (s.returnBike d g) := by
  have hforeign := h.pool (s.foreignReturn_pool d g)
  unfold State.returnBike
  split
  · exact hforeign
  · split
    · exact hforeign
    · split
      · exact hforeign
      · exact h.finishRide _ _ _ _

/-! ## Replies -/

theorem loseLink (h : ConfigSound s) (d : DockIx) : ConfigSound (s.loseLink d) := by
  have hlost := h.updDock d (fun x => { x with link := .lost })
  unfold State.loseLink
  dsimp only
  split
  · exact hlost.notice _ _
  · split
    · exact (hlost.cancelRide _ _).notice _ _
    · exact (hlost.relatchRide _).notice _ _
    · exact hlost.notice _ _
    · exact hlost

theorem failTurn (h : ConfigSound s) (d : DockIx) : ConfigSound (s.failTurn d) := by
  unfold State.failTurn
  dsimp only
  split
  · exact h
  · split
    · exact (h.updDock d _).loseLink d
    · exact h.updDock d _

theorem jamDock (h : ConfigSound s) (d : DockIx) (c : JamCause) (n : Option RideNo) :
    ConfigSound (s.jamDock d c n) := by
  unfold State.jamDock
  split
  · exact h
  · exact (h.updDock d _).notice _ _

theorem bikeGone (h : ConfigSound s) (d : DockIx) (n : Option RideNo) : ConfigSound (s.bikeGone d n) :=
  (h.updDock d _).notice _ _

theorem retag (h : ConfigSound s) (d : DockIx) (g : BikeTag) : ConfigSound (s.retag d g) := by
  unfold State.retag
  dsimp only
  split
  · exact h
  · split
    · exact (h.updDock d _).returnBike d g
    · exact h.updDock d _

theorem relatchAttempt (h : ConfigSound s) (d : DockIx) (c : Bool) (n : Option RideNo) :
    ConfigSound (s.relatchAttempt d c n) := by
  unfold State.relatchAttempt
  split
  · split
    · exact h.jamDock _ _ _
    · exact h.updDock d _
  · exact h

theorem rideReply (h : ConfigSound s) (d : DockIx) (x : Ride) (r : StatusReply) (c : Bool) :
    ConfigSound (s.rideReply d x r c) := by
  unfold State.rideReply
  split
  · split
    · split
      · exact h.acknowledge x
      · exact (h.acknowledge x).takeUp _ _
    · exact h
  · split
    · exact h
    · exact h.takeUp _ _
  · split
    · exact h.relatchAttempt _ _ _
    · exact h.takeUp _ _
  · exact h

theorem afterCancel (h : ConfigSound s) (d : DockIx) (x : Ride) (r : StatusReply) :
    ConfigSound (s.afterCancel d x r) := by
  unfold State.afterCancel
  split
  · exact h.jamDock _ _ _
  · split
    · split
      · exact h.retag _ _
      · exact h.jamDock _ _ _
    · exact h.bikeGone _ _

theorem clearFault (h : ConfigSound s) (d : DockIx) (r : StatusReply) : ConfigSound (s.clearFault d r) := by
  unfold State.clearFault
  split
  · exact (h.updDock d _).retag _ _
  · split
    · exact h.updDock d _
    · exact h.bikeGone _ _

theorem plainReply (h : ConfigSound s) (d : DockIx) (r : StatusReply) (c : Bool) :
    ConfigSound (s.plainReply d r c) := by
  unfold State.plainReply
  split
  · split
    · exact h.updDock d _
    · split
      · exact h.updDock d _
      · exact (h.updDock d _).relatchDock d
  · split
    · exact (h.updDock d _).returnBike _ _
    · exact h
  · split
    · exact h.bikeGone _ _
    · split
      · exact h.retag _ _
      · exact h.relatchDock d
  · split
    · exact h.updDock d _
    · split
      · exact (h.updDock d _).retag _ _
      · exact h.relatchAttempt _ _ _
  · split
    · exact h
    · exact h.clearFault _ _
  all_goals exact h

theorem dockReply (h : ConfigSound s) (d : DockIx) (r : StatusReply) (c : Bool) : ConfigSound (s.dockReply d r c) := by
  unfold State.dockReply
  split
  · exact h.jamDock _ _ _
  · split
    · exact (h.updDock d _).notice _ _
    · exact h.plainReply _ _ _

theorem offerToken (h : ConfigSound s) (d : DockIx) (r : StatusReply) : ConfigSound (s.offerToken d r) := by
  unfold State.offerToken
  split
  · split
    · exact h
    · unfold State.offer
      split
      · exact h
      · exact h.of_eq rfl rfl rfl rfl
  · exact h

theorem handleStatus (h : ConfigSound s) (d : DockIx) (r : StatusReply) (c : Bool) :
    ConfigSound (s.handleStatus d r c) := by
  have hoffer := ((h.updDock d (fun x => { x with link := .online })).offerToken d r).updDock d
    (fun x => { x with powerLow := r.powerLow })
  unfold State.handleStatus
  dsimp only
  split
  · split
    · exact ((hoffer.cancelRide _ _).pool (State.linkNotices_pool _ _ _ _)).afterCancel _ _ _
    · exact (hoffer.pool (State.linkNotices_pool _ _ _ _)).rideReply _ _ _ _
  · exact (hoffer.pool (State.linkNotices_pool _ _ _ _)).dockReply _ _ _

/-! ## Lines -/

theorem settleOpen (h : ConfigSound s) (d : DockIx) (b : Bool) : ConfigSound (settleOpen s d b) :=
  h.of_eq rfl rfl rfl rfl

theorem enterBreak (h : ConfigSound s) (l : Line) (c : BreakCause) : ConfigSound (s.enterBreak l c) :=
  h.ride (s.enterBreak_ride l c) (s.enterBreak_spec l c).grants

theorem lineError (h : ConfigSound s) (l : Line) : ConfigSound (s.lineError l) := by
  unfold State.lineError
  dsimp only
  split
  · exact ((h.updLine l _).notice _ _).enterBreak l _
  · exact h.updLine l _

theorem endFailed (h : ConfigSound s) (l : Line) (x : Turn) (e : Bool) : ConfigSound (s.endFailed l x e) := by
  have hturn := (((h.settleOpen (dockIx l x.addr) true).own (State.endTurn_own _ l)).updDock (dockIx l x.addr)
    (fun y => { y with busy := 0 })).failTurn (dockIx l x.addr)
  unfold State.endFailed
  dsimp only
  split
  · exact hturn.lineError l
  · exact hturn

theorem endBusy (h : ConfigSound s) (l : Line) (x : Turn) : ConfigSound (s.endBusy l x) := by
  have hturn := (h.settleOpen (dockIx l x.addr) false).own (State.endTurn_own _ l)
  unfold State.endBusy
  extract_lets d before s1 s2
  have h2 : ConfigSound s2 := by
    show ConfigSound (ite _ _ _)
    split
    · exact (hturn.updDock d _).notice _ _
    · exact hturn.updDock d _
  split
  · exact (h2.updDock d _).failTurn d
  · exact h2.updDock d _

theorem openAfterShow (h : ConfigSound s) (d : DockIx) : ConfigSound (s.openAfterShow d) := by
  unfold State.openAfterShow
  split
  · exact h.setPending d _
  · exact h

theorem endStatus (h : ConfigSound s) (l : Line) (x : Turn) (r : StatusReply) : ConfigSound (s.endStatus l x r) := by
  have hdone := ((((h.settleOpen (dockIx l x.addr) true).own (State.endTurn_own _ l)).ride
    (State.clearCounts_ride _ (dockIx l x.addr) x) rfl).handleStatus (dockIx l x.addr) r
    (decide (x.cmd = .closeCmd))).openAfterShow (dockIx l x.addr)
  unfold State.endStatus
  dsimp only
  split
  · exact (hdone.updLine l _).quietReturn l
  · exact hdone

theorem recover (h : ConfigSound s) (l : Line) : ConfigSound (s.recover l) :=
  (((h.updLine l _).latch _ _).notice _ _).issueGrants.startRound l

theorem startTurn (h : ConfigSound s) (l : Line) (a : Addr) : ConfigSound (s.startTurn l a) := by
  unfold State.startTurn
  dsimp only
  split
  · exact (h.updLine l _).of_eq rfl rfl rfl rfl
  · exact h.updLine l _

end ConfigSound

end Sys2Proof.Machine
end

section
/-! PROOFS. Every command keeps settings, classes and levels in range and at most 8 grants held (R5, R6, R107, R153,
R154, R186 to R188). -/

namespace Sys2Proof.Machine

/-! ## Stored values lie in their ranges (R5, R153, R186) -/

theorem clampNat_mem {lo hi : Nat} (h : lo ≤ hi) (x : Nat) : lo ≤ clampNat lo hi x ∧ clampNat lo hi x ≤ hi := by
  unfold clampNat
  omega

/-- What CLASS SET stores lies in the ranges of R5. -/
theorem classOfRequest_inRange (incl unit : Byte) (price cap minBal : Word16) (limit : Byte) (life : Word16)
    (held : Byte) : ClassInRange (classOfRequest incl unit price cap minBal limit life held) := by
  have hlow : -32768 ≤ minBal.toInt := minBal.le_toInt
  have hhigh : minBal.toInt < 32768 := minBal.toInt_lt
  exact ⟨(clampNat_mem (by decide) _).2, clampNat_mem (by decide) _, (clampNat_mem (by decide) _).2,
    (clampNat_mem (by decide) _).2, ⟨hlow, Int.le_of_lt_add_one hhigh⟩, clampNat_mem (by decide) _,
    clampNat_mem (by decide) _⟩

/-- The place of a kind in the notice kind table names the kind. -/
theorem Kind.all_get_ix (k : Kind) : Kind.all[k.ix.val]? = some k := by cases k <;> rfl

theorem Kind.ix_injective {a b : Kind} (h : a.ix = b.ix) : a = b := by
  have ha := Kind.all_get_ix a
  rw [h, Kind.all_get_ix b] at ha
  exact (Option.some.inj ha).symm

/-- A trip record kind is never stored with level 0 (R154). -/
theorem storedLevel_ne_zero {k : Kind} (h : k.isTrip = true) (level : Byte) : storedLevel k level ≠ 0 := by
  have hval : (storedLevel k level).val = min 3 (max 1 level.toNat) := by simp [storedLevel, h]
  intro hzero
  rw [hzero] at hval
  simp at hval
  omega

/-- A numeric setting written with its clamped value leaves every setting in its range, the low mark below the high
mark (R187, R188). -/
theorem SettingsInRange.setNum {x : Settings} (h : SettingsInRange x) (n : NumSetting) (value : Nat) :
    SettingsInRange (({ x with low := lowFor x n (clampNat (n.range x).1 (n.range x).2 value) }).setNum n
      (clampNat (n.range x).1 (n.range x).2 value)) := by
  have hle : (n.range x).1 ≤ (n.range x).2 := by cases n <;> simp [NumSetting.range]
  obtain ⟨hv1, hv2⟩ := clampNat_mem hle value
  generalize clampNat (n.range x).1 (n.range x).2 value = v at hv1 hv2
  cases n with
  | high =>
    dsimp only [NumSetting.range, lowFor, Settings.setNum, SettingsInRange] at *
    split <;> omega
  | low =>
    dsimp only [NumSetting.range, lowFor, Settings.setNum, SettingsInRange] at *
    omega
  | _ =>
    dsimp only [NumSetting.range, lowFor, Settings.setNum, SettingsInRange] at *
    omega

namespace ConfigSound

variable {s : State}

/-! ## The admission decision -/

theorem showRefuse (h : ConfigSound s) (o : Origin) : ConfigSound (s.showRefuse o) := by
  unfold State.showRefuse
  split
  · exact h
  · split
    · exact h
    · exact h
    · exact h
    · exact h
    · exact h.setPending _ _

theorem showAdmitted (h : ConfigSound s) (o : Origin) : ConfigSound (s.showAdmitted o) := by
  unfold State.showAdmitted
  split
  · exact h
  · exact h.setPending _ _

theorem burstNotice (h : ConfigSound s) (d : DockIx) (c : CredNo) : ConfigSound (s.burstNotice d c) := by
  unfold State.burstNotice
  split
  · exact h.notice _ _
  · exact h

theorem mismatchRecords (h : ConfigSound s) (x : Presentation) (d : DockIx) (b : Body) :
    ConfigSound (s.mismatchRecords x d b) := by
  have hcount : ConfigSound (s.countMismatch d) := h.updDock d _
  unfold State.mismatchRecords
  dsimp only
  split
  · exact h.postK b
  · split
    · exact (hcount.burstNotice d _).postK b
    · exact (hcount.postK b).burstNotice d _

theorem refuse (h : ConfigSound s) (x : Presentation) (r : Reason) : ConfigSound (s.refuse x r) := by
  unfold State.refuse
  dsimp only
  split
  · exact (h.mismatchRecords _ _ _).showRefuse _
  · exact (h.postK _).showRefuse _

theorem admitRide (h : ConfigSound s) (x : Presentation) (e : Cred) (d : DockIx) :
    ConfigSound (s.admitRide x e d) := by
  have hroom : ConfigSound (if Config.rideCapacity ≤ s.rides.length then s.ageOut else s) := by
    split
    · exact h.ageOut
    · exact h
  unfold State.admitRide
  extract_lets s1
  split
  · exact hroom
  · refine ((issueGrants ?_).postK _).showAdmitted _
    exact hroom.of_eq rfl rfl rfl rfl

theorem decideOn (h : ConfigSound s) (x : Presentation) : ConfigSound (s.decideOn x) := by
  have hspend : ConfigSound (s.spend x.token) := h.of_eq rfl rfl rfl rfl
  unfold State.decideOn
  split
  · exact h.refuse _ _
  · split
    · exact hspend.refuse _ _
    · exact hspend.admitRide _ _ _

/-! ## Credentials and sweeps -/

theorem restartIdle (h : ConfigSound s) : ConfigSound s.restartIdle := by
  unfold State.restartIdle
  split
  · exact h
  · exact h.of_eq rfl rfl rfl rfl

theorem abandonSweep (h : ConfigSound s) (c : AbandonCause) (n : Option Byte) : ConfigSound (s.abandonSweep c n) := by
  unfold State.abandonSweep
  split
  · exact h
  · refine (notice ?_ _ _).latch _ _
    exact h.of_eq rfl rfl rfl rfl

theorem credLoadRule (h : ConfigSound s) (c : CredNo) (st cls : Byte) (secret : BitVec 32)
    (counter balance overdraft : Word16) (keep : Byte) :
    ConfigSound (credLoadRule c st cls secret counter balance overdraft keep s).1 := by
  unfold Machine.credLoadRule
  dsimp only
  split
  · exact h.restartIdle
  · split
    · exact h.restartIdle
    · split
      · exact h.restartIdle
      · split
        · exact h.restartIdle
        · unfold State.loadCred
          dsimp only
          split
          · refine cancelQueuedOf ?_ _
            exact h.restartIdle.of_eq rfl rfl rfl rfl
          · exact h.restartIdle.of_eq rfl rfl rfl rfl

theorem credStateRule (h : ConfigSound s) (c : CredNo) (st : Byte) : ConfigSound (credStateRule c st s).1 := by
  unfold Machine.credStateRule
  split
  · exact h
  · split
    · exact h
    · split
      · exact h
      · dsimp only
        split
        · refine cancelQueuedOf ?_ _
          exact h.of_eq rfl rfl rfl rfl
        · exact h.of_eq rfl rfl rfl rfl

theorem credBalanceRule (h : ConfigSound s) (c : CredNo) (mode : Byte) (amount : Word16) :
    ConfigSound (credBalanceRule c mode amount s).1 := by
  unfold Machine.credBalanceRule
  split
  · exact h
  · split
    · exact h
    · exact h.of_eq rfl rfl rfl rfl

theorem credRemoveRule (h : ConfigSound s) (c : CredNo) : ConfigSound (credRemoveRule c s).1 := by
  unfold Machine.credRemoveRule
  split
  · exact h
  · split
    · exact h.of_eq rfl rfl rfl rfl
    · split
      · exact h
      · refine cancelQueuedOf ?_ _
        exact h.of_eq rfl rfl rfl rfl

theorem readCredRule (h : ConfigSound s) (c : CredNo) : ConfigSound (readCredRule c s).1 := by
  unfold Machine.readCredRule
  split <;> exact h

theorem sweepOpenRule (h : ConfigSound s) (n : Byte) : ConfigSound (sweepOpenRule n s).1 := by
  unfold Machine.sweepOpenRule
  split
  · exact h
  · exact (h.abandonSweep _ _).of_eq rfl rfl rfl rfl

theorem closeSweep (h : ConfigSound s) (n : Byte) : ConfigSound (s.closeSweep n).1 := by
  have hcancel : ConfigSound (State.cancelQueuedOf { s with creds := withdraw n s.creds }
      (State.withdrawn { s with creds := withdraw n s.creds } n)) := by
    refine cancelQueuedOf ?_ _
    exact h.of_eq rfl rfl rfl rfl
  unfold State.closeSweep
  refine (notice ?_ _ _).latch _ _
  exact hcancel.of_eq rfl rfl rfl rfl

theorem sweepCloseRule (h : ConfigSound s) (n : Byte) : ConfigSound (sweepCloseRule n s).1 := by
  unfold Machine.sweepCloseRule
  split
  · exact h
  · split
    · exact h.restartIdle
    · exact h.closeSweep n

/-! ## Docks, lines and rides -/

theorem dockFitRule (h : ConfigSound s) (p : Port) (line : Byte) (addrs : List Byte) :
    ConfigSound (dockFitRule p line addrs s).1 := by
  have hmap : ∀ l, ConfigSound (s.writeMap l addrs) := fun l => h.of_eq (State.mapDocks_settings _ _)
    (State.mapDocks_classes _ _) (State.mapDocks_levels _ _) (State.mapDocks_grants _ _)
  unfold Machine.dockFitRule
  split
  · exact h
  · split
    · exact h
    · split
      · exact h
      · split
        · exact h
        · split
          · exact h
          · split
            · exact (hmap _).ride (State.disableLine_ride _ _) (State.disableLine_spec _ _).grants
            · exact (hmap _).enterBreak _ _

theorem dockHoldRule (h : ConfigSound s) (p : Port) (b : Byte) : ConfigSound (dockHoldRule p b s).1 := by
  unfold Machine.dockHoldRule
  split
  · exact h
  · split
    · exact h.updDock _ _
    · exact h

theorem dockFreeRule (h : ConfigSound s) (b : Byte) : ConfigSound (dockFreeRule b s).1 := by
  unfold Machine.dockFreeRule
  split
  · exact h
  · exact h.updDock _ _

theorem readDockRule (h : ConfigSound s) (b : Byte) : ConfigSound (readDockRule b s).1 := by
  unfold Machine.readDockRule
  split <;> exact h

theorem lineRestartRule (h : ConfigSound s) (b : Byte) : ConfigSound (lineRestartRule b s).1 := by
  unfold Machine.lineRestartRule
  split
  · exact h
  · split
    · exact h
    · exact h.enterBreak _ _

theorem rideCloseRule (h : ConfigSound s) (g : BikeTag) (m : Minute) : ConfigSound (rideCloseRule g m s).1 := by
  unfold Machine.rideCloseRule
  split
  · exact h
  · split
    · exact h
    · split
      · exact h
      · exact h.finishRide _ _ _ _

theorem rideCancelRule (h : ConfigSound s) (n : RideNo) : ConfigSound (rideCancelRule n s).1 := by
  unfold Machine.rideCancelRule
  split
  · exact h
  · split
    · exact h.cancelRide _ _
    · exact h.relatchRide _
    · exact h
    · exact h

theorem readRideRule (h : ConfigSound s) (b : Byte) (v : BitVec 32) : ConfigSound (readRideRule b v s).1 := by
  unfold Machine.readRideRule
  split
  · exact h
  · split <;> exact h

theorem tokenPresentRule (h : ConfigSound s) (x : Token) (b : Byte) : ConfigSound (tokenPresentRule x b s).1 := by
  unfold Machine.tokenPresentRule
  split
  · exact h
  · split
    · exact h
    · exact h.of_eq rfl rfl rfl rfl

/-! ## Records and ports -/

theorem takeRule (h : ConfigSound s) (p : Port) : ConfigSound (takeRule p s).1 := by
  have hdrop : ConfigSound (s.dropHead p) := by cases p <;> exact h.of_eq rfl rfl rfl rfl
  unfold Machine.takeRule
  split
  · exact h
  · split
    · exact h
    · exact hdrop.updPort _ _

theorem giveBackRule (h : ConfigSound s) (p : Port) (n : Word16) : ConfigSound (giveBackRule p n s).1 := by
  unfold Machine.giveBackRule
  split
  · exact h
  · split
    · exact (h.updPort p _).of_eq rfl rfl rfl rfl
    · exact h

theorem maskSetRule (h : ConfigSound s) (p : Port) (e : Byte) : ConfigSound (maskSetRule p e s).1 := by
  unfold Machine.maskSetRule
  split
  · exact h.updPort p _
  · exact h

theorem maskClearRule (h : ConfigSound s) (p : Port) (e : Byte) : ConfigSound (maskClearRule p e s).1 := by
  unfold Machine.maskClearRule
  split
  · exact h.updPort p _
  · exact h

theorem eventClearRule (h : ConfigSound s) (p : Port) (e : Byte) : ConfigSound (eventClearRule p e s).1 := by
  unfold Machine.eventClearRule
  split
  · exact h.updPort p _
  · exact h

theorem portClearRule (h : ConfigSound s) (p : Port) : ConfigSound (portClearRule p s).1 := by
  unfold Machine.portClearRule
  dsimp only
  split
  · exact ((h.updPort p _).untake p).abandonSweep _ _
  · exact (h.updPort p _).untake p

/-! ## Class records (R5, R6) -/

theorem classSetRule (h : ConfigSound s) (cls incl unit : Byte) (price cap minBal : Word16) (limit : Byte)
    (life : Word16) (held : Byte) :
    ConfigSound (classSetRule cls incl unit price cap minBal limit life held s).1 := by
  unfold Machine.classSetRule
  split
  · exact h
  · next c _ =>
    obtain ⟨⟨hset, hcls, hlev⟩, hgrant⟩ := h
    refine ⟨⟨hset, fun c' => ?_, hlev⟩, hgrant⟩
    show ClassInRange ((s.classes.set c.val _ c.isLt).get c')
    rw [Vector.get_eq_getElem, Vector.getElem_set]
    split
    · exact classOfRequest_inRange incl unit price cap minBal limit life held
    · exact hcls c'

/-! ## Levels (R153, R154) -/

theorem kindSetRule (h : ConfigSound s) (kind level : Byte) : ConfigSound (kindSetRule kind level s).1 := by
  unfold Machine.kindSetRule
  split
  · exact h
  · next k _ =>
    obtain ⟨⟨hset, hcls, hlev⟩, hgrant⟩ := h
    refine ⟨⟨hset, hcls, fun k' hk' htrip => ?_⟩, hgrant⟩
    show (s.levels.set k.ix.val (storedLevel k level) k.ix.isLt).get k'.ix ≠ 0
    rw [Vector.get_eq_getElem, Vector.getElem_set]
    split
    · next hix =>
      rw [Kind.ix_injective (Fin.ext hix)]
      exact storedLevel_ne_zero htrip level
    · exact hlev k' hk' htrip

/-! ## Station settings (R186 to R188) -/

theorem withSettings (h : ConfigSound s) {x : Settings} (hx : SettingsInRange x) :
    ConfigSound { s with settings := x } := by
  obtain ⟨⟨-, hcls, hlev⟩, hgrant, -⟩ := h
  obtain ⟨-, -, -, -, hbudget, -⟩ := id hx
  exact ⟨⟨hx, hcls, hlev⟩, hgrant, hbudget⟩

theorem afterNum (h : ConfigSound s) (n : NumSetting) (old new : Nat) : ConfigSound (s.afterNum n old new) := by
  have hhold : ConfigSound s.reholdOff := by
    unfold State.reholdOff
    split <;> exact h.of_eq rfl rfl rfl rfl
  unfold State.afterNum
  split
  · exact hhold
  · exact hhold
  · split
    · exact h.issueGrants
    · exact h
  all_goals exact h

theorem setNumber (h : ConfigSound s) (name : Byte) (n : NumSetting) (value : Nat) :
    ConfigSound (s.setNumber name n value).1 := by
  unfold State.setNumber
  dsimp only
  split
  · exact h
  · exact (h.withSettings (SettingsInRange.setNum h.1.1 n value)).afterNum _ _ _

theorem setQuietEnable (h : ConfigSound s) (name : Byte) (l : Line) (q : Bool) :
    ConfigSound (s.setQuietEnable name l q).1 := by
  have hset : ConfigSound { s with settings := s.settings.setQuiet l q } :=
    h.withSettings (by cases l <;> exact h.1.1)
  unfold State.setQuietEnable
  extract_lets reply s1 s2
  have h2 : ConfigSound s2 := by
    show ConfigSound (ite _ _ _)
    split
    · exact hset.updLine l _
    · exact hset
  split
  · exact h
  · show ConfigSound (ite _ _ _)
    split
    · exact h2
    · exact h2.quietReturn l

theorem setLineRate (h : ConfigSound s) (name : Byte) (l : Line) (r : Rate) :
    ConfigSound (s.setLineRate name l r).1 := by
  have hset : ConfigSound { s with settings := s.settings.setRate l r } :=
    h.withSettings (by cases l <;> exact h.1.1)
  unfold State.setLineRate
  dsimp only
  split
  · exact h
  · dsimp only
    split
    · exact hset
    · exact hset.enterBreak l _

theorem stationSetRule (h : ConfigSound s) (setting line : Byte) (value : Word16) :
    ConfigSound (stationSetRule setting line value s).1 := by
  unfold Machine.stationSetRule
  split
  · exact h
  · exact h.setNumber _ _ _
  · split
    · exact h
    · exact h.setQuietEnable _ _ _
  · split
    · exact h
    · split
      · exact h
      · exact h.setLineRate _ _ _

end ConfigSound

/-! ## Commands -/

/-- The next state that a command answers is sound. -/
def SoundNext (o : Outcome) : Prop := ∀ t, o = .next t → ConfigSound t

theorem SoundNext.next {s : State} (h : ConfigSound s) : SoundNext (.next s) := by
  intro t e
  injection e with e
  exact e ▸ h

theorem SoundNext.event {s : State} {f : State → State} (h : ConfigSound (f s)) : SoundNext (event f s) :=
  SoundNext.next (h.pool (latchStoreLow_pool _ _))

theorem SoundNext.request {s : State} (h : ConfigSound s) {rule : State → State × Reply} (hr : ConfigSound (rule s).1)
    (p : Port) (code : Byte) (n : Nat) : SoundNext (request p code n rule s) := by
  unfold Machine.request
  split
  · exact SoundNext.next (h.updPort p _)
  · exact SoundNext.event ((hr.updPort p _).updPort p _)

theorem SoundNext.onlyN {s : State} (h : ConfigSound s) {rule : State → State × Reply} (hr : ConfigSound (rule s).1)
    (p : Port) (code : Byte) (n : Nat) : SoundNext (Machine.request p code n (onlyN p rule) s) := by
  cases p
  · exact SoundNext.request h hr .n code n
  · exact SoundNext.request h h .k code n

namespace ConfigSound

variable {s : State}

theorem afterReset (selN selK : Bool) (waiting : List Instr) : ConfigSound (afterReset selN selK waiting) := by
  have hreset : ConfigSound State.reset := ⟨State.reset_configInv, by decide⟩
  exact hreset.of_eq rfl rfl rfl rfl

theorem tick (h : ConfigSound s) : ConfigSound s.tick := by
  rw [State.tick_rest, State.ticked_rest]
  exact h.of_eq rfl rfl rfl rfl

theorem collect (h : ConfigSound s) (p : Port) (present masks : Byte) (bytes : Nat) :
    ConfigSound (s.collect p present masks bytes) := (h.updPort p _).updPort p _

theorem execCollect (h : ConfigSound s) (p : Port) (bytes : Nat) : SoundNext (execCollect p bytes s) := by
  unfold Machine.execCollect
  split
  · exact .next (h.updPort p _)
  · exact .event (h.collect p _ _ bytes)
  · exact .event (h.collect p _ _ bytes)

theorem execBadFrame (h : ConfigSound s) (p : Port) (bytes : List Byte) (tail : List Bool) :
    SoundNext (execBadFrame p bytes tail s) := by
  unfold Machine.execBadFrame
  split
  · exact .request h h p _ _
  · exact .next h

/-! The line events and the expiries: each is its operation where its condition holds, and nothing where it does
not. -/

theorem execMinuteRollover (h : ConfigSound s) : SoundNext (execMinuteRollover s) := by
  refine .event ?_
  split
  · exact h
  · exact h.tick

theorem execEmptyTransactionEnd (h : ConfigSound s) (p : Port) : SoundNext (execEmptyTransactionEnd p s) := by
  refine .event ?_
  split
  · exact h
  · exact h.updPort p _

theorem execTurnStart (h : ConfigSound s) (l : Line) : SoundNext (execTurnStart l s) := by
  refine .event ?_
  dsimp only
  split
  · split
    · exact h.startTurn l _
    · exact h
  · exact h

theorem execStatusReply (h : ConfigSound s) (l : Line) (r : StatusReply) : SoundNext (execStatusReply l r s) := by
  refine .event ?_
  split
  · split
    · exact h.endStatus l _ r
    · exact h
  · exact h

theorem execBusyReply (h : ConfigSound s) (l : Line) : SoundNext (execBusyReply l s) := by
  refine .event ?_
  split
  · split
    · exact h.endBusy l _
    · exact h
  · exact h

theorem execBadReply (h : ConfigSound s) (l : Line) (marked : Byte) (rest : List Byte) :
    SoundNext (execBadReply l marked rest s) := by
  refine .event ?_
  split
  · split
    · exact h.endFailed l _ true
    · exact h
  · exact h

theorem execReplyGapTimeout (h : ConfigSound s) (l : Line) : SoundNext (execReplyGapTimeout l s) := by
  refine .event ?_
  split
  · exact h.endFailed l _ true
  · exact h

theorem execReplyWindowExpiry (h : ConfigSound s) (l : Line) : SoundNext (execReplyWindowExpiry l s) := by
  refine .event ?_
  split
  · split
    · exact h.endFailed l _ _
    · exact h
  · exact h

theorem execErrorPeriodBoundary (h : ConfigSound s) (l : Line) : SoundNext (execErrorPeriodBoundary l s) := by
  refine .event ?_
  split
  · split
    · exact h.updLine l _
    · exact h
  · exact h

theorem execQuietIntervalExpiry (h : ConfigSound s) (l : Line) : SoundNext (execQuietIntervalExpiry l s) := by
  refine .event ?_
  dsimp only
  split
  · split
    · split
      · exact h.updLine l _
      · exact (h.updLine l _).startRound l
    · exact h
  · exact h

theorem execWake (h : ConfigSound s) (l : Line) : SoundNext (execWake l s) := by
  refine .event ?_
  split
  · exact h.quietReturn l
  · split
    · exact h.endFailed l _ true
    · exact h

theorem execQueueWaitExpiry (h : ConfigSound s) (n : RideNo) : SoundNext (execQueueWaitExpiry n s) := by
  refine .event ?_
  split
  · split
    · exact h.cancelRide _ _
    · exact h
  · exact h

theorem execTakeUpWindowExpiry (h : ConfigSound s) (n : RideNo) : SoundNext (execTakeUpWindowExpiry n s) := by
  refine .event ?_
  split
  · split
    · exact h.relatchRide _
    · exact h
  · exact h

theorem execAdmissionDecision (h : ConfigSound s) : SoundNext (execAdmissionDecision s) := by
  refine .event ?_
  split
  · exact h
  · refine decideOn ?_ _
    exact h.of_eq rfl rfl rfl rfl

theorem of_ite {c : Prop} [Decidable c] {x y : State} (hx : ConfigSound x) (hy : ConfigSound y) :
    ConfigSound (if c then x else y) := by
  split
  · exact hx
  · exact hy

end ConfigSound

/-- Every command keeps settings, classes and levels in range and at most 8 grants held. -/
theorem exec_configSound {s : State} (h : ConfigSound s) (i : Instr) : SoundNext (exec i s) := by
  cases i with
  | powerOnOrPinReset selN selK => exact .next (.afterReset selN selK s.pending)
  | secondTick => exact .event h.tick
  | minuteRollover => exact h.execMinuteRollover
  | clockSet p minute second => exact .onlyN h (rule := clockSetRule minute second) (h.of_eq rfl rfl rfl rfl) p _ _
  | classSet p cls incl unit price cap minBal limit life held =>
    exact .onlyN h (h.classSetRule cls incl unit price cap minBal limit life held) p _ _
  | credLoad p cred state cls secret counter balance overdraft keep =>
    exact .onlyN h (h.credLoadRule cred state cls secret counter balance overdraft keep) p _ _
  | credState p cred state => exact .onlyN h (h.credStateRule cred state) p _ _
  | credBalance p cred mode amount => exact .onlyN h (h.credBalanceRule cred mode amount) p _ _
  | credRemove p cred => exact .onlyN h (h.credRemoveRule cred) p _ _
  | readCred p cred => exact .request h (h.readCredRule cred) p _ _
  | sweepOpen p number => exact .onlyN h (h.sweepOpenRule number) p _ _
  | sweepClose p number => exact .onlyN h (h.sweepCloseRule number) p _ _
  | sweepIdleExpiry => exact .event (.of_ite (h.abandonSweep _ _) h)
  | stationSet p setting line value => exact .onlyN h (h.stationSetRule setting line value) p _ _
  | kindSet p kind level => exact .onlyN h (h.kindSetRule kind level) p _ _
  | dockFit p line addrs => exact .request h (h.dockFitRule p line addrs) p _ _
  | rideClose p tag endMinute => exact .onlyN h (h.rideCloseRule tag endMinute) p _ _
  | lineRestart p line => exact .onlyN h (h.lineRestartRule line) p _ _
  | tokenPresent p token preferred =>
    cases p
    · exact .request h h .n _ _
    · exact .request h (h.tokenPresentRule token preferred) .k _ _
  | dockHold p dock => exact .request h (h.dockHoldRule p dock) p _ _
  | dockFree p dock => exact .request h (h.dockFreeRule dock) p _ _
  | readDock p dock => exact .request h (h.readDockRule dock) p _ _
  | rideCancel p ride => exact .request h (h.rideCancelRule ride) p _ _
  | readRide p selector value => exact .request h (h.readRideRule selector value) p _ _
  | take p => exact .request h (h.takeRule p) p _ _
  | giveBack p slot => exact .request h (h.giveBackRule p slot) p _ _
  | readStation p => exact .request h (rule := readStationRule p) h p _ _
  | maskSet p events => exact .request h (h.maskSetRule p events) p _ _
  | maskClear p events => exact .request h (h.maskClearRule p events) p _ _
  | eventClear p events => exact .request h (h.eventClearRule p events) p _ _
  | portClear p => exact .request h (h.portClearRule p) p _ _
  | collect p bytes => exact h.execCollect p bytes
  | badFrame p bytes tail => exact h.execBadFrame p bytes tail
  | admissionDecision => exact h.execAdmissionDecision
  | queueWaitExpiry ride => exact h.execQueueWaitExpiry ride
  | takeUpWindowExpiry ride => exact h.execTakeUpWindowExpiry ride
  | turnStart l => exact h.execTurnStart l
  | commandDelivered l => exact .event (.of_ite (h.updLine l _) h)
  | statusReply l r => exact h.execStatusReply l r
  | busyReply l => exact h.execBusyReply l
  | badReply l marked rest => exact h.execBadReply l marked rest
  | replyGapTimeout l => exact h.execReplyGapTimeout l
  | replyWindowExpiry l => exact h.execReplyWindowExpiry l
  | errorPeriodBoundary l => exact h.execErrorPeriodBoundary l
  | breakTimeEnd l => exact .event (.of_ite (h.updLine l _) h)
  | recoveryEnd l => exact .event (.of_ite (h.recover l) h)
  | quietEntry l => exact .event (.of_ite ((h.updLine l _).latch _ _) h)
  | quietIntervalExpiry l => exact h.execQuietIntervalExpiry l
  | wake l => exact h.execWake l
  | replyStart l marked => exact .event (.of_ite (h.updLine l _) h)
  | transactionStart p => exact .event (.of_ite (h.updPort p _) h)
  | emptyTransactionEnd p => exact h.execEmptyTransactionEnd p

end Sys2Proof.Machine

namespace Sys2Proof.Proofs

open Sys2Proof.Machine

/-- Settles O51: one invariant over every operation, and a step is a command on the rest of the queue or idles. -/
theorem configKept : Obligations.ConfigKept := by
  intro s t hconfig hgrants hstep
  have h : ConfigSound s := ⟨hconfig, hgrants⟩
  unfold step at hstep
  split at hstep
  · injection hstep with hstep
    exact hstep ▸ h
  · next c rest _ => exact exec_configSound (h.of_eq (t := { s with pending := rest }) rfl rfl rfl rfl) c t hstep

end Sys2Proof.Proofs
end

section
/-! PROOFS. Last accepted counters through an admission decision (R10, R50, R56). -/

namespace Sys2Proof.Machine

/-- Every entry that is left has the last accepted counter it had. -/
def CountersKept (s t : State) : Prop :=
  ∀ (c : CredNo) (e' : Cred), t.findCred c = some e' → ∃ e, s.findCred c = some e ∧ e'.counter = e.counter

namespace CountersKept

theorem of_creds {s t : State} (h : t.creds = s.creds) : CountersKept s t := by
  intro c e' he
  unfold State.findCred at he
  rw [h] at he
  exact ⟨e', he, rfl⟩

theorem trans {s t u : State} (h : CountersKept s t) (k : CountersKept t u) : CountersKept s u := by
  intro c e'' hc
  obtain ⟨e', he', hcount⟩ := k c e'' hc
  obtain ⟨e, he, hcount'⟩ := h c e' he'
  exact ⟨e, he, hcount.trans hcount'⟩

theorem updCred (s : State) (c : CredNo) {f : Cred → Cred} (hn : ∀ e, (f e).number = e.number)
    (hf : ∀ e, (f e).counter = e.counter) : CountersKept s (s.updCred c f) := by
  intro c' e' he
  rw [State.findCred_updCred s c c' hn, Option.map_eq_some_iff] at he
  obtain ⟨e, hfind, rfl⟩ := he
  refine ⟨e, hfind, ?_⟩
  split
  · exact hf e
  · rfl

theorem endRideOf (s : State) (c : CredNo) : CountersKept s (s.endRideOf c) := by
  intro c' e' he
  rw [State.findCred_endRideOf] at he
  split at he
  · next hc =>
    obtain ⟨e, hfind, hend⟩ := Option.bind_eq_some_iff.mp he
    unfold cancelledEntry at hend
    split at hend
    · cases hend
    · injection hend with hend
      exact ⟨e, hc ▸ hfind, hend ▸ rfl⟩
  · exact ⟨e', he, rfl⟩

theorem ageOut (s : State) : CountersKept s s.ageOut := by
  unfold State.ageOut
  split
  · exact of_creds rfl
  · next r _ => exact (endRideOf s r.cred).trans (of_creds rfl)

end CountersKept

/-! ## A decision but for the counter it spends -/

theorem State.mismatchRecords_creds (s : State) (x : Presentation) (d : DockIx) (b : Body) :
    (s.mismatchRecords x d b).creds = s.creds := by
  have hburst : ∀ u : State, (u.burstNotice d x.token.cred).creds = u.creds := by
    intro u
    unfold State.burstNotice
    split
    · exact (u.notice_pool _ _).creds
    · rfl
  have hcount : (s.countMismatch d).creds = s.creds := rfl
  unfold State.mismatchRecords
  dsimp only
  split
  · exact (s.postK_pool b).creds
  · split
    · rw [(State.postK_pool _ _).creds, hburst, hcount]
    · rw [hburst, (State.postK_pool _ _).creds, hcount]

theorem State.showRefuse_creds (s : State) (o : Origin) : (s.showRefuse o).creds = s.creds := by
  unfold State.showRefuse
  split
  · rfl
  · split
    · rfl
    · rfl
    · rfl
    · rfl
    · exact (s.setPending_frame _ _).creds

theorem State.showAdmitted_creds (s : State) (o : Origin) : (s.showAdmitted o).creds = s.creds := by
  unfold State.showAdmitted
  split
  · rfl
  · exact (s.setPending_frame _ _).creds

/-- A refused decision changes no entry (R59, R60). -/
theorem State.refuse_creds (s : State) (x : Presentation) (r : Reason) : (s.refuse x r).creds = s.creds := by
  unfold State.refuse
  dsimp only
  rw [State.showRefuse_creds]
  split
  · exact s.mismatchRecords_creds _ _ _
  · exact (s.postK_pool _).creds

/-- An admission counts one ride more and changes no counter beyond that of its own check (R56). -/
theorem CountersKept.admitRide (s : State) (x : Presentation) (e : Cred) (d : DockIx) :
    CountersKept s (s.admitRide x e d) := by
  have hroom : CountersKept s (if Config.rideCapacity ≤ s.rides.length then s.ageOut else s) := by
    split
    · exact CountersKept.ageOut s
    · exact CountersKept.of_creds rfl
  unfold State.admitRide
  extract_lets s1
  split
  · exact hroom
  · next slot rest _ =>
    extract_lets s2 s3 s4 s5 s6
    have h3 : CountersKept s1 s3 :=
      (CountersKept.of_creds (t := s2.putRide (newRide s1 x e d _ slot)) rfl).trans
        (CountersKept.updCred _ _ (fun _ => rfl) (fun _ => rfl))
    have h5 : s5.creds = s3.creds := (State.issueGrants_frame _).creds
    have h6 : s6.creds = s5.creds := (State.postK_pool _ _).creds
    refine (hroom.trans h3).trans (CountersKept.of_creds ?_)
    rw [State.showAdmitted_creds, h6, h5]

/-- A decision leaves every counter, but that a token which passes checks 1 to 5 becomes its entry's last accepted one
(R50). -/
theorem State.decideOn_counters (s : State) (x : Presentation) :
    CountersKept s (s.decideOn x) ∨
    (∃ e, tokenChecks s x.token = .ok e) ∧ CountersKept (s.spend x.token) (s.decideOn x) := by
  unfold State.decideOn
  split
  · exact .inl (CountersKept.of_creds (s.refuse_creds _ _))
  · next e hchecks =>
    refine .inr ⟨⟨e, hchecks⟩, ?_⟩
    split
    · exact CountersKept.of_creds (State.refuse_creds _ _ _)
    · exact CountersKept.admitRide _ _ _ _

/-- A spent counter lies in the window of its entry; the counters of other entries stand (R10, R50). -/
theorem State.spend_counter {s : State} {x : Token} {a : Cred} (hchecks : tokenChecks s x = .ok a) {c : CredNo}
    {e e' : Cred} (he : s.findCred c = some e) (he' : (s.spend x).findCred c = some e') :
    e'.counter = e.counter ∨
      1 ≤ (e'.counter - e.counter).toNat ∧ (e'.counter - e.counter).toNat ≤ s.settings.lookAhead := by
  obtain ⟨-, hfind, -, -, hwindow, -⟩ := tokenChecks_ok hchecks
  unfold State.spend at he'
  rw [State.findCred_updCred s x.cred c (f := fun y => { y with counter := x.counter }) (fun _ => rfl), he] at he'
  have he' : (if c = x.cred then { e with counter := x.counter } else e) = e' := Option.some.inj he'
  by_cases hc : c = x.cred
  · rw [if_pos hc] at he'
    rw [hc, hfind] at he
    injection he with he
    rw [← he', ← he]
    exact .inr (counterTest_none hwindow)
  · rw [if_neg hc] at he'
    exact .inl (he' ▸ rfl)

end Sys2Proof.Machine

namespace Sys2Proof.Proofs

open Sys2Proof.Machine

/-- Settles O23: a decision changes no counter but by spending it, and a counter is spent only within its window. -/
theorem counterMovesForward : Obligations.CounterMovesForward := by
  intro s t c e e' hexec he he'
  have hevent : t.creds = (match s.queue with
      | [] => s
      | x :: _ => s.dequeue.decideOn x).creds := by
    injection hexec with hexec
    rw [← hexec]
    exact (latchStoreLow_pool _ _).creds
  obtain ⟨a, ha, hcount⟩ := CountersKept.of_creds hevent c e' he'
  rw [hcount]
  split at ha
  · rw [he] at ha
    injection ha with ha
    exact .inl (ha ▸ rfl)
  · next x _ _ =>
    have hfind : s.dequeue.findCred c = some e := he
    rcases State.decideOn_counters s.dequeue x with hkept | ⟨⟨b, hchecks⟩, hkept⟩
    · obtain ⟨e0, he0, h0⟩ := hkept c a ha
      rw [hfind] at he0
      injection he0 with he0
      exact .inl (he0 ▸ h0)
    · obtain ⟨e1, he1, h1⟩ := hkept c a ha
      rw [h1]
      exact State.spend_counter hchecks hfind he1

end Sys2Proof.Proofs
end

section
/-! PROOFS. Where grants go, exactly: the procedure of R108, the return of a grant (R110) and a pending command (R109). -/

namespace Sys2Proof.Machine

/-! ## The procedure of R108 -/

/-- The docks that the procedure grants: those of the oldest waiting entries on running lines, while the budget has
room. -/
def State.granting (s : State) : List DockIx :=
  (s.waiting.filter s.lineRuns).take (s.settings.budget - s.grants.length)

/-- What the procedure does with the docks it walks. -/
structure Granted (s t : State) (gs : List DockIx) : Prop where
  grants : t.grants = s.grants ++ gs
  queue  : t.releaseQ = s.releaseQ.map (fun e => { e with granted := e.granted || decide (e.dock ∈ gs) })
  docks  : ∀ j : DockIx, t.dock j = { s.dock j with
    pending := if j ∈ gs ∧ (s.dock j).pending = .none then .openCmd else (s.dock j).pending }

theorem Granted.refl (s : State) : Granted s s [] := ⟨by simp, by simp, by simp⟩

theorem State.grant_granted (s : State) (d : DockIx) : Granted s (s.grant d) [d] := by
  refine ⟨s.grant_grants d, ?_, fun j => ?_⟩
  · rw [State.grant_releaseQ]
    refine List.map_congr_left (fun e _ => ?_)
    by_cases h : e.dock = d <;> simp [h]
  · rw [State.grant_dock]
    by_cases h : j = d <;> by_cases hp : (s.dock d).pending = .none <;> simp [h, hp]

theorem Granted.trans {s t u : State} {gs hs : List DockIx} (h : Granted s t gs) (k : Granted t u hs) :
    Granted s u (gs ++ hs) := by
  refine ⟨?_, ?_, fun j => ?_⟩
  · rw [k.grants, h.grants, List.append_assoc]
  · rw [k.queue, h.queue, List.map_map]
    refine List.map_congr_left (fun e _ => ?_)
    simp [Bool.or_assoc]
  · rw [k.docks, h.docks]
    by_cases hg : j ∈ gs <;> by_cases hp : (s.dock j).pending = .none <;> simp [hg, hp]

theorem foldl_grantStep_granted (ds : List DockIx) (s : State) :
    Granted s (ds.foldl State.grantStep s) ((ds.filter s.lineRuns).take (s.settings.budget - s.grants.length)) := by
  induction ds generalizing s with
  | nil =>
    rw [List.foldl_nil, List.filter_nil, List.take_nil]
    exact Granted.refl s
  | cons d ds ih =>
    rw [List.foldl_cons]
    have hframe := s.grantStep_frame d
    have hruns : (s.grantStep d).lineRuns = s.lineRuns := funext hframe.lineRuns
    have hset : (s.grantStep d).settings = s.settings := hframe.station.1.2.2.2.2.2.2.2.1
    have hrest := ih (s.grantStep d)
    rw [hruns, hset] at hrest
    by_cases hc : s.grants.length < s.settings.budget ∧ s.lineRuns d = true
    · have hstep : s.grantStep d = s.grant d := if_pos hc
      rw [hstep] at hrest ⊢
      have hlen : s.settings.budget - s.grants.length = s.settings.budget - (s.grant d).grants.length + 1 := by
        rw [State.grant_grants, List.length_append, List.length_singleton]
        omega
      rw [List.filter_cons_of_pos hc.2, hlen, List.take_succ_cons]
      exact (s.grant_granted d).trans hrest
    · have hstep : s.grantStep d = s := if_neg hc
      rw [hstep] at hrest ⊢
      by_cases hr : s.lineRuns d = true
      · have hfull : s.settings.budget - s.grants.length = 0 := by
          have : ¬ s.grants.length < s.settings.budget := fun a => hc ⟨a, hr⟩
          omega
        rw [hfull, List.take_zero] at hrest ⊢
        exact hrest
      · rw [List.filter_cons_of_neg hr]
        exact hrest

theorem State.issueGrants_granted (s : State) : Granted s s.issueGrants s.granting := foldl_grantStep_granted _ s

/-- With no grant left unissued the procedure grants nobody. -/
theorem GrantsIssued.granting {s : State} (h : GrantsIssued s) : s.granting = [] := by
  unfold State.granting
  rcases h with hfull | hidle
  · rw [Nat.sub_eq_zero_of_le hfull, List.take_zero]
  · have hnone : s.waiting.filter s.lineRuns = [] := by
      refine List.filter_eq_nil_iff.mpr (fun d hd => ?_)
      obtain ⟨e, he, hg, rfl⟩ := State.mem_waiting.mp hd
      rw [hidle e he hg]
      exact Bool.false_ne_true
    rw [hnone, List.take_nil]

/-- With no grant left unissued the procedure changes nothing. -/
theorem GrantsIssued.issueGrants {s : State} (h : GrantsIssued s) : s.issueGrants = s := by
  have hstep : ∀ d ∈ s.waiting, s.grantStep d = s := by
    intro d hd
    refine if_neg (fun a => ?_)
    rcases h with hfull | hidle
    · omega
    · obtain ⟨e, he, hg, rfl⟩ := State.mem_waiting.mp hd
      rw [hidle e he hg] at a
      exact Bool.false_ne_true a.2
  show s.waiting.foldl State.grantStep s = s
  generalize s.waiting = ds at hstep
  induction ds with
  | nil => rfl
  | cons d ds ih =>
    rw [List.foldl_cons, hstep d List.mem_cons_self]
    exact ih (fun x hx => hstep x (List.mem_cons_of_mem _ hx))

/-- Queue, grants, budget and running lines decide whether a grant is left unissued. -/
theorem GrantsIssued.congr {s t : State} (h : GrantsIssued s) (hset : t.settings = s.settings)
    (hg : t.grants = s.grants) (hq : t.releaseQ = s.releaseQ) (hr : ∀ d, t.lineRuns d = s.lineRuns d) :
    GrantsIssued t := by
  unfold GrantsIssued at h ⊢
  rw [hset, hg, hq]
  simp only [hr]
  exact h

/-! ## A pending command where no grant is left unissued (R109, R137) -/

theorem GrantsIssued.markPending {s : State} (h : GrantsIssued s) (d : DockIx) (c : Pending) :
    GrantsIssued (s.markPending d c) :=
  h.congr (s.markPending_frame d c).station.1.2.2.2.2.2.2.2.1 (s.markPending_grants d c) (s.markPending_releaseQ d c)
    (s.markPending_frame d c).lineRuns

/-- The run of the procedure that a return from QUIET causes finds nothing to grant. -/
theorem GrantsIssued.setPending {s : State} (h : GrantsIssued s) (d : DockIx) (c : Pending) :
    s.setPending d c = s.markPending d c := by
  unfold State.setPending
  dsimp only
  split
  · exact (h.markPending d c).issueGrants
  · rfl

/-- A dock put into RELATCHING leaves queue, grants and the other docks alone. -/
theorem GrantsIssued.relatchDock {s : State} (h : GrantsIssued s) (d : DockIx) :
    (s.relatchDock d).releaseQ = s.releaseQ ∧ (s.relatchDock d).grants = s.grants ∧
    ∀ j, j ≠ d → (s.relatchDock d).dock j = s.dock j := by
  have hupd : GrantsIssued (s.updDock d (fun x => { x with state := .relatching, relatch := 0 })) :=
    h.congr rfl rfl rfl (fun _ => rfl)
  have heq : s.relatchDock d = (s.updDock d (fun x => { x with state := .relatching, relatch := 0 })).markPending d
      .closeCmd := hupd.setPending d .closeCmd
  rw [heq]
  refine ⟨State.markPending_releaseQ _ _ _, State.markPending_grants _ _ _, fun j hj => ?_⟩
  rw [State.markPending_dock, if_neg hj, State.dock_updDock, if_neg hj]

/-! ## The return of a grant (R110) -/

/-- The new grants depend on queue, grants, budget and running lines alone. -/
theorem newGrants_congr {s t : State} (hset : t.settings = s.settings) (hg : t.grants = s.grants)
    (hq : t.releaseQ = s.releaseQ) (hr : ∀ d, t.lineRuns d = s.lineRuns d) (gone : List DockIx) :
    newGrants t gone = newGrants s gone := by
  unfold newGrants
  rw [hset, hg, hq]
  simp only [hr]

/-- For a dock that is out of the release queue, the new grants are what the procedure gives once its grant is back. -/
theorem newGrants_eq_granting {s : State} {d : DockIx} (hq : ∀ e ∈ s.releaseQ, e.dock ≠ d) :
    newGrants s [d] = State.granting { s with grants := s.grants.filter (fun x => decide (x ≠ d)) } := by
  have hwait : s.releaseQ.filter (fun e => decide (e.dock ∉ [d] ∧ e.granted = false)) =
      s.releaseQ.filter (fun e => !e.granted) := by
    refine List.filter_congr (fun e he => ?_)
    simp [hq e he]
  have hgrants : s.grants.filter (fun x => decide (x ∉ [d])) = s.grants.filter (fun x => decide (x ≠ d)) := by
    simp only [List.mem_singleton, ne_eq]
  unfold newGrants
  rw [hwait, hgrants]
  rfl

/-- The return of a dock's grant, where the dock is out of the release queue and no grant was left unissued: the grant
goes to the new grants, and again none is left unissued. -/
theorem State.returnGrant_granted {s : State} {d : DockIx} (hq : ∀ e ∈ s.releaseQ, e.dock ≠ d) (h : GrantsIssued s) :
    Granted { s with grants := s.grants.filter (fun x => decide (x ≠ d)) } (s.returnGrant d) (newGrants s [d]) ∧
    GrantsIssued (s.returnGrant d) := by
  unfold State.returnGrant
  rw [newGrants_eq_granting hq]
  split
  · exact ⟨State.issueGrants_granted _, State.issueGrants_issued _⟩
  · next hd =>
    have hsame : s.grants.filter (fun x => decide (x ≠ d)) = s.grants := by
      refine List.filter_eq_self.mpr (fun x hx => ?_)
      have hne : x ≠ d := by
        rintro rfl
        exact hd (List.contains_iff_mem.mpr hx)
      simpa using hne
    rw [hsame, h.granting]
    exact ⟨Granted.refl s, h⟩

/-- A dock out of the release queue returns its grant and is put into RELATCHING: queue, grants and the other docks
(R71, R81, R108 to R110). -/
theorem State.returnRelatch_moved {s : State} {d : DockIx} (hq : ∀ e ∈ s.releaseQ, e.dock ≠ d) (h : GrantsIssued s) :
    QueueMoved s ((s.returnGrant d).relatchDock d) [d] ∧ DocksMoved s ((s.returnGrant d).relatchDock d) [d] [d] := by
  obtain ⟨hgranted, hissued⟩ := State.returnGrant_granted hq h
  obtain ⟨hqueue, hgrants, hdocks⟩ := hissued.relatchDock d
  have hstay : s.releaseQ.filter (fun e => decide (e.dock ∉ [d])) = s.releaseQ := by
    refine List.filter_eq_self.mpr (fun e he => ?_)
    simpa using hq e he
  refine ⟨⟨?_, ?_⟩, fun j hj => ?_⟩
  · rw [hqueue, hgranted.queue, hstay]
  · rw [hgrants, hgranted.grants]
    simp only [List.mem_singleton, ne_eq]
  · rw [hdocks j (by simpa using hj), hgranted.docks]
    rfl

/-! ## Docks that keep their records but for OPEN -/

theorem DocksKept.refl (s : State) (but : List DockIx) : DocksKept s s but := fun _ _ => ⟨rfl, .inl rfl⟩

theorem DocksKept.of_docks {s t : State} (h : ∀ d, t.dock d = s.dock d) (but : List DockIx) : DocksKept s t but := by
  intro d _
  rw [h d]
  exact ⟨rfl, .inl rfl⟩

theorem DocksKept.trans {s t u : State} {but : List DockIx} (h : DocksKept s t but) (k : DocksKept t u but) :
    DocksKept s u but := by
  intro d hd
  obtain ⟨hdock, hpend⟩ := h d hd
  obtain ⟨kdock, kpend⟩ := k d hd
  refine ⟨by rw [kdock, hdock], ?_⟩
  rcases kpend with e | ⟨hnone, hopen⟩
  · rw [e]; exact hpend
  · rcases hpend with e | ⟨-, hopen'⟩
    · exact .inr ⟨e ▸ hnone, hopen⟩
    · rw [hopen'] at hnone; cases hnone

theorem DocksKept.mono {s t : State} {but but' : List DockIx} (h : DocksKept s t but) (hsub : but ⊆ but') :
    DocksKept s t but' := fun d hd => h d (fun a => hd (hsub a))

theorem Granted.docksKept {s t : State} {gs : List DockIx} (h : Granted s t gs) (but : List DockIx) :
    DocksKept s t but := by
  intro d _
  rw [h.docks d]
  by_cases hc : d ∈ gs ∧ (s.dock d).pending = .none
  · exact ⟨rfl, .inr ⟨hc.2, if_pos hc⟩⟩
  · exact ⟨rfl, .inl (if_neg hc)⟩

theorem State.updDock_docksKept (s : State) (d : DockIx) (f : Dock → Dock) : DocksKept s (s.updDock d f) [d] := by
  intro j hj
  rw [State.dock_updDock, if_neg (by simpa using hj)]
  exact ⟨rfl, .inl rfl⟩

theorem State.returnGrant_docksKept (s : State) (d : DockIx) (but : List DockIx) : DocksKept s (s.returnGrant d) but := by
  unfold State.returnGrant
  split
  · exact (DocksKept.of_docks (fun _ => rfl) but).trans ((State.issueGrants_granted _).docksKept but)
  · exact DocksKept.refl s but

theorem State.markPending_docksKept (s : State) (d : DockIx) (c : Pending) : DocksKept s (s.markPending d c) [d] := by
  intro j hj
  rw [State.markPending_dock, if_neg (by simpa using hj)]
  exact ⟨rfl, .inl rfl⟩

theorem State.setPending_docksKept (s : State) (d : DockIx) (c : Pending) : DocksKept s (s.setPending d c) [d] := by
  unfold State.setPending
  dsimp only
  split
  · exact (s.markPending_docksKept d c).trans ((State.issueGrants_granted _).docksKept [d])
  · exact s.markPending_docksKept d c

theorem State.relatchDock_docksKept (s : State) (d : DockIx) : DocksKept s (s.relatchDock d) [d] :=
  (s.updDock_docksKept d _).trans (State.setPending_docksKept _ d _)

end Sys2Proof.Machine
end

section
/-! PROOFS. Lines through the grant procedure and through a pending command: they stand, but for a return from QUIET
(R109, R119, R137). -/

namespace Sys2Proof.Machine

/-! ## Where a round starts (R119) -/

/-- The search for the next fitted address finds the lowest one (R119). -/
theorem State.nextFitted_lowestFrom (s : State) (l : Line) (k : Nat) : LowestFrom s l k (s.nextFitted l k) := by
  cases hfind : s.nextFitted l k with
  | none =>
    intro a hk
    have hno := List.find?_eq_none.mp hfind a (List.mem_finRange a)
    simpa [hk] using hno
  | some a =>
    obtain ⟨hpa, i, hi, hget, hbelow⟩ := List.find?_eq_some_iff_getElem.mp hfind
    rw [Bool.and_eq_true, decide_eq_true_eq] at hpa
    refine ⟨hpa.1, hpa.2, fun b hk hlt => ?_⟩
    have hia : i = a.val := by
      rw [List.getElem_finRange] at hget
      exact congrArg Fin.val hget
    have hno := hbelow b.val (by omega)
    rw [List.getElem_finRange] at hno
    simpa [hk] using hno

/-- The lowest fitted address depends on the fitted docks alone. -/
theorem LowestFrom.congr {s t : State} {l : Line} {k : Nat} {x : Option Addr} (h : LowestFrom t l k x)
    (hf : ∀ d, t.fitted d = s.fitted d) : LowestFrom s l k x := by
  unfold LowestFrom at h ⊢
  simpa only [hf] using h

theorem State.nextFitted_congr {s t : State} (hf : ∀ d, t.fitted d = s.fitted d) (l : Line) (k : Nat) :
    t.nextFitted l k = s.nextFitted l k := by
  unfold State.nextFitted
  simp only [hf]

theorem State.fitted_of_dock {s t : State} {d : DockIx} (h : (t.dock d).state = (s.dock d).state) :
    t.fitted d = s.fitted d := by
  unfold State.fitted
  rw [h]

/-- A line frame keeps which docks are fitted. -/
theorem LineFrame.fitted {s t : State} (h : LineFrame s t) (d : DockIx) : t.fitted d = s.fitted d :=
  State.fitted_of_dock (by rw [h.dock d])

/-! ## Latched events -/

/-- An event set that holds the event keeps it when more events join. -/
theorem byte_or_keeps {x y e : Byte} (h : x &&& e = e) : (x ||| y) &&& e = e := by
  refine BitVec.eq_of_getLsbD_eq fun i hi => ?_
  have hbit := congrArg (fun z => z.getLsbD i) h
  simp only [BitVec.getLsbD_and, BitVec.getLsbD_or] at hbit ⊢
  cases he : e.getLsbD i <;> simp_all

theorem State.latch_latched {s : State} {e : Byte} (h : s.portN.latched &&& e = e) (p : Port) (x : Byte) :
    (s.latch p x).portN.latched &&& e = e := by
  cases p
  · exact byte_or_keeps h
  · exact h

theorem State.latch_latched_self (s : State) (e : Byte) : (s.latch .n e).portN.latched &&& e = e := by
  show (s.portN.latched ||| e) &&& e = e
  rw [BitVec.or_comm]
  exact byte_or_keeps (BitVec.and_self)

/-! ## The return from QUIET (R137) -/

theorem State.leaveQuiet_line (s : State) (l : Line) :
    (s.leaveQuiet l).line l = lineReturned (s.line l) (s.nextFitted l 0) := by
  unfold State.leaveQuiet lineReturned
  dsimp only
  by_cases hround : (s.line l).roundOn = true
  · rw [if_pos hround]
    simp [hround]
  · rw [if_neg hround, State.startRound, State.line_updLine, if_pos rfl]
    rw [State.nextFitted_congr (s := s) (fun d => State.fitted_of_dock (by simp))]
    simp [hround]

theorem State.leaveQuiet_line_ne (s : State) {l m : Line} (h : m ≠ l) : (s.leaveQuiet l).line m = s.line m := by
  unfold State.leaveQuiet
  dsimp only
  split <;> simp [State.startRound, h]

theorem State.leaveQuiet_latched (s : State) (l : Line) : (s.leaveQuiet l).portN.latched &&& evLine = evLine := by
  unfold State.leaveQuiet
  dsimp only
  split
  · exact State.latch_latched_self _ _
  · simp only [State.startRound, State.updLine_portN]
    exact State.latch_latched_self _ _

theorem State.leaveQuiet_returned (s : State) (l : Line) : Returned s (s.leaveQuiet l) l (s.line l) :=
  ⟨s.nextFitted l 0, s.nextFitted_lowestFrom l 0, s.leaveQuiet_line l, s.leaveQuiet_latched l⟩

/-! ## What follows the pending commands -/

/-- The lines follow the pending commands of their docks: a line that is not QUIET stands; a QUIET one stands with every
pending command of its docks, or has returned to RUNNING with some command pending. No pending command goes. -/
structure LineTrace (s t : State) : Prop where
  fitted  : ∀ d : DockIx, t.fitted d = s.fitted d
  filled  : ∀ d : DockIx, (t.dock d).pending = (s.dock d).pending ∨ (t.dock d).pending ≠ .none
  stands  : ∀ l : Line, (s.line l).state ≠ .quiet → t.line l = s.line l
  quiet   : ∀ l : Line, (s.line l).state = .quiet →
    (t.line l = s.line l ∧ ∀ a : Addr, (t.dock (dockIx l a)).pending = (s.dock (dockIx l a)).pending) ∨
    (Returned s t l (s.line l) ∧ ∃ a : Addr, (t.dock (dockIx l a)).pending ≠ .none)
  latched : s.portN.latched &&& evLine = evLine → t.portN.latched &&& evLine = evLine

/-- A change that keeps lines, fitted docks, pending commands and the latched events of Port N. -/
theorem LineTrace.of_same {s t : State} (hline : ∀ l, t.line l = s.line l) (hfit : ∀ d, t.fitted d = s.fitted d)
    (hpend : ∀ d, (t.dock d).pending = (s.dock d).pending) (hport : t.portN = s.portN) : LineTrace s t where
  fitted := hfit
  filled d := .inl (hpend d)
  stands l _ := hline l
  quiet l _ := .inl ⟨hline l, fun _ => hpend _⟩
  latched h := hport ▸ h

theorem LineTrace.refl (s : State) : LineTrace s s := .of_same (fun _ => rfl) (fun _ => rfl) (fun _ => rfl) rfl

theorem LineTrace.trans {s t u : State} (h : LineTrace s t) (k : LineTrace t u) : LineTrace s u where
  fitted d := (k.fitted d).trans (h.fitted d)
  filled d := by
    rcases k.filled d with e | e
    · rw [e]; exact h.filled d
    · exact .inr e
  stands l hl := by
    have e := h.stands l hl
    exact (k.stands l (by rwa [e])).trans e
  quiet l hl := by
    rcases h.quiet l hl with ⟨hline, hpend⟩ | ⟨⟨first, hlow, hline, hlatch⟩, a, ha⟩
    · rcases k.quiet l (by rwa [hline]) with ⟨kline, kpend⟩ | ⟨⟨first, klow, kline, klatch⟩, hsome⟩
      · exact .inl ⟨kline.trans hline, fun a => (kpend a).trans (hpend a)⟩
      · exact .inr ⟨⟨first, klow.congr h.fitted, by rw [kline, hline], klatch⟩, hsome⟩
    · have hrun : (t.line l).state ≠ .quiet := by rw [hline]; exact LineState.noConfusion
      refine .inr ⟨⟨first, hlow, (k.stands l hrun).trans hline, k.latched hlatch⟩, a, ?_⟩
      rcases k.filled (dockIx l a) with e | e
      · rwa [e]
      · exact e
  latched hl := k.latched (h.latched hl)

/-- What the trace says of a line is what the statements ask of it. -/
theorem LineTrace.linesFollow {s t : State} (h : LineTrace s t) : LinesFollow s t := by
  intro l _
  refine ⟨h.stands l, fun hq => ?_, fun hq hnone => ?_⟩
  · rintro ⟨a, -, hne⟩
    rcases h.quiet l hq with ⟨-, hpend⟩ | ⟨hret, -⟩
    · exact absurd (hpend a) hne
    · exact hret
  · rcases h.quiet l hq with ⟨hline, -⟩ | ⟨-, a, ha⟩
    · exact hline
    · exact absurd (hnone a).2 ha

/-- The lines follow from another state that agrees with the first on lines, fitted docks and pending commands. -/
theorem LineTrace.of_before {s s' t : State} (h : LineTrace s' t) (hline : ∀ l, s'.line l = s.line l)
    (hdock : ∀ d, s'.dock d = s.dock d) (hport : s'.portN = s.portN) : LineTrace s t :=
  (LineTrace.of_same hline (fun d => State.fitted_of_dock (by rw [hdock])) (fun d => by rw [hdock]) hport).trans h

/-- A command that is pending at a dock afterwards (R109). -/
theorem State.markPending_trace (s : State) (d : DockIx) {c : Pending} (hc : c ≠ .none) :
    LineTrace s (s.markPending d c) := by
  have hframe := s.markPending_frame d c
  have hdock := s.markPending_dock d c
  have hother : ∀ l, l ≠ lineOf d → ∀ a, (s.markPending d c).dock (dockIx l a) = s.dock (dockIx l a) := by
    intro l hl a
    rw [hdock, if_neg (fun e => hl (by rw [← e, lineOf_dockIx]))]
  refine ⟨hframe.fitted, fun j => ?_, hframe.same, fun l hq => ?_, fun h => ?_⟩
  · rw [hdock]
    split
    · exact .inr hc
    · exact .inl rfl
  · by_cases hl : l = lineOf d
    · subst hl
      refine .inr ⟨?_, addrOf d, ?_⟩
      · have hleave : s.markPending d c =
            (s.updDock d (fun x => { x with pending := c })).leaveQuiet (lineOf d) := if_pos hq
        obtain ⟨first, hlow, hline, hlatch⟩ :=
          (s.updDock d (fun x => { x with pending := c })).leaveQuiet_returned (lineOf d)
        rw [hleave]
        exact ⟨first, hlow.congr (s.updDock_pending_frame d c).fitted, hline, hlatch⟩
      · rw [dockIx_lineOf_addrOf, hdock, if_pos rfl]
        exact hc
    · refine .inl ⟨?_, fun a => by rw [hother l hl a]⟩
      unfold State.markPending
      dsimp only
      split
      · rw [State.leaveQuiet_line_ne _ hl, State.updDock_line]
      · rw [State.updDock_line]
  · unfold State.markPending
    dsimp only
    split
    · exact State.leaveQuiet_latched _ _
    · exact h

theorem State.grantStep_trace (s : State) (d : DockIx) : LineTrace s (s.grantStep d) := by
  unfold State.grantStep
  split
  · unfold State.grant
    extract_lets s1
    have h1 : LineTrace s s1 := .of_same (fun l => by cases l <;> rfl) (fun _ => rfl) (fun _ => rfl) rfl
    split
    · exact h1.trans (s1.markPending_trace d Pending.noConfusion)
    · exact h1
  · exact LineTrace.refl s

theorem State.issueGrants_trace (s : State) : LineTrace s s.issueGrants := by
  unfold State.issueGrants
  generalize (s.releaseQ.filter (fun e => !e.granted)).map (fun e => e.dock) = ds
  induction ds generalizing s with
  | nil => exact LineTrace.refl s
  | cons d ds ih => exact (s.grantStep_trace d).trans (ih _)

theorem State.returnGrant_trace (s : State) (d : DockIx) : LineTrace s (s.returnGrant d) := by
  unfold State.returnGrant
  split
  · exact (State.issueGrants_trace _).of_before (fun l => by cases l <;> rfl) (fun _ => rfl) rfl
  · exact LineTrace.refl s

theorem State.setPending_trace (s : State) (d : DockIx) {c : Pending} (hc : c ≠ .none) :
    LineTrace s (s.setPending d c) := by
  unfold State.setPending
  dsimp only
  split
  · exact (s.markPending_trace d hc).trans (State.issueGrants_trace _)
  · exact s.markPending_trace d hc

/-- A fitted dock put into RELATCHING (R71, R81). -/
theorem State.relatchDock_trace {s : State} {d : DockIx} (hd : s.fitted d = true) : LineTrace s (s.relatchDock d) := by
  refine LineTrace.trans (t := s.updDock d (fun x => { x with state := .relatching, relatch := 0 })) ?_
    (State.setPending_trace _ d Pending.noConfusion)
  refine .of_same (fun l => State.updDock_line _ _ _ l) (fun j => ?_) (fun j => ?_) rfl
  · by_cases hj : j = d
    · subst hj
      rw [hd]
      simp [State.fitted]
    · exact State.fitted_of_dock (by rw [State.dock_updDock, if_neg hj])
  · rw [State.dock_updDock]
    split
    · next hj => rw [hj]
    · rfl

end Sys2Proof.Machine
end

section
/-! PROOFS. RIDE CLOSE (R80 to R82, R84): the close of an OPEN ride, and the early close of one that is not. -/

namespace Sys2Proof.Machine

/-! ## A Port K posting as the statements write it (R147, R148) -/

theorem State.evictK_free (s : State) : s.evictK.free = s.free ++ (s.listK.take 1).map (fun x => x.slot) := by
  unfold State.evictK
  split
  · next h => rw [h]; simp
  · next h => rw [h]; simp

theorem State.evictK_listK (s : State) : s.evictK.listK = s.listK.drop 1 := by
  unfold State.evictK
  split
  · next h => rw [h]; simp
  · next h => rw [h]; simp

/-- The free list and the Port K list after a posting (R147, R148). -/
theorem State.postK_postPool (s : State) (b : Body) :
    ((s.postK b).free, (s.postK b).listK) = postPool s.free s.listK b := by
  have hplace : ∀ (u : State) (out : List Posted), u.free = s.free ++ out.map (fun x => x.slot) →
      u.listK = s.listK.drop out.length → out = (if 32 ≤ s.listK.length ∨ s.free = [] then s.listK.take 1 else []) →
      ((u.placeK b).free, (u.placeK b).listK) = postPool s.free s.listK b := by
    intro u out hfree hlist hout
    unfold postPool State.placeK
    rw [← hout]
    dsimp only
    rw [← hfree, ← hlist]
    cases hu : u.free with
    | nil => simp [hu]
    | cons n rest => simp
  have hdrop : s.listK.drop 1 = s.listK.drop (s.listK.take 1).length := by
    cases s.listK <;> simp
  unfold State.postK
  extract_lets s1 s2
  by_cases hfull : 32 ≤ s.listK.length
  · have h1 : s1 = s.evictK := if_pos hfull
    have h2 : s2 = s.evictK := by
      refine (if_neg ?_).trans h1
      rw [h1, State.evictK_free]
      cases hl : s.listK with
      | nil => rw [hl] at hfull; simp at hfull
      | cons x xs => simp
    rw [h2]
    exact hplace _ (s.listK.take 1) s.evictK_free (s.evictK_listK.trans hdrop) (if_pos (.inl hfull)).symm
  · have h1 : s1 = s := if_neg hfull
    by_cases hfree : s.free = []
    · have h2 : s2 = s.evictK := by
        refine (if_pos (by rw [h1]; exact hfree)).trans ?_
        rw [h1]
      rw [h2]
      exact hplace _ (s.listK.take 1) s.evictK_free (s.evictK_listK.trans hdrop) (if_pos (.inr hfree)).symm
    · have h2 : s2 = s := by
        refine (if_neg (by rw [h1]; exact hfree)).trans h1
      rw [h2]
      exact hplace s [] (by simp) (by simp) (if_neg (by simp [hfull, hfree])).symm

/-- A Port K posting leaves Port N alone. -/
theorem State.postK_portN (s : State) (b : Body) : (s.postK b).portN = s.portN := by
  have hevict : ∀ u : State, u.evictK.portN = u.portN := by
    intro u
    unfold State.evictK
    split <;> rfl
  have hplace : ∀ u : State, (u.placeK b).portN = u.portN := by
    intro u
    unfold State.placeK
    split <;> rfl
  unfold State.postK
  dsimp only
  rw [hplace]
  split <;> split <;> simp only [hevict]

/-! ## The answer of a request leaves the tables alone -/

/-- The tables, lists and lines of the station are untouched. -/
structure SameTables (s t : State) : Prop where
  station  : SameStation s t
  creds    : t.creds = s.creds
  rides    : t.rides = s.rides
  docks    : t.docks = s.docks
  releaseQ : t.releaseQ = s.releaseQ
  grants   : t.grants = s.grants
  lineA    : t.lineA = s.lineA
  lineB    : t.lineB = s.lineB
  free     : t.free = s.free
  listN    : t.listN = s.listN
  listK    : t.listK = s.listK

theorem State.answered_sameTables (s : State) (n : Nat) (p : Port) (c : Byte) (k : Nat) (st : Status) (f : Fields) :
    SameTables s (latchStoreLow n (s.answered p c k st f)) := by
  have hpool := latchStoreLow_pool n (s.answered p c k st f)
  refine ⟨SameStation.trans (s.answered_station p c k st f) hpool.station, ?_, ?_, ?_, ?_, ?_, ?_, ?_, ?_, ?_, ?_⟩
  · rw [hpool.creds, State.answered_creds]
  · rw [hpool.rides, State.answered_rides]
  · rw [hpool.docks, State.answered_docks]
  · rw [hpool.releaseQ, State.answered_releaseQ]
  · rw [hpool.grants, State.answered_grants]
  · rw [hpool.lineA, State.answered_lineA]
  · rw [hpool.lineB, State.answered_lineB]
  · rw [latchStoreLow_free, State.answered_free]
  · rw [latchStoreLow_listN, State.answered_listN]
  · rw [latchStoreLow_listK, State.answered_listK]

section
variable {s t : State} (h : SameTables s t)
include h

theorem SameTables.dock (d : DockIx) : t.dock d = s.dock d := by
  unfold State.dock
  rw [h.docks]

theorem SameTables.line (l : Line) : t.line l = s.line l := State.line_of_eq h.lineA h.lineB l

theorem SameTables.findCred (c : CredNo) : t.findCred c = s.findCred c := by
  unfold State.findCred
  rw [h.creds]

end

/-- The answer of a request keeps the events latched on Port N. -/
theorem State.answered_latched {s : State} {e : Byte} (h : s.portN.latched &&& e = e) (n : Nat) (p : Port) (c : Byte)
    (k : Nat) (st : Status) (f : Fields) : (latchStoreLow n (s.answered p c k st f)).portN.latched &&& e = e := by
  have hans : (s.answered p c k st f).portN.latched &&& e = e := by cases p <;> exact h
  rcases latchStoreLow_cases n (s.answered p c k st f) with hlow | hlow <;> rw [hlow]
  · exact hans
  · exact State.latch_latched (State.latch_latched hans .n evStoreLow) .k evStoreLow

theorem LineTrace.answered {s t : State} (h : LineTrace s t) (n : Nat) (p : Port) (c : Byte) (k : Nat) (st : Status)
    (f : Fields) : LineTrace s (latchStoreLow n (t.answered p c k st f)) := by
  have hsame := t.answered_sameTables n p c k st f
  refine h.trans ⟨fun d => State.fitted_of_dock (by rw [hsame.dock]), fun d => .inl (by rw [hsame.dock]),
    fun l _ => hsame.line l, fun l _ => .inl ⟨hsame.line l, fun a => by rw [hsame.dock]⟩, fun hl => ?_⟩
  exact State.answered_latched hl n p c k st f

/-! ## The close (R80 to R82) -/

/-- What every close by R80 to R82 does, whatever the ride's state. -/
structure FinishSpec (s t : State) (r : Ride) (k : TripKind) (returnAt : Option DockIx) (m : Minute) : Prop where
  frame : RideFrame s t
  cred  : ∀ c, t.findCred c =
    if c = r.cred then (s.findCred c).bind (fun e => settledEntry e (s.figures r m)) else s.findCred c
  rides : t.rides = s.rides.filter (fun x => decide (x.number ≠ r.number))
  listN : t.listN = insertTail ⟨r.slot, ⟨(s.level k.kind).val, s.clockSet, .trip k (settledTrip r returnAt m
    (s.figures r m) (r.late || decide (r.state = .relatching)) (decide (r.state ≠ .opened)))⟩⟩ s.listN

/-- The ride as an early close takes it up (R81, R82). -/
def Ride.takenEarly (r : Ride) (now : Minute) : Ride :=
  { r with takeUp := some now, late := r.late || decide (r.state = .relatching) }

/-- The state of an early close before the grant is returned: the ride closed and TAKEN posted (R81, R147). -/
def State.closedEarly (s : State) (r : Ride) (k : TripKind) (returnAt : Option DockIx) (m : Minute) : State :=
  (s.closeRide (r.takenEarly s.minute) k returnAt m true).postK (.outcome r.number r.cred r.dock .taken)

theorem State.finishRide_opened {s : State} {r : Ride} (h : r.state = .opened) (k : TripKind)
    (returnAt : Option DockIx) (m : Minute) : s.finishRide r k returnAt m = s.closeRide r k returnAt m false := if_pos h

theorem State.finishRide_early {s : State} {r : Ride} (h : r.state ≠ .opened) (k : TripKind)
    (returnAt : Option DockIx) (m : Minute) : s.finishRide r k returnAt m =
      ((s.closedEarly r k returnAt m).returnGrant r.dock).relatchDock r.dock := if_neg h

/-- An early close up to the return of the grant touches neither docks, lines, queue, grants nor Port N. -/
theorem State.closedEarly_tables (s : State) (r : Ride) (k : TripKind) (returnAt : Option DockIx) (m : Minute) :
    (s.closedEarly r k returnAt m).docks = s.docks ∧ (s.closedEarly r k returnAt m).releaseQ = s.releaseQ ∧
    (s.closedEarly r k returnAt m).grants = s.grants ∧ (∀ l, (s.closedEarly r k returnAt m).line l = s.line l) ∧
    (s.closedEarly r k returnAt m).portN = s.portN := by
  have hclose := s.closeRide_spec (r.takenEarly s.minute) k returnAt m true
  have hpost := State.postK_pool (s.closeRide (r.takenEarly s.minute) k returnAt m true)
    (.outcome r.number r.cred r.dock .taken)
  exact ⟨hpost.docks.trans hclose.docks, hpost.releaseQ.trans hclose.queue, hpost.grants.trans hclose.grants,
    State.line_of_eq (hpost.lineA.trans hclose.lineA) (hpost.lineB.trans hclose.lineB),
    (State.postK_portN _ _).trans hclose.portN⟩

/-- The return of the grant and the relatching of the dock touch neither entries, rides nor pool. -/
theorem State.returnRelatch_tables (s : State) (d : DockIx) :
    ((s.returnGrant d).relatchDock d).creds = s.creds ∧ ((s.returnGrant d).relatchDock d).rides = s.rides ∧
    SamePool s ((s.returnGrant d).relatchDock d) := by
  have hgrant := s.returnGrant_frame d
  have hdock := (s.returnGrant d).relatchDock_frame d
  exact ⟨hdock.creds.trans hgrant.creds, hdock.rides.trans hgrant.rides, hdock.pool.1.trans hgrant.pool.1,
    hdock.pool.2.1.trans hgrant.pool.2.1, hdock.pool.2.2.trans hgrant.pool.2.2⟩

theorem State.finishRide_spec (s : State) (r : Ride) (k : TripKind) (returnAt : Option DockIx) (m : Minute) :
    FinishSpec s (s.finishRide r k returnAt m) r k returnAt m := by
  have hframe := s.finishRide_ride r k returnAt m
  by_cases h : r.state = .opened
  · have hclose := s.closeRide_spec r k returnAt m false
    rw [State.finishRide_opened h] at hframe ⊢
    refine ⟨hframe, hclose.cred, hclose.rides, hclose.listN.trans ?_⟩
    simp [h, tripOf, settledTrip]
  · have hclose := s.closeRide_spec (r.takenEarly s.minute) k returnAt m true
    have hpost := State.postK_pool (s.closeRide (r.takenEarly s.minute) k returnAt m true)
      (.outcome r.number r.cred r.dock .taken)
    obtain ⟨hcreds, hrides, -, hlistN, -⟩ := (s.closedEarly r k returnAt m).returnRelatch_tables r.dock
    rw [State.finishRide_early h] at hframe ⊢
    refine ⟨hframe, fun c => ?_, (hrides.trans hpost.rides).trans hclose.rides,
      ((hlistN.trans (State.postK_listN _ _)).trans hclose.listN).trans ?_⟩
    · have hfind : (((s.closedEarly r k returnAt m).returnGrant r.dock).relatchDock r.dock).findCred c =
          (s.closeRide (r.takenEarly s.minute) k returnAt m true).findCred c := by
        unfold State.findCred
        rw [hcreds]
        exact congrArg _ hpost.creds
      exact hfind.trans (hclose.cred c)
    · rw [decide_eq_true h]
      rfl

/-- The figures of the close of a ride with a release minute and an entry are those of the one formula. -/
theorem State.figures_eq_settlement {s : State} {r : Ride} {e : Cred} {rel : Minute} (hrel : r.release = some rel)
    (he : s.findCred r.cred = some e) (m : Minute) : s.figures r m = settlement (s.classOf e) e rel m := by
  unfold State.figures
  rw [he, hrel]
  exact closeFigures_eq_settlement (s.classOf e) e rel m

/-! ## RIDE CLOSE by its rule (R82) -/

theorem rideCloseRule_noRide {s : State} {g : BikeTag} (hg : g ≠ 0#32) (h : s.rideOfTag g = none) (m : Minute) :
    rideCloseRule g m s = answer s .notFound := by
  unfold rideCloseRule
  rw [if_neg hg, h]

theorem rideCloseRule_queued {s : State} {g : BikeTag} {r : Ride} (hg : g ≠ 0#32) (h : s.rideOfTag g = some r)
    (hr : r.state = .queued) (m : Minute) : rideCloseRule g m s = answer s .badState := by
  unfold rideCloseRule
  rw [if_neg hg, h]
  exact if_pos hr

theorem rideCloseRule_closes {s : State} {g : BikeTag} {r : Ride} (hg : g ≠ 0#32) (h : s.rideOfTag g = some r)
    (hr : r.state ≠ .queued) (m : Minute) :
    rideCloseRule g m s = (s.finishRide r .closedRemote none m,
      ⟨.ok, .rideClosed r.number (s.figures r m).charge (s.figures r m).shortfall (s.figures r m).balance⟩) := by
  unfold rideCloseRule
  rw [if_neg hg, h]
  exact if_neg hr

/-- The dock of a ride that binds it is fitted (R66, R86). -/
theorem BindInv.fitted {s : State} (h : BindInv s) {r : Ride} (hr : r ∈ s.rides) (ho : r.state ≠ .opened) :
    s.fitted r.dock = true := by
  obtain ⟨-, hbound, -⟩ := h
  have hstate := hbound r hr ho
  refine decide_eq_true (fun hun => ?_)
  rw [hun] at hstate
  cases hs : r.state <;> rw [hs] at hstate <;> simp [RideState.dockState] at hstate

/-- What an early close leaves of docks, queue, grants, lines and the Port K list (R81, R82, R108 to R110, R147). -/
structure EarlySpec (s t : State) (d : DockIx) (b : Body) : Prop where
  pool   : (t.free, t.listK) = postPool s.free s.listK b
  dock   : t.dock d = { s.dock d with state := .relatching, relatch := 0, pending := .closeCmd }
  grant  : d ∉ t.grants
  kept   : DocksKept s t [d]
  moved  : GrantsIssued s → QueueMoved s t [d] ∧ DocksMoved s t [d] [d]
  lines  : s.fitted d = true → LineTrace s t

theorem State.closedEarly_relatch {s : State} {r : Ride} (hq : ∀ y ∈ s.releaseQ, y.dock ≠ r.dock) (k : TripKind)
    (returnAt : Option DockIx) (m : Minute) :
    EarlySpec s (((s.closedEarly r k returnAt m).returnGrant r.dock).relatchDock r.dock) r.dock
      (.outcome r.number r.cred r.dock .taken) := by
  obtain ⟨hdocks, hqueue, hgrants, hlines, hport⟩ := s.closedEarly_tables r k returnAt m
  have hstation : SameStation s (s.closedEarly r k returnAt m) :=
    SameStation.trans (s.closeRide_ride _ k returnAt m true).station (State.postK_pool _ _).station
  have hset : (s.closedEarly r k returnAt m).settings = s.settings := hstation.1.2.2.2.2.2.2.2.1
  have hclose := s.closeRide_spec (r.takenEarly s.minute) k returnAt m true
  have hpost := State.postK_postPool (s.closeRide (r.takenEarly s.minute) k returnAt m true)
    (.outcome r.number r.cred r.dock .taken)
  rw [hclose.free, hclose.listK] at hpost
  change ((s.closedEarly r k returnAt m).free, (s.closedEarly r k returnAt m).listK) = _ at hpost
  generalize s.closedEarly r k returnAt m = u at *
  have hdock : ∀ j, u.dock j = s.dock j := by
    intro j
    unfold State.dock
    rw [hdocks]
  have hruns : ∀ j, u.lineRuns j = s.lineRuns j := by
    intro j
    unfold State.lineRuns
    rw [hlines]
  have hq' : ∀ y ∈ u.releaseQ, y.dock ≠ r.dock := by rwa [hqueue]
  obtain ⟨-, -, hfree, -, hlistK⟩ := u.returnRelatch_tables r.dock
  refine ⟨by rw [hfree, hlistK, hpost], ?_, u.returnRelatch_not_mem r.dock hq', ?_, fun hissued => ?_, fun hfit => ?_⟩
  · rw [u.returnRelatch_dock, hdock]
  · exact ((DocksKept.of_docks hdock _).trans (u.returnGrant_docksKept r.dock _)).trans
      (State.relatchDock_docksKept _ _)
  · have hmoved := State.returnRelatch_moved hq' (hissued.congr hset hgrants hqueue hruns)
    unfold QueueMoved DocksMoved at hmoved ⊢
    rw [newGrants_congr hset hgrants hqueue hruns, hqueue, hgrants] at hmoved
    simp only [hdock] at hmoved
    exact hmoved
  · have htrace := u.returnGrant_trace r.dock
    have hfit' : (u.returnGrant r.dock).fitted r.dock = true := by
      rw [htrace.fitted, State.fitted_of_dock (s := s) (by rw [hdock]), hfit]
    exact (htrace.trans (State.relatchDock_trace hfit')).of_before hlines hdock hport

end Sys2Proof.Machine
end

section
/-! PROOFS. RIDE CLOSE settled (R80 to R82, R84). -/

namespace Sys2Proof.Machine

/-- The state that a taken RIDE CLOSE answers. -/
def State.rideClosed (s : State) (r : Ride) (m : Minute) : State :=
  latchStoreLow s.free.length ((s.finishRide r .closedRemote none m).answered .n 0x0C#8 9 .ok
    (.rideClosed r.number (s.figures r m).charge (s.figures r m).shortfall (s.figures r m).balance))

theorem exec_rideClose {s : State} {g : BikeTag} {r : Ride} (hs : s.takes .n) (hg : g ≠ 0#32)
    (hr : s.rideOfTag g = some r) (hq : r.state ≠ .queued) (m : Minute) :
    exec (.rideClose .n g m) s = .next (s.rideClosed r m) := by
  refine (request_takes hs _ _ _).trans ?_
  rw [onlyN_n, rideCloseRule_closes hg hr hq]
  rfl

theorem State.rideClosed_tables (s : State) (r : Ride) (m : Minute) :
    SameTables (s.finishRide r .closedRemote none m) (s.rideClosed r m) := State.answered_sameTables _ _ _ _ _ _ _

/-- The close of an OPEN ride touches neither docks, lines, queue, grants nor the rest of the pool (R82). -/
theorem State.rideClosed_opened (s : State) {r : Ride} (ho : r.state = .opened) (m : Minute) :
    (s.rideClosed r m).docks = s.docks ∧ (s.rideClosed r m).releaseQ = s.releaseQ ∧
    (s.rideClosed r m).grants = s.grants ∧ (s.rideClosed r m).free = s.free ∧ (s.rideClosed r m).listK = s.listK ∧
    (s.rideClosed r m).lineA = s.lineA ∧ (s.rideClosed r m).lineB = s.lineB := by
  have hsame := s.rideClosed_tables r m
  rw [State.finishRide_opened ho] at hsame
  have hclose := s.closeRide_spec r .closedRemote none m false
  exact ⟨hsame.docks.trans hclose.docks, hsame.releaseQ.trans hclose.queue, hsame.grants.trans hclose.grants,
    hsame.free.trans hclose.free, hsame.listK.trans hclose.listK, hsame.lineA.trans hclose.lineA,
    hsame.lineB.trans hclose.lineB⟩

/-- The answer of the request carries an early close over to the next state. -/
theorem EarlySpec.answered {s t : State} {d : DockIx} {b : Body} (h : EarlySpec s t d b) (n : Nat) (p : Port) (c : Byte)
    (k : Nat) (st : Status) (f : Fields) : EarlySpec s (latchStoreLow n (t.answered p c k st f)) d b := by
  have hsame := t.answered_sameTables n p c k st f
  refine ⟨?_, ?_, ?_, h.kept.trans (DocksKept.of_docks hsame.dock _), fun hissued => ?_, fun hfit => ?_⟩
  · rw [hsame.free, hsame.listK, h.pool]
  · rw [hsame.dock, h.dock]
  · rw [hsame.grants]
    exact h.grant
  · have hmoved := h.moved hissued
    unfold QueueMoved DocksMoved at hmoved ⊢
    rw [hsame.releaseQ, hsame.grants]
    simp only [hsame.dock]
    exact hmoved
  · exact (h.lines hfit).answered n p c k st f

theorem State.rideClosed_early {s : State} {r : Ride} (ho : r.state ≠ .opened)
    (hout : ∀ y ∈ s.releaseQ, y.dock ≠ r.dock) (m : Minute) :
    EarlySpec s (s.rideClosed r m) r.dock (.outcome r.number r.cred r.dock .taken) := by
  have hspec := State.closedEarly_relatch hout .closedRemote none m
  rw [← State.finishRide_early ho] at hspec
  exact hspec.answered _ _ _ _ _ _

end Sys2Proof.Machine

namespace Sys2Proof.Proofs

open Sys2Proof.Machine

/-- Settles O25: the close itself by FinishSpec, an OPEN ride's frame by its close, and the rest of an early close by
EarlySpec. -/
theorem rideCloseSettles : Obligations.RideCloseSettles := by
  intro s g m hs
  refine ⟨request_refused hs _ _ rfl, fun hg hr => request_refused hs _ _ (rideCloseRule_noRide hg hr m),
    fun r hg hr hq => request_refused hs _ _ (rideCloseRule_queued hg hr hq m), ?_⟩
  intro r e rel hg hr hq hrel he hout f early late
  have hfig : s.figures r m = f := State.figures_eq_settlement hrel he m
  have hspec := s.finishRide_spec r .closedRemote none m
  have hsame := s.rideClosed_tables r m
  have hcred : ∀ c, (s.rideClosed r m).findCred c =
      if c = r.cred then (s.findCred c).bind (fun e => settledEntry e f) else s.findCred c := by
    intro c
    rw [hsame.findCred, hspec.cred, hfig]
  have hlist := hsame.listN.trans hspec.listN
  rw [hfig] at hlist
  refine ⟨s.rideClosed r m, exec_rideClose hs hg hr hq m, ?_, fun c hc => ?_, hsame.rides.trans hspec.rides, ?_, ?_, ?_,
    SameStation.trans hspec.frame.station hsame.station, fun ho => s.rideClosed_opened ho m, fun ho => ?_⟩
  · rw [hcred, if_pos rfl, he, Option.bind_some]
  · rw [hcred, if_neg hc]
  · rw [PostedN, hlist]
    exact mem_insertTail.mpr (.inl rfl)
  · rw [hlist, length_insertTail]
  · rw [← hfig]
    exact answers_of_portsKept hspec.frame.ports _ _ _ _ _
  · have hearly := State.rideClosed_early ho (hout ho) m
    exact ⟨hearly.pool, hearly.dock, hearly.grant, hearly.kept, fun _ hissued => hearly.moved hissued,
      fun hrel => (hearly.lines (BindInv.fitted hrel.1 (State.rideOfTag_some hr).1 ho)).linesFollow⟩

end Sys2Proof.Proofs
end
section
/-! PROOFS. Which events an operation latches: never STORE_LOW, and it clears none (R145, R180). -/

namespace Sys2Proof.Machine

/-! ## Latched events but for STORE_LOW -/

/-- Events other than STORE_LOW may have been latched on the two ports, and none has been cleared. -/
structure Latching (s t : State) : Prop where
  portN : ∃ e : Byte, e &&& evStoreLow = 0#8 ∧ t.portN.latched = s.portN.latched ||| e
  portK : ∃ e : Byte, e &&& evStoreLow = 0#8 ∧ t.portK.latched = s.portK.latched ||| e

/-- STORE_LOW stands latched on no port that lacked it. -/
def StoreLowKept (s t : State) : Prop :=
  ∀ p : Port, (s.port p).latched &&& evStoreLow = 0#8 → (t.port p).latched &&& evStoreLow = 0#8

theorem byte_or_and_eq_zero {x y e : Byte} (hx : x &&& e = 0#8) (hy : y &&& e = 0#8) : (x ||| y) &&& e = 0#8 := by
  rw [BitVec.and_comm, BitVec.and_or_distrib_left, BitVec.and_comm e x, BitVec.and_comm e y, hx, hy]
  rfl

theorem Latching.of_ports {s t : State} (hn : t.portN = s.portN) (hk : t.portK = s.portK) : Latching s t :=
  ⟨⟨0#8, rfl, by rw [hn, BitVec.or_zero]⟩, ⟨0#8, rfl, by rw [hk, BitVec.or_zero]⟩⟩

theorem Latching.refl (s : State) : Latching s s := .of_ports rfl rfl

theorem Latching.trans {s t u : State} (h : Latching s t) (k : Latching t u) : Latching s u := by
  obtain ⟨⟨a, ha, han⟩, ⟨b, hb, hbk⟩⟩ := h
  obtain ⟨⟨c, hc, hcn⟩, ⟨d, hd, hdk⟩⟩ := k
  exact ⟨⟨a ||| c, byte_or_and_eq_zero ha hc, by rw [hcn, han, BitVec.or_assoc]⟩,
    ⟨b ||| d, byte_or_and_eq_zero hb hd, by rw [hdk, hbk, BitVec.or_assoc]⟩⟩

theorem Latching.storeLowKept {s t : State} (h : Latching s t) : StoreLowKept s t := by
  obtain ⟨⟨a, ha, han⟩, ⟨b, hb, hbk⟩⟩ := h
  intro p hp
  cases p
  · exact han ▸ byte_or_and_eq_zero hp ha
  · exact hbk ▸ byte_or_and_eq_zero hp hb

/-- An event that stands latched on Port N stays latched. -/
theorem Latching.keepsN {s t : State} (h : Latching s t) {e : Byte} (he : s.portN.latched &&& e = e) :
    t.portN.latched &&& e = e := by
  obtain ⟨⟨a, -, ha⟩, -⟩ := h
  exact ha ▸ byte_or_keeps he

/-- An event that stands latched on Port K stays latched. -/
theorem Latching.keepsK {s t : State} (h : Latching s t) {e : Byte} (he : s.portK.latched &&& e = e) :
    t.portK.latched &&& e = e := by
  obtain ⟨-, ⟨a, -, ha⟩⟩ := h
  exact ha ▸ byte_or_keeps he

theorem Latching.ite {s t u : State} {c : Prop} [Decidable c] (ht : Latching s t) (hu : Latching s u) :
    Latching s (if c then t else u) := by
  split
  · exact ht
  · exact hu

/-! ## The pool -/

theorem State.latch_latching (s : State) (p : Port) {e : Byte} (he : e &&& evStoreLow = 0#8) :
    Latching s (s.latch p e) := by
  cases p
  · exact ⟨⟨e, he, rfl⟩, (Latching.refl s).portK⟩
  · exact ⟨(Latching.refl s).portN, ⟨e, he, rfl⟩⟩

theorem State.evictK_latching (s : State) : Latching s s.evictK := by
  unfold State.evictK
  split <;> exact .of_ports rfl rfl

theorem State.placeK_latching (s : State) (x : Body) : Latching s (s.placeK x) := by
  unfold State.placeK
  split
  · exact .of_ports rfl rfl
  · exact s.latch_latching .k rfl

theorem State.postK_latching (s : State) (x : Body) : Latching s (s.postK x) := by
  unfold State.postK
  extract_lets s1 s2
  have h1 : Latching s s1 := .ite s.evictK_latching (.refl s)
  have h2 : Latching s s2 := .ite (h1.trans s1.evictK_latching) h1
  exact h2.trans (s2.placeK_latching x)

theorem State.postFree_latching (s : State) (k : Kind) (x : Body) : Latching s (s.postFree k x) := by
  rcases s.postFree_cases k x with ⟨n, rest, -, e⟩ | ⟨-, e⟩ <;> rw [e]
  · exact .of_ports rfl rfl
  · exact s.latch_latching .n rfl

theorem State.notice_latching (s : State) (sub : Subject) (x : NoticeBody) : Latching s (s.notice sub x) := by
  rcases s.notice_cases sub x with ⟨-, e⟩ | ⟨-, -, e⟩ <;> rw [e]
  · exact .refl s
  · exact s.postFree_latching _ _

/-! ## Lines and grants -/

theorem State.updLine_latching (s : State) (l : Line) (f : LineCtl → LineCtl) : Latching s (s.updLine l f) := by
  cases l <;> exact .of_ports rfl rfl

theorem State.leaveQuiet_latching (s : State) (l : Line) : Latching s (s.leaveQuiet l) := by
  unfold State.leaveQuiet
  extract_lets s1
  have h1 : Latching s s1 := (s.updLine_latching l _).trans (State.latch_latching _ .n rfl)
  exact .ite h1 (h1.trans (s1.updLine_latching l _))

theorem State.markPending_latching (s : State) (d : DockIx) (c : Pending) : Latching s (s.markPending d c) := by
  unfold State.markPending
  extract_lets s1
  have h1 : Latching s s1 := .of_ports rfl rfl
  exact .ite (h1.trans (s1.leaveQuiet_latching _)) h1

theorem State.grantStep_latching (s : State) (d : DockIx) : Latching s (s.grantStep d) := by
  unfold State.grantStep State.grant
  extract_lets s1
  have h1 : Latching s s1 := .of_ports rfl rfl
  exact .ite (.ite (h1.trans (s1.markPending_latching d .openCmd)) h1) (.refl s)

theorem State.issueGrants_latching (s : State) : Latching s s.issueGrants := by
  unfold State.issueGrants
  generalize (s.releaseQ.filter (fun e => !e.granted)).map (fun e => e.dock) = ds
  induction ds generalizing s with
  | nil => exact .refl s
  | cons d ds ih => exact (s.grantStep_latching d).trans (ih _)

theorem State.returnGrant_latching (s : State) (d : DockIx) : Latching s (s.returnGrant d) :=
  .ite ((Latching.of_ports (s := s) (t := { s with grants := s.grants.filter (fun x => decide (x ≠ d)) }) rfl rfl).trans
    (State.issueGrants_latching _)) (.refl s)

theorem State.quietReturn_latching (s : State) (l : Line) : Latching s (s.quietReturn l) :=
  .ite ((s.leaveQuiet_latching l).trans (State.issueGrants_latching _)) (.refl s)

theorem State.setPending_latching (s : State) (d : DockIx) (c : Pending) : Latching s (s.setPending d c) := by
  have h1 := s.markPending_latching d c
  exact .ite (h1.trans (State.issueGrants_latching _)) h1

theorem State.latchLineIf_latching (s : State) (c : Bool) : Latching s (s.latchLineIf c) :=
  .ite (s.latch_latching .n rfl) (.refl s)

/-! ## Rides -/

theorem State.endRideOf_latching (s : State) (c : CredNo) : Latching s (s.endRideOf c) := by
  unfold State.endRideOf
  split
  · exact .refl s
  · exact .ite (.of_ports rfl rfl) (.of_ports rfl rfl)

end Sys2Proof.Machine
end
section
/-! PROOFS. The ledger of credentials and rides: every operation is a chain of bookings, each a load, a write, a deletion or
a withdrawal of entries, or the beginning or the end of one ride at its entry (R20, R22, R29). -/

namespace Sys2Proof.Machine

/-! ## Bookings -/

/-- The number of a ride and the credential it names. -/
def Ride.key (r : Ride) : RideNo × CredNo := (r.number, r.cred)

/-- The overdraft limit and the balance of an entry lie in their ranges (R20). -/
abbrev CredBounds (e : Cred) : Prop :=
  e.overdraft ≤ 32767 ∧ -(e.overdraft : Int) ≤ e.balance ∧ e.balance ≤ 32767

/-- A ride of the table has this number and names this credential. -/
def State.Names (s : State) (r : Ride) : Prop := ∃ x ∈ s.rides, x.number = r.number ∧ x.cred = r.cred

theorem State.names_of_mem {s : State} {r : Ride} (h : r ∈ s.rides) : s.Names r := ⟨r, h, rfl, rfl⟩

/-- Classes stand, and STORE_LOW is latched on no port that lacked it. -/
structure Aside (s t : State) : Prop where
  classes  : t.classes = s.classes
  storeLow : StoreLowKept s t

/-- One booking. numbered says whether an admission may count on a number that no ride holds (R65). -/
inductive Booking (numbered : Prop) (s t : State) : Prop where
  /-- entries stand, and rides keep numbers and credentials -/
  | kept (aside : Aside s t) (creds : t.creds = s.creds) (rides : t.rides.map Ride.key = s.rides.map Ride.key)
  /-- classes are written (R6) -/
  | classSet (storeLow : StoreLowKept s t) (creds : t.creds = s.creds) (rides : t.rides = s.rides)
      (limits : ∀ c : Fin 4, (t.classes.get c).limit ≤ 4 ∨ (t.classes.get c).limit = (s.classes.get c).limit)
  /-- everything is cleared (R185) -/
  | reset (storeLow : StoreLowKept s t) (creds : t.creds = []) (rides : t.rides = [])
      (limits : ∀ c : Fin 4, (t.classes.get c).limit ≤ 4)
  /-- an entry is loaded, in place of the one of its number or in a table with room (R24) -/
  | loaded (e : Cred) (aside : Aside s t) (creds : t.creds = insertCred e s.creds) (rides : t.rides = s.rides)
      (number : e.number ≠ 0#24) (bounds : CredBounds e) (room : (s.findCred e.number).isSome ∨ s.creds.length < 2048)
      (count : e.openRides = loadOpenRides (s.findCred e.number)) (state : e.state ≠ .lapsed)
  /-- an entry is written, but for its number and its open-ride count -/
  | written (c : CredNo) (f : Cred → Cred) (aside : Aside s t)
      (creds : t.creds = s.creds.map (fun e => if e.number = c then f e else e)) (rides : t.rides = s.rides)
      (number : ∀ e, (f e).number = e.number) (count : ∀ e, (f e).openRides = e.openRides)
      (entry : CredsSorted s → ∀ e ∈ s.creds, e.number = c → (CredBounds e → CredBounds (f e)) ∧
        ((f e).state = .lapsed → e.state = .lapsed ∨ e.openRides ≠ 0))
  /-- an entry without rides is deleted (R30) -/
  | dropped (c : CredNo) (aside : Aside s t) (creds : t.creds = s.creds.filter (fun e => decide (e.number ≠ c)))
      (rides : t.rides = s.rides) (count : CredsSorted s → ∀ e ∈ s.creds, e.number = c → e.openRides = 0)
  /-- the entries that a sweep has not marked are withdrawn (R35) -/
  | withdrawn (n : Byte) (aside : Aside s t) (creds : t.creds = withdraw n s.creds) (rides : t.rides = s.rides)
  /-- a ride begins, at an entry below the limit of its class (R55, R57) -/
  | admitted (r : Ride) (e : Cred) (aside : Aside s t) (fresh : numbered → s.findRide r.number = none)
      (found : s.findCred r.cred = some e) (limit : e.openRides < (s.classOf e).limit)
      (rides : t.rides = insertRide r s.rides)
      (creds : t.creds = s.creds.map (fun e => if e.number = r.cred then { e with openRides := e.openRides + 1 } else e))
  /-- a ride ends (R22, R29) -/
  | ended (r : Ride) (aside : Aside s t) (names : s.Names r) (creds : t.creds = (s.endRideOf r.cred).creds)
      (rides : t.rides = s.rides.filter (fun x => decide (x.number ≠ r.number)))

/-- One booking after another. -/
def Ledger (numbered : Prop) : State → State → Prop := Relation.ReflTransGen (Booking numbered)

/-- With distinct numbers the entry of a number is the one that the lookup finds. -/
theorem State.findCred_unique {s : State} (hs : CredsSorted s) {c : CredNo} {e x : Cred} (h : s.findCred c = some e)
    (hx : x ∈ s.creds) (hc : x.number = c) : x = e := by
  have hfind := State.findCred_of_mem hs hx
  rw [hc, h] at hfind
  exact (Option.some.inj hfind).symm

theorem StoreLowKept.refl (s : State) : StoreLowKept s s := fun _ h => h

theorem StoreLowKept.trans {s t u : State} (h : StoreLowKept s t) (k : StoreLowKept t u) : StoreLowKept s u :=
  fun p hp => k p (h p hp)

theorem Latching.aside {s t : State} (h : Latching s t) (hc : t.classes = s.classes) : Aside s t :=
  ⟨hc, h.storeLowKept⟩

theorem Aside.of_same {s t : State} (hc : t.classes = s.classes) (hn : t.portN = s.portN) (hk : t.portK = s.portK) :
    Aside s t := (Latching.of_ports hn hk).aside hc

theorem Aside.trans {s t u : State} (h : Aside s t) (k : Aside t u) : Aside s u :=
  ⟨k.classes.trans h.classes, h.storeLow.trans k.storeLow⟩

/-- Rides that differ in how far OPEN has come keep numbers and credentials. -/
theorem SameRides.keys {s t : State} (h : SameRides s t) : t.rides.map Ride.key = s.rides.map Ride.key := by
  have e := congrArg (List.map Ride.key) h
  rw [List.map_map, List.map_map] at e
  exact e

/-- The OPEN ride that an ageing out takes stands in the table (R67). -/
theorem oldestOpen_mem {now : Minute} {rides : List Ride} {r : Ride} (h : oldestOpen now rides = some r) : r ∈ rides := by
  have key : ∀ (rs : List Ride) (best : Option Ride), rs.foldl (fun best r => match best with
      | none => some r
      | some x => if takeUpAge now x < takeUpAge now r then some r else some x) best = some r → r ∈ rs ∨ best = some r := by
    intro rs
    induction rs with
    | nil => exact fun best hb => .inr hb
    | cons y ys ih =>
      intro best hb
      rcases ih _ hb with hr | hr
      · exact .inl (List.mem_cons_of_mem _ hr)
      · dsimp only at hr
        split at hr
        · exact .inl (Option.some.inj hr ▸ List.mem_cons_self)
        · split at hr
          · exact .inl (Option.some.inj hr ▸ List.mem_cons_self)
          · exact .inr hr
  rcases key _ none h with hr | hr
  · exact (List.mem_filter.mp hr).1
  · cases hr

namespace Ledger

variable {b : Prop} {s₀ s t : State}

theorem refl (b : Prop) (s : State) : Ledger b s s := Relation.ReflTransGen.refl

theorem book (h : Ledger b s₀ s) (k : Booking b s t) : Ledger b s₀ t := Relation.ReflTransGen.tail h k

theorem aside (h : Ledger b s₀ s) (k : Aside s t) (hc : t.creds = s.creds) (hr : t.rides = s.rides) : Ledger b s₀ t :=
  h.book (.kept k hc (congrArg _ hr))

/-- Entries, rides, classes and ports stand. -/
theorem same (h : Ledger b s₀ s) (hc : t.creds = s.creds) (hr : t.rides = s.rides) (hcls : t.classes = s.classes)
    (hn : t.portN = s.portN) (hk : t.portK = s.portK) : Ledger b s₀ t := h.aside (.of_same hcls hn hk) hc hr

theorem pool (h : Ledger b s₀ s) (k : PoolFrame s t) (hl : Latching s t) : Ledger b s₀ t :=
  h.aside (hl.aside k.station.1.2.2.2.1) k.creds k.rides

theorem line (h : Ledger b s₀ s) (k : LineFrame s t) (hl : Latching s t) : Ledger b s₀ t :=
  h.aside (hl.aside k.station.1.2.2.2.1) k.creds k.rides

theorem own {l : Line} (h : Ledger b s₀ s) (k : OwnLine s t l) : Ledger b s₀ t :=
  h.book (.kept (.of_same k.station.1.2.2.2.1 k.portN k.portK) k.creds k.rides.keys)

theorem ite {c : Prop} [Decidable c] {x y : State} (hx : Ledger b s₀ x) (hy : Ledger b s₀ y) :
    Ledger b s₀ (if c then x else y) := by
  split
  · exact hx
  · exact hy

/-! ## Grants and lines -/

theorem updDock (h : Ledger b s₀ s) (d : DockIx) (f : Dock → Dock) : Ledger b s₀ (s.updDock d f) :=
  h.same rfl rfl rfl rfl rfl

theorem updLine (h : Ledger b s₀ s) (l : Line) (f : LineCtl → LineCtl) : Ledger b s₀ (s.updLine l f) :=
  h.own (s.updLine_own l f)

theorem updPort (h : Ledger b s₀ s) (p : Port) (f : PortState → PortState)
    (hf : ∀ x, x.latched &&& evStoreLow = 0#8 → (f x).latched &&& evStoreLow = 0#8 := by exact fun _ hx => hx) :
    Ledger b s₀ (s.updPort p f) := by
  refine h.aside ⟨by simp, fun q hq => ?_⟩ (by simp) (by simp)
  rw [State.port_updPort]
  split
  · next e => exact hf _ (e ▸ hq)
  · exact hq

theorem endTransaction (h : Ledger b s₀ s) (p : Port) (out : List Byte) : Ledger b s₀ (s.endTransaction p out) :=
  h.updPort p _

theorem latch (h : Ledger b s₀ s) (p : Port) {e : Byte} (he : e &&& evStoreLow = 0#8) : Ledger b s₀ (s.latch p e) :=
  h.pool (s.latch_pool p e) (s.latch_latching p he)

theorem issueGrants (h : Ledger b s₀ s) : Ledger b s₀ s.issueGrants :=
  h.line s.issueGrants_frame s.issueGrants_latching

theorem returnGrant (h : Ledger b s₀ s) (d : DockIx) : Ledger b s₀ (s.returnGrant d) :=
  h.line (s.returnGrant_frame d) (s.returnGrant_latching d)

theorem setPending (h : Ledger b s₀ s) (d : DockIx) (c : Pending) : Ledger b s₀ (s.setPending d c) :=
  h.line (s.setPending_frame d c) (s.setPending_latching d c)

theorem quietReturn (h : Ledger b s₀ s) (l : Line) : Ledger b s₀ (s.quietReturn l) :=
  h.line (s.quietReturn_frame l) (s.quietReturn_latching l)

theorem startRound (h : Ledger b s₀ s) (l : Line) : Ledger b s₀ (s.startRound l) := h.updLine l _

/-! ## Records -/

theorem postK (h : Ledger b s₀ s) (x : Body) : Ledger b s₀ (s.postK x) := h.pool (s.postK_pool x) (s.postK_latching x)

theorem notice (h : Ledger b s₀ s) (sub : Subject) (x : NoticeBody) : Ledger b s₀ (s.notice sub x) :=
  h.pool (s.notice_pool sub x) (s.notice_latching sub x)

theorem foreignReturn (h : Ledger b s₀ s) (d : DockIx) (g : BikeTag) : Ledger b s₀ (s.foreignReturn d g) :=
  h.pool (s.foreignReturn_pool d g) (s.postFree_latching _ _)

theorem trimK (h : Ledger b s₀ s) (k : Nat) : Ledger b s₀ (s.trimK k) := by
  induction k generalizing s with
  | zero => exact h
  | succ k ih =>
    unfold State.trimK
    exact .ite (ih (h.pool s.evictK_pool s.evictK_latching)) h

theorem untake (h : Ledger b s₀ s) (p : Port) : Ledger b s₀ (s.untake p) := by
  cases p
  · exact updPort (s := { s with listN := s.portN.taken.foldr insertFront s.listN }) (h.same rfl rfl rfl rfl rfl) .n
      (fun x => { x with taken := [] })
  · exact trimK (updPort (s := { s with listK := s.portK.taken ++ s.listK }) (h.same rfl rfl rfl rfl rfl) .k _) _

/-! ## Rides -/

/-- A change of one ride that keeps its number and its credential. -/
theorem updRide (h : Ledger b s₀ s) (n : RideNo) (f : Ride → Ride) (hf : ∀ r, (f r).key = r.key := by exact fun _ => rfl) :
    Ledger b s₀ (s.updRide n f) := by
  refine h.book (.kept (.of_same rfl rfl rfl) rfl ?_)
  rw [State.rides_updRide, List.map_map]
  refine List.map_congr_left (fun r _ => ?_)
  simp only [Function.comp]
  split
  · exact hf r
  · rfl

theorem relatchDock (h : Ledger b s₀ s) (d : DockIx) : Ledger b s₀ (s.relatchDock d) := (h.updDock d _).setPending d _

theorem relatchRide (h : Ledger b s₀ s) (r : Ride) : Ledger b s₀ (s.relatchRide r) :=
  ((h.updRide r.number _).returnGrant r.dock).relatchDock r.dock

/-- The end of a ride at its entry and in the table, with a posting in between. -/
theorem endRide {r : Ride} (h : Ledger b s₀ s) (hr : s.Names r) {u : State} (hu : PoolFrame (s.endRideOf r.cred) u)
    (hl : Latching (s.endRideOf r.cred) u) : Ledger b s₀ (u.dropRide r.number) := by
  refine h.book (.ended r ?_ hr hu.creds ?_)
  · exact (((s.endRideOf_latching r.cred).aside (s.endRideOf_ride r.cred).station.1.2.2.2.1).trans
      (hl.aside hu.station.1.2.2.2.1)).trans (.of_same rfl rfl rfl)
  · rw [State.rides_dropRide, hu.rides, State.endRideOf_rides]

theorem cancelRide {r : Ride} (h : Ledger b s₀ s) (hr : s.Names r) (o : RideOutcome) :
    Ledger b s₀ (s.cancelRide r o) := by
  have hfree : Ledger b s₀ (s.freeSlot r.slot) := h.same rfl rfl rfl rfl rfl
  have hend := hfree.endRide hr (State.postK_pool _ (.outcome r.number r.cred r.dock o)) (State.postK_latching _ _)
  refine returnGrant (updDock ?_ r.dock Dock.toDocked) r.dock
  exact hend.same rfl rfl rfl rfl rfl

theorem cancelForCred (h : Ledger b s₀ s) (n : RideNo) : Ledger b s₀ (s.cancelForCred n) := by
  unfold State.cancelForCred
  split
  · next r hr => exact .ite (h.cancelRide (State.names_of_mem (State.findRide_some hr).1) _) h
  · exact h

theorem cancelQueuedOf (h : Ledger b s₀ s) (f : CredNo → Bool) : Ledger b s₀ (s.cancelQueuedOf f) := by
  unfold State.cancelQueuedOf
  generalize s.queuedRidesOf f = ns
  induction ns generalizing s with
  | nil => exact h
  | cons n ns ih => exact ih (h.cancelForCred n)

theorem acknowledge (h : Ledger b s₀ s) (r : Ride) : Ledger b s₀ (s.acknowledge r) :=
  (h.updRide r.number (fun x => { x with
    state := .releasing, release := some s.minute, waitLeft := none
    windowLeft := some s.settings.takeUpWindow })).same rfl rfl rfl rfl rfl

theorem takeUp (h : Ledger b s₀ s) (r : Ride) (late : Bool) : Ledger b s₀ (s.takeUp r late) :=
  ((((h.updRide r.number _).updDock r.dock _).returnGrant r.dock).postK _).notice _ _

/-- The debit of a close keeps an entry in its bounds (R17). -/
theorem debited_bounds {s : State} (hs : CredsSorted s) (r : Ride) (m : Minute) {e : Cred} (he : e ∈ s.creds)
    (hn : e.number = r.cred) (hb : CredBounds e) : CredBounds (e.debited (s.figures r m)) := by
  have hfind := State.findCred_of_mem hs he
  rw [hn] at hfind
  obtain ⟨hover, hlow, hhigh⟩ := hb
  have hfig : s.figures r m = closeFigures (s.classOf e) e (r.release.getD m) m := by
    unfold State.figures
    rw [hfind]
  refine ⟨hover, ?_⟩
  rw [hfig]
  simp only [Cred.debited, closeFigures, debit]
  split <;> constructor <;> dsimp only <;> omega

theorem closeRide {r : Ride} (h : Ledger b s₀ s) (hr : s.Names r) (k : TripKind) (d : Option DockIx) (m : Minute)
    (q : Bool) : Ledger b s₀ (s.closeRide r k d m q) := by
  have hdebit : Ledger b s₀ (s.updCred r.cred (fun e => e.debited (s.figures r m))) := by
    refine h.book (.written r.cred (fun e => e.debited (s.figures r m)) (.of_same rfl rfl rfl) rfl rfl (fun _ => rfl)
      (fun _ => rfl) (fun hs e he hn => ⟨debited_bounds hs r m he hn, fun hl => ?_⟩))
    unfold Cred.debited at hl
    dsimp only at hl
    split at hl
    · cases hl
    · exact .inl hl
  exact hdebit.endRide hr (State.postN_pool _ r.slot k.kind _) (.of_ports rfl rfl)

theorem finishRide {r : Ride} (h : Ledger b s₀ s) (hr : s.Names r) (k : TripKind) (d : Option DockIx) (m : Minute) :
    Ledger b s₀ (s.finishRide r k d m) :=
  .ite (h.closeRide hr k d m false)
    ((((h.closeRide (r := r.takenEarly s.minute) hr k d m true).postK _).returnGrant r.dock).relatchDock r.dock)

theorem ageOut (h : Ledger b s₀ s) : Ledger b s₀ s.ageOut := by
  unfold State.ageOut
  split
  · exact h
  · next r hr =>
    exact h.endRide (State.names_of_mem (oldestOpen_mem hr)) (State.postN_pool _ r.slot .agedOut _) (.of_ports rfl rfl)

theorem returnBike (h : Ledger b s₀ s) (d : DockIx) (g : BikeTag) : Ledger b s₀ (s.returnBike d g) := by
  have hforeign := h.foreignReturn d g
  unfold State.returnBike
  split
  · exact hforeign
  · split
    · exact hforeign
    · next r hr => exact .ite hforeign (h.finishRide (State.names_of_mem (State.rideOfTag_some hr).1) _ _ _)

/-! ## Replies -/

theorem loseLink (h : Ledger b s₀ s) (d : DockIx) : Ledger b s₀ (s.loseLink d) := by
  have hlost := h.updDock d (fun x => { x with link := .lost })
  unfold State.loseLink
  dsimp only
  split
  · exact hlost.notice _ _
  · next r hr =>
    split
    · exact (hlost.cancelRide (State.names_of_mem (State.rideAt_some hr).1) _).notice _ _
    · exact (hlost.relatchRide _).notice _ _
    · exact hlost.notice _ _
    · exact hlost

theorem failTurn (h : Ledger b s₀ s) (d : DockIx) : Ledger b s₀ (s.failTurn d) :=
  .ite h (.ite ((h.updDock d _).loseLink d) (h.updDock d _))

theorem jamDock (h : Ledger b s₀ s) (d : DockIx) (c : JamCause) (n : Option RideNo) : Ledger b s₀ (s.jamDock d c n) :=
  .ite h ((h.updDock d _).notice _ _)

theorem bikeGone (h : Ledger b s₀ s) (d : DockIx) (n : Option RideNo) : Ledger b s₀ (s.bikeGone d n) :=
  (h.updDock d _).notice _ _

theorem retag (h : Ledger b s₀ s) (d : DockIx) (g : BikeTag) : Ledger b s₀ (s.retag d g) :=
  .ite h (.ite ((h.updDock d _).returnBike d g) (h.updDock d _))

theorem relatchAttempt (h : Ledger b s₀ s) (d : DockIx) (c : Bool) (n : Option RideNo) :
    Ledger b s₀ (s.relatchAttempt d c n) :=
  .ite (.ite (h.jamDock _ _ _) (h.updDock d _)) h

theorem rideReply (h : Ledger b s₀ s) (d : DockIx) (x : Ride) (r : StatusReply) (c : Bool) :
    Ledger b s₀ (s.rideReply d x r c) := by
  unfold State.rideReply
  split
  · exact .ite (.ite (h.acknowledge x) ((h.acknowledge x).takeUp _ _)) h
  · exact .ite h (h.takeUp _ _)
  · exact .ite (h.relatchAttempt _ _ _) (h.takeUp _ _)
  · exact h

theorem afterCancel (h : Ledger b s₀ s) (d : DockIx) (x : Ride) (r : StatusReply) :
    Ledger b s₀ (s.afterCancel d x r) :=
  .ite (h.jamDock _ _ _) (.ite (.ite (h.retag _ _) (h.jamDock _ _ _)) (h.bikeGone _ _))

theorem clearFault (h : Ledger b s₀ s) (d : DockIx) (r : StatusReply) : Ledger b s₀ (s.clearFault d r) :=
  .ite ((h.updDock d _).retag _ _) (.ite (h.updDock d _) (h.bikeGone _ _))

theorem plainReply (h : Ledger b s₀ s) (d : DockIx) (r : StatusReply) (c : Bool) :
    Ledger b s₀ (s.plainReply d r c) := by
  unfold State.plainReply
  split
  · exact .ite (h.updDock d _) (.ite (h.updDock d _) ((h.updDock d _).relatchDock d))
  · exact .ite ((h.updDock d _).returnBike _ _) h
  · exact .ite (h.bikeGone _ _) (.ite (h.retag _ _) (h.relatchDock d))
  · exact .ite (h.updDock d _) (.ite ((h.updDock d _).retag _ _) (h.relatchAttempt _ _ _))
  · exact .ite h (h.clearFault _ _)
  all_goals exact h

theorem dockReply (h : Ledger b s₀ s) (d : DockIx) (r : StatusReply) (c : Bool) : Ledger b s₀ (s.dockReply d r c) :=
  .ite (h.jamDock _ _ _) (.ite ((h.updDock d _).notice _ _) (h.plainReply _ _ _))

theorem offerToken (h : Ledger b s₀ s) (d : DockIx) (r : StatusReply) : Ledger b s₀ (s.offerToken d r) := by
  unfold State.offerToken
  split
  · exact .ite h (.ite h (h.same rfl rfl rfl rfl rfl))
  · exact h

theorem linkNotices (h : Ledger b s₀ s) (d : DockIx) (x : Dock) (r : StatusReply) : Ledger b s₀ (s.linkNotices d x r) := by
  have hback : Ledger b s₀ (if x.link = .lost then s.notice (.dock d) (.nodeBack .status) else s) :=
    .ite (h.notice _ _) h
  exact .ite (hback.notice _ _) hback

theorem handleStatus (h : Ledger b s₀ s) (d : DockIx) (r : StatusReply) (c : Bool) :
    Ledger b s₀ (s.handleStatus d r c) := by
  have hoffer := ((h.updDock d (fun x => { x with link := .online })).offerToken d r).updDock d
    (fun x => { x with powerLow := r.powerLow })
  unfold State.handleStatus
  dsimp only
  split
  · next x hx =>
    split
    · exact ((hoffer.cancelRide (State.names_of_mem (State.rideAt_some hx).1) _).linkNotices _ _ _).afterCancel _ _ _
    · exact (hoffer.linkNotices _ _ _).rideReply _ _ _ _
  · exact (hoffer.linkNotices _ _ _).dockReply _ _ _

/-! ## Lines -/

theorem settleOpen (h : Ledger b s₀ s) (d : DockIx) (c : Bool) : Ledger b s₀ (settleOpen s d c) :=
  h.own (settleOpen_own s d c .a)

theorem latchLineIf (h : Ledger b s₀ s) (c : Bool) : Ledger b s₀ (s.latchLineIf c) := .ite (h.latch .n rfl) h

theorem enterBreak (h : Ledger b s₀ s) (l : Line) (c : BreakCause) : Ledger b s₀ (s.enterBreak l c) :=
  ((h.own (s.abandonTurn_own l)).updLine l _).latchLineIf _

theorem disableLine (h : Ledger b s₀ s) (l : Line) : Ledger b s₀ (s.disableLine l) :=
  ((h.own (s.abandonTurn_own l)).updLine l _).latchLineIf _

theorem lineError (h : Ledger b s₀ s) (l : Line) : Ledger b s₀ (s.lineError l) :=
  .ite (((h.updLine l _).notice _ _).enterBreak l _) (h.updLine l _)

theorem endFailed (h : Ledger b s₀ s) (l : Line) (x : Turn) (e : Bool) : Ledger b s₀ (s.endFailed l x e) := by
  have hturn := (((h.settleOpen (dockIx l x.addr) true).own (State.endTurn_own _ l)).updDock (dockIx l x.addr)
    (fun y => { y with busy := 0 })).failTurn (dockIx l x.addr)
  exact .ite (hturn.lineError l) hturn

theorem endBusy (h : Ledger b s₀ s) (l : Line) (x : Turn) : Ledger b s₀ (s.endBusy l x) := by
  have hturn := (h.settleOpen (dockIx l x.addr) false).own (State.endTurn_own _ l)
  unfold State.endBusy
  extract_lets d before s1 s2
  have h2 : Ledger b s₀ s2 := .ite ((hturn.updDock d _).notice _ _) (hturn.updDock d _)
  exact .ite ((h2.updDock d _).failTurn d) (h2.updDock d _)

theorem endStatus (h : Ledger b s₀ s) (l : Line) (x : Turn) (r : StatusReply) : Ledger b s₀ (s.endStatus l x r) := by
  have hclear := ((h.settleOpen (dockIx l x.addr) true).own (State.endTurn_own _ l)).same
    (t := State.clearCounts _ (dockIx l x.addr) x) rfl rfl rfl rfl rfl
  have hreply := hclear.handleStatus (dockIx l x.addr) r (decide (x.cmd = .closeCmd))
  have hdone : Ledger b s₀ (State.openAfterShow _ (dockIx l x.addr)) := .ite (hreply.setPending _ .openCmd) hreply
  exact .ite ((hdone.updLine l _).quietReturn l) hdone

theorem recover (h : Ledger b s₀ s) (l : Line) : Ledger b s₀ (s.recover l) :=
  ((((h.updLine l _).latch .n rfl).notice _ _).issueGrants).startRound l

theorem startTurn (h : Ledger b s₀ s) (l : Line) (a : Addr) : Ledger b s₀ (s.startTurn l a) := by
  have hturn := h.updLine l (fun c => { c with
    turn := some ⟨a, (s.dock (dockIx l a)).pending, (s.dock (dockIx l a)).ack, s.settings.replyWindow, .sending⟩ })
  exact .ite (hturn.book (.kept (.of_same rfl rfl rfl) rfl (State.sendOpen_sameRides _ _).keys)) hturn

end Ledger

end Sys2Proof.Machine
end
section
/-! PROOFS. Every command writes the ledger of credentials and rides, and latches STORE_LOW by R145 alone. -/

namespace Sys2Proof.Machine

/-! ## Ride numbers (R65) -/

/-- From 0 too, the search for a number runs through 0 and then round 1 to 65535. -/
theorem nextNumber_iterate_inj {n : RideNo} {i j : Nat} (hi : i < 65535) (hj : j < 65535)
    (h : nextNumber^[i] n = nextNumber^[j] n) : i = j := by
  by_cases hn : n = 0#16
  · subst hn
    have hval : ∀ k, k < 65535 → (nextNumber^[k] (0#16)).toNat = k := by
      intro k hk
      cases k with
      | zero => rfl
      | succ k =>
        rw [Function.iterate_succ_apply, show nextNumber 0#16 = 1#16 from rfl, nextNumber_iterate (by decide)]
        show (1 - 1 + k) % 65535 + 1 = k + 1
        omega
    rw [← hval i hi, ← hval j hj, h]
  · have hval := congrArg BitVec.toNat h
    rw [nextNumber_iterate hn, nextNumber_iterate hn] at hval
    omega

/-- With fewer rides than numbers the search finds a number that no ride holds, wherever it starts (R65). -/
theorem freeNumber_fresh {s : State} (hl : s.rides.length < 65534) :
    s.findRide (freeNumber s (s.rides.length + 1) s.nextRide) = none := by
  obtain ⟨j, hj, hfound, hheld, hfree⟩ := freeNumber_cases s (s.rides.length + 1) s.nextRide
  rw [hfound]
  rcases Nat.lt_or_eq_of_le hj with hlt | rfl
  · exact hfree hlt
  · exfalso
    have hnodup : ((List.range (s.rides.length + 1)).map (fun i => nextNumber^[i] s.nextRide)).Nodup := by
      refine List.Nodup.map_on (fun i hi j hj heq => ?_) List.nodup_range
      rw [List.mem_range] at hi hj
      exact nextNumber_iterate_inj (by omega) (by omega) heq
    have hsub : (List.range (s.rides.length + 1)).map (fun i => nextNumber^[i] s.nextRide) ⊆
        s.rides.map (fun r => r.number) := by
      intro m hm
      obtain ⟨i, hi, rfl⟩ := List.mem_map.mp hm
      obtain ⟨r, hr⟩ := Option.ne_none_iff_exists'.mp (hheld i (List.mem_range.mp hi))
      obtain ⟨hmem, hnum⟩ := State.findRide_some hr
      exact List.mem_map.mpr ⟨r, hmem, hnum⟩
    have hlen := (hnodup.subperm hsub).length_le
    simp at hlen

namespace Ledger

variable {b : Prop} {s₀ s : State}

/-! ## The admission decision -/

theorem showRefuse (h : Ledger b s₀ s) (o : Origin) : Ledger b s₀ (s.showRefuse o) := by
  unfold State.showRefuse
  split
  · exact h
  · split
    · exact h
    · exact h
    · exact h
    · exact h
    · exact h.setPending _ _

theorem showAdmitted (h : Ledger b s₀ s) (o : Origin) : Ledger b s₀ (s.showAdmitted o) := by
  unfold State.showAdmitted
  split
  · exact h
  · exact h.setPending _ _

theorem burstNotice (h : Ledger b s₀ s) (d : DockIx) (c : CredNo) : Ledger b s₀ (s.burstNotice d c) :=
  .ite (h.notice _ _) h

theorem refuse (h : Ledger b s₀ s) (x : Presentation) (r : Reason) : Ledger b s₀ (s.refuse x r) := by
  unfold State.refuse
  dsimp only
  split
  · next d _ _ =>
    have hcount : Ledger b s₀ (s.countMismatch d) := h.same rfl rfl rfl rfl rfl
    exact (Ledger.ite (h.postK _)
      (.ite ((hcount.burstNotice d _).postK _) ((hcount.postK _).burstNotice d _))).showRefuse _
  · exact (h.postK _).showRefuse _

/-- An ageing out leaves an ACTIVE entry in the table, with no more rides than it had (R67). -/
theorem ageOut_findCred {s : State} {c : CredNo} {e : Cred} (he : s.findCred c = some e) (ha : e.state = .active) :
    ∃ e', s.ageOut.findCred c = some e' ∧ e'.openRides ≤ e.openRides ∧ e'.cls = e.cls := by
  unfold State.ageOut
  split
  · exact ⟨e, he, Nat.le_refl _, rfl⟩
  · next r _ =>
    show ∃ e', (s.endRideOf r.cred).findCred c = some e' ∧ _
    rw [State.findCred_endRideOf]
    split
    · next hc =>
      rw [← hc, he]
      exact ⟨{ e with openRides := e.openRides - 1 }, by simp [cancelledEntry, ha], Nat.sub_le _ _, rfl⟩
    · exact ⟨e, he, Nat.le_refl _, rfl⟩

theorem ageOut_length (s : State) : s.ageOut.rides.length ≤ s.rides.length := by
  unfold State.ageOut
  split
  · exact Nat.le_refl _
  · next r _ =>
    show ((s.endRideOf r.cred).rides.filter _).length ≤ _
    rw [State.endRideOf_rides]
    exact List.length_filter_le _ _

theorem admitRide (h : Ledger b s₀ s) (hb : b → s.rides.length < 65534) {x : Presentation} {e : Cred}
    (he : s.findCred x.token.cred = some e) (ha : e.state = .active) (hl : e.openRides < (s.classOf e).limit)
    (e' : Cred) (d : DockIx) : Ledger b s₀ (s.admitRide x e' d) := by
  have hroom : ∀ c : Prop, [Decidable c] → (if c then s.ageOut else s).rides.length ≤ s.rides.length ∧
      ∃ e1, (if c then s.ageOut else s).findCred x.token.cred = some e1 ∧
        e1.openRides < (State.classOf (if c then s.ageOut else s) e1).limit := by
    intro c _
    split
    · obtain ⟨e1, hfind, hcount, hcls⟩ := ageOut_findCred he ha
      refine ⟨ageOut_length s, e1, hfind, ?_⟩
      unfold State.classOf at hl ⊢
      rw [hcls, s.ageOut_ride.station.1.2.2.2.1]
      omega
    · exact ⟨Nat.le_refl _, e, he, hl⟩
  unfold State.admitRide
  extract_lets s1
  have h1 : Ledger b s₀ s1 := .ite h.ageOut h
  obtain ⟨hlen, e1, hfind, hlimit⟩ : s1.rides.length ≤ s.rides.length ∧
      ∃ e1, s1.findCred x.token.cred = some e1 ∧ e1.openRides < (s1.classOf e1).limit := hroom _
  split
  · exact h1
  · next slot rest _ =>
    refine (postK (issueGrants ?_) _).showAdmitted _
    exact h1.book (.admitted (newRide s1 x e' d (freeNumber s1 (s1.rides.length + 1) s1.nextRide) slot) e1
      (.of_same rfl rfl rfl) (fun hb' => freeNumber_fresh (Nat.lt_of_le_of_lt hlen (hb hb'))) hfind hlimit rfl rfl)

theorem decideOn (h : Ledger b s₀ s) (hb : b → s.rides.length < 65534) (x : Presentation) :
    Ledger b s₀ (s.decideOn x) := by
  have hspend : Ledger b s₀ (s.spend x.token) :=
    h.book (.written x.token.cred (fun e => { e with counter := x.token.counter }) (.of_same rfl rfl rfl) rfl rfl
      (fun _ => rfl) (fun _ => rfl) (fun _ e _ _ => ⟨id, .inl⟩))
  unfold State.decideOn
  split
  · exact h.refuse _ _
  · next e hchecks =>
    obtain ⟨-, hfind, -⟩ := tokenChecks_ok hchecks
    split
    · exact hspend.refuse _ _
    · next d hlater =>
      obtain ⟨hactive, -, -, -, -, -, hlimit, -⟩ := laterChecks_ok hlater
      refine hspend.admitRide hb (e := { e with counter := x.token.counter }) ?_ hactive hlimit _ _
      unfold State.spend
      rw [State.findCred_updCred s x.token.cred _ (f := fun e => { e with counter := x.token.counter }) (fun _ => rfl),
        hfind, Option.map_some, if_pos rfl]

/-! ## Credentials and sweeps -/

theorem restartIdle (h : Ledger b s₀ s) : Ledger b s₀ s.restartIdle := .ite h (h.same rfl rfl rfl rfl rfl)

theorem abandonSweep (h : Ledger b s₀ s) (c : AbandonCause) (n : Option Byte) : Ledger b s₀ (s.abandonSweep c n) := by
  refine .ite h ((notice ?_ _ _).latch .n rfl)
  exact h.same rfl rfl rfl rfl rfl

/-- What CRED LOAD stores lies in the ranges of R20. -/
theorem clampBalance_bounds {d : Nat} (hd : d ≤ 32767) (x : Int) :
    d ≤ 32767 ∧ -(d : Int) ≤ clampBalance d x ∧ clampBalance d x ≤ 32767 := by
  unfold clampBalance
  omega

theorem settableState_ne_lapsed {st : Byte} {cs : CredState} (h : settableState st = some cs) : cs ≠ .lapsed := by
  unfold settableState at h
  rintro rfl
  split at h
  · cases h
  · split at h
    · cases h
    · split at h <;> cases h

theorem loadCred (h : Ledger b s₀ s) {c : CredNo} {st : CredState} (hc : c ≠ 0#24) (hst : st ≠ .lapsed)
    (hroom : (s.findCred c).isSome ∨ s.creds.length < 2048) (cls : Fin 4) (secret : BitVec 32) (counter : Word16)
    (balance : Int) (overdraft : Nat) (keep : Bool) :
    Ledger b s₀ (s.loadCred c st cls secret counter balance overdraft keep).1 := by
  unfold State.loadCred
  extract_lets old d x e s1 s2
  have h1 : Ledger b s₀ s1 := h.book (.loaded e (.of_same rfl rfl rfl) rfl rfl hc
    (clampBalance_bounds (Nat.min_le_right _ _) _) hroom rfl hst)
  exact .ite (h1.cancelQueuedOf _) h1

theorem credLoadRule (h : Ledger b s₀ s) (c : CredNo) (st cls : Byte) (secret : BitVec 32)
    (counter balance overdraft : Word16) (keep : Byte) :
    Ledger b s₀ (credLoadRule c st cls secret counter balance overdraft keep s).1 := by
  have hidle := h.restartIdle
  unfold Machine.credLoadRule
  extract_lets s1
  split
  · exact hidle
  · next hc =>
    split
    · exact hidle
    · split
      · exact hidle
      · next cs hcs =>
        split
        · exact hidle
        · next hroom =>
          refine loadCred hidle hc (settableState_ne_lapsed hcs) ?_ _ _ _ _ _ _
          rw [not_and_or] at hroom
          rcases hroom with hsome | hlen
          · exact .inl (by simpa [Option.isSome_iff_ne_none] using hsome)
          · exact .inr (by simpa [Config.credCapacity] using hlen)

theorem credStateRule (h : Ledger b s₀ s) (c : CredNo) (st : Byte) : Ledger b s₀ (credStateRule c st s).1 := by
  unfold Machine.credStateRule
  split
  · exact h
  · next cs hcs =>
    have hset : Ledger b s₀ (s.updCred c (fun x => { x with state := cs })) :=
      h.book (.written c (fun x => { x with state := cs }) (.of_same rfl rfl rfl) rfl rfl (fun _ => rfl) (fun _ => rfl)
        (fun _ e _ _ => ⟨id, fun hl => absurd hl (settableState_ne_lapsed hcs)⟩))
    split
    · exact h
    · split
      · exact h
      · exact .ite (hset.cancelQueuedOf _) hset

theorem credBalanceRule (h : Ledger b s₀ s) (c : CredNo) (mode : Byte) (amount : Word16) :
    Ledger b s₀ (credBalanceRule c mode amount s).1 := by
  unfold Machine.credBalanceRule
  split
  · exact h
  · split
    · exact h
    · next x _ =>
      exact h.book (.written c (fun e => { e with balance := clampBalance e.overdraft x }) (.of_same rfl rfl rfl) rfl rfl
        (fun _ => rfl) (fun _ => rfl) (fun _ e _ _ => ⟨fun he => clampBalance_bounds he.1 x, .inl⟩))

theorem credRemoveRule (h : Ledger b s₀ s) (c : CredNo) : Ledger b s₀ (credRemoveRule c s).1 := by
  unfold Machine.credRemoveRule
  split
  · exact h
  · next e he =>
    split
    · next hcount =>
      exact h.book (.dropped c (.of_same rfl rfl rfl) rfl rfl
        (fun hs x hx hc => State.findCred_unique hs he hx hc ▸ hcount))
    · next hcount =>
      split
      · exact h
      · refine cancelQueuedOf ?_ _
        exact h.book (.written c (fun x => { x with state := .lapsed }) (.of_same rfl rfl rfl) rfl rfl (fun _ => rfl)
          (fun _ => rfl) (fun hs x hx hc => ⟨id, fun _ => .inr (State.findCred_unique hs he hx hc ▸ hcount)⟩))

theorem sweepOpenRule (h : Ledger b s₀ s) (n : Byte) : Ledger b s₀ (sweepOpenRule n s).1 := by
  unfold Machine.sweepOpenRule
  split
  · exact h
  · exact (h.abandonSweep .reopen (some n)).same rfl rfl rfl rfl rfl

theorem closeSweep (h : Ledger b s₀ s) (n : Byte) : Ledger b s₀ (s.closeSweep n).1 := by
  unfold State.closeSweep
  refine (notice ?_ _ _).latch .n rfl
  have hwithdraw : Ledger b s₀ { s with creds := withdraw n s.creds } :=
    h.book (.withdrawn n (.of_same rfl rfl rfl) rfl rfl)
  exact (hwithdraw.cancelQueuedOf _).same rfl rfl rfl rfl rfl

theorem sweepCloseRule (h : Ledger b s₀ s) (n : Byte) : Ledger b s₀ (sweepCloseRule n s).1 := by
  unfold Machine.sweepCloseRule
  split
  · exact h
  · split
    · exact h.restartIdle
    · exact h.closeSweep n

/-! ## Docks, lines and rides -/

theorem writeMap (h : Ledger b s₀ s) (l : Line) (addrs : List Byte) : Ledger b s₀ (s.writeMap l addrs) :=
  h.same (State.mapDocks_creds _ _) (State.mapDocks_rides _ _) (State.mapDocks_classes _ _) (State.mapDocks_portN _ _)
    (State.mapDocks_portK _ _)

theorem dockFitRule (h : Ledger b s₀ s) (p : Port) (line : Byte) (addrs : List Byte) :
    Ledger b s₀ (dockFitRule p line addrs s).1 := by
  unfold Machine.dockFitRule
  split
  · exact h
  · split
    · exact h
    · split
      · exact h
      · next l _ =>
        split
        · exact h
        · split
          · exact h
          · split
            · exact (h.writeMap l addrs).disableLine l
            · exact (h.writeMap l addrs).enterBreak l _

theorem dockHoldRule (h : Ledger b s₀ s) (p : Port) (x : Byte) : Ledger b s₀ (dockHoldRule p x s).1 := by
  unfold Machine.dockHoldRule
  split
  · exact h
  · split
    · dsimp only
      exact h.updDock _ _
    · exact h

theorem dockFreeRule (h : Ledger b s₀ s) (x : Byte) : Ledger b s₀ (dockFreeRule x s).1 := by
  unfold Machine.dockFreeRule
  split
  · exact h
  · dsimp only
    exact h.updDock _ _

theorem lineRestartRule (h : Ledger b s₀ s) (x : Byte) : Ledger b s₀ (lineRestartRule x s).1 := by
  unfold Machine.lineRestartRule
  split
  · exact h
  · split
    · exact h
    · exact h.enterBreak _ _

theorem rideCloseRule (h : Ledger b s₀ s) (g : BikeTag) (m : Minute) : Ledger b s₀ (rideCloseRule g m s).1 := by
  unfold Machine.rideCloseRule
  split
  · exact h
  · split
    · exact h
    · next r hr =>
      split
      · exact h
      · exact h.finishRide (State.names_of_mem (State.rideOfTag_some hr).1) _ _ _

theorem rideCancelRule (h : Ledger b s₀ s) (n : RideNo) : Ledger b s₀ (rideCancelRule n s).1 := by
  unfold Machine.rideCancelRule
  split
  · exact h
  · next r hr =>
    split
    · exact h.cancelRide (State.names_of_mem (State.findRide_some hr).1) _
    · exact h.relatchRide _
    · exact h
    · exact h

/-- The rules that answer and change nothing. -/
theorem readCredRule (h : Ledger b s₀ s) (c : CredNo) : Ledger b s₀ (readCredRule c s).1 := by
  unfold Machine.readCredRule
  split <;> exact h

theorem readDockRule (h : Ledger b s₀ s) (x : Byte) : Ledger b s₀ (readDockRule x s).1 := by
  unfold Machine.readDockRule
  split <;> exact h

theorem readRideRule (h : Ledger b s₀ s) (x : Byte) (v : BitVec 32) : Ledger b s₀ (readRideRule x v s).1 := by
  unfold Machine.readRideRule
  split
  · exact h
  · split <;> exact h

theorem tokenPresentRule (h : Ledger b s₀ s) (x : Token) (d : Byte) : Ledger b s₀ (tokenPresentRule x d s).1 := by
  unfold Machine.tokenPresentRule
  split
  · exact h
  · split
    · exact h
    · exact h.same rfl rfl rfl rfl rfl

/-! ## Records and ports -/

theorem takeRule (h : Ledger b s₀ s) (p : Port) : Ledger b s₀ (takeRule p s).1 := by
  have hdrop : Ledger b s₀ (s.dropHead p) := by cases p <;> exact h.same rfl rfl rfl rfl rfl
  unfold Machine.takeRule
  split
  · exact h
  · split
    · exact h
    · dsimp only
      exact hdrop.updPort p _

theorem giveBackRule (h : Ledger b s₀ s) (p : Port) (n : Word16) : Ledger b s₀ (giveBackRule p n s).1 := by
  unfold Machine.giveBackRule
  split
  · exact h
  · split
    · exact (h.updPort p (fun x => { x with taken := x.taken.filter (fun y => decide (y.slot ≠ n.toNat)) })).same
        rfl rfl rfl rfl rfl
    · exact h

theorem maskSetRule (h : Ledger b s₀ s) (p : Port) (e : Byte) : Ledger b s₀ (maskSetRule p e s).1 := by
  unfold Machine.maskSetRule
  split
  · dsimp only
    exact h.updPort p _
  · exact h

theorem maskClearRule (h : Ledger b s₀ s) (p : Port) (e : Byte) : Ledger b s₀ (maskClearRule p e s).1 := by
  unfold Machine.maskClearRule
  split
  · dsimp only
    exact h.updPort p _
  · exact h

theorem eventClearRule (h : Ledger b s₀ s) (p : Port) (e : Byte) : Ledger b s₀ (eventClearRule p e s).1 := by
  unfold Machine.eventClearRule
  split
  · dsimp only
    refine h.updPort p _ (fun x hx => ?_)
    show (x.latched &&& ~~~e) &&& evStoreLow = 0#8
    rw [BitVec.and_assoc, BitVec.and_comm (~~~e), ← BitVec.and_assoc, hx, BitVec.zero_and]
  · exact h

theorem portClearRule (h : Ledger b s₀ s) (p : Port) : Ledger b s₀ (portClearRule p s).1 := by
  have hclear := (h.updPort p (fun x => { x with held := none, latched := 0#8 })
    (fun _ _ => BitVec.zero_and)).untake p
  exact .ite (hclear.abandonSweep _ _) hclear

/-! ## Clock, classes, levels and settings -/

theorem classSetRule (h : Ledger b s₀ s) (cls incl unit : Byte) (price cap minBal : Word16) (limit : Byte)
    (life : Word16) (held : Byte) :
    Ledger b s₀ (classSetRule cls incl unit price cap minBal limit life held s).1 := by
  unfold Machine.classSetRule
  split
  · exact h
  · next c _ =>
    refine h.book (.classSet (.refl s) rfl rfl (fun c' => ?_))
    show ((s.classes.set c.val _ c.isLt).get c').limit ≤ 4 ∨ ((s.classes.set c.val _ c.isLt).get c').limit = _
    rw [Vector.get_eq_getElem, Vector.getElem_set]
    split
    · exact .inl (classOfRequest_inRange incl unit price cap minBal limit life held).2.2.2.2.2.1.2
    · exact .inr rfl

theorem kindSetRule (h : Ledger b s₀ s) (kind level : Byte) : Ledger b s₀ (kindSetRule kind level s).1 := by
  unfold Machine.kindSetRule
  split
  · exact h
  · exact h.same rfl rfl rfl rfl rfl

theorem afterNum (h : Ledger b s₀ s) (n : NumSetting) (old new : Nat) : Ledger b s₀ (s.afterNum n old new) := by
  have hhold : Ledger b s₀ s.reholdOff := .ite (h.same rfl rfl rfl rfl rfl) (h.same rfl rfl rfl rfl rfl)
  unfold State.afterNum
  split
  · exact hhold
  · exact hhold
  · exact .ite h.issueGrants h
  all_goals exact h

theorem setNumber (h : Ledger b s₀ s) (name : Byte) (n : NumSetting) (value : Nat) :
    Ledger b s₀ (s.setNumber name n value).1 := by
  unfold State.setNumber
  extract_lets t v low reply
  split
  · exact h
  · refine afterNum ?_ _ _ _
    exact h.same rfl rfl rfl rfl rfl

theorem setQuietEnable (h : Ledger b s₀ s) (name : Byte) (l : Line) (q : Bool) :
    Ledger b s₀ (s.setQuietEnable name l q).1 := by
  unfold State.setQuietEnable
  extract_lets reply s1 s2
  have h1 : Ledger b s₀ s1 := h.same rfl rfl rfl rfl rfl
  have h2 : Ledger b s₀ s2 := .ite (h1.updLine l _) h1
  split
  · exact h
  · exact .ite h2 (h2.quietReturn l)

theorem setLineRate (h : Ledger b s₀ s) (name : Byte) (l : Line) (r : Rate) :
    Ledger b s₀ (s.setLineRate name l r).1 := by
  unfold State.setLineRate
  extract_lets reply s1
  have h1 : Ledger b s₀ s1 := h.same rfl rfl rfl rfl rfl
  split
  · exact h
  · exact .ite h1 (h1.enterBreak l _)

theorem stationSetRule (h : Ledger b s₀ s) (setting line : Byte) (value : Word16) :
    Ledger b s₀ (stationSetRule setting line value s).1 := by
  unfold Machine.stationSetRule
  split
  · exact h
  · exact h.setNumber _ _ _
  · split
    · exact h
    · exact h.setQuietEnable _ _ _
  · split
    · exact h
    · split
      · exact h
      · exact h.setLineRate _ _ _

theorem tick (h : Ledger b s₀ s) : Ledger b s₀ s.tick := by
  rw [State.tick_rest, State.ticked_rest]
  refine h.book (.kept (.of_same rfl rfl rfl) rfl ?_)
  show (s.rides.map Ride.tick).map Ride.key = _
  rw [List.map_map]
  rfl

end Ledger

end Sys2Proof.Machine
end
section
/-! PROOFS. Each command as a chain of bookings: its rule or its event, and then STORE_LOW by the free count (R145). -/

namespace Sys2Proof.Machine

/-- A command answers a next state: one that the ledger leads to, with STORE_LOW judged by the free count before it; or one
whose free count has not fallen below 16. -/
def InLedger (s : State) (o : Outcome) : Prop :=
  ∃ u : State, Ledger (s.rides.length < 65534) s u ∧
    (o = .next (latchStoreLow s.free.length u) ∨ o = .next u ∧ (16 ≤ s.free.length → 16 ≤ u.free.length))

/-- A ledger that starts here, its admissions numbered where the ride table has room for it (R65). -/
abbrev State.Books (s t : State) : Prop := Ledger (s.rides.length < 65534) s t

namespace InLedger

variable {s t : State}

theorem event {f : State → State} (h : s.Books (f s)) : InLedger s (event f s) := ⟨f s, h, .inl rfl⟩

theorem next (h : s.Books t) (hf : t.free = s.free) : InLedger s (.next t) := ⟨t, h, .inr ⟨rfl, fun h16 => hf ▸ h16⟩⟩

theorem request {rule : State → State × Reply} (hr : s.Books (rule s).1) (p : Port) (code : Byte) (n : Nat) :
    InLedger s (request p code n rule s) := by
  unfold Machine.request
  split
  · exact next ((Ledger.refl _ s).endTransaction p []) (by simp)
  · exact event ((hr.updPort p _).endTransaction p _)

theorem onlyN {rule : State → State × Reply} (hr : s.Books (rule s).1) (p : Port) (code : Byte) (n : Nat) :
    InLedger s (Machine.request p code n (onlyN p rule) s) := by
  cases p
  · exact request hr .n code n
  · exact request (Ledger.refl _ s) .k code n

/-! The commands that are more than a rule or one operation. -/

theorem powerOnOrPinReset (s : State) (selN selK : Bool) : InLedger s (exec (.powerOnOrPinReset selN selK) s) := by
  have hbook : Booking (s.rides.length < 65534) s (afterReset selN selK s.pending) := by
    refine .reset (fun p _ => ?_) rfl rfl (fun c => ?_)
    · cases p <;> exact BitVec.zero_and
    · show (State.reset.classes.get c).limit ≤ 4
      rw [State.reset_class]
      decide
  refine ⟨_, .tail .refl hbook, .inr ⟨exec_reset selN selK s, fun _ => ?_⟩⟩
  rw [afterReset_free, List.length_range]
  omega

theorem minuteRollover (s : State) : InLedger s (execMinuteRollover s) := by
  refine event ?_
  exact .ite (Ledger.refl _ s) (Ledger.refl _ s).tick

theorem emptyTransactionEnd (s : State) (p : Port) : InLedger s (execEmptyTransactionEnd p s) := by
  refine event ?_
  exact .ite (Ledger.refl _ s) ((Ledger.refl _ s).endTransaction p [])

theorem collect (s : State) (p : Port) (bytes : Nat) : InLedger s (execCollect p bytes s) := by
  unfold execCollect
  split
  · exact next ((Ledger.refl _ s).endTransaction p []) (by simp)
  · exact event (((Ledger.refl _ s).updPort p _).endTransaction p _)
  · exact event (((Ledger.refl _ s).updPort p _).endTransaction p _)

theorem badFrame (s : State) (p : Port) (bytes : List Byte) (tail : List Bool) :
    InLedger s (execBadFrame p bytes tail s) := by
  unfold execBadFrame
  split
  · exact request (Ledger.refl _ s) p _ _
  · exact next (Ledger.refl _ s) rfl

theorem admissionDecision (s : State) : InLedger s (execAdmissionDecision s) := by
  refine event ?_
  split
  · exact Ledger.refl _ s
  · next x _ _ =>
    have hqueue : s.Books s.dequeue := (Ledger.refl _ s).same rfl rfl rfl rfl rfl
    exact hqueue.decideOn id x

theorem queueWaitExpiry (s : State) (n : RideNo) : InLedger s (execQueueWaitExpiry n s) := by
  refine event ?_
  split
  · next r hr =>
    exact .ite ((Ledger.refl _ s).cancelRide (State.names_of_mem (State.findRide_some hr).1) _) (Ledger.refl _ s)
  · exact Ledger.refl _ s

theorem takeUpWindowExpiry (s : State) (n : RideNo) : InLedger s (execTakeUpWindowExpiry n s) := by
  refine event ?_
  split
  · exact .ite ((Ledger.refl _ s).relatchRide _) (Ledger.refl _ s)
  · exact Ledger.refl _ s

theorem turnStart (s : State) (l : Line) : InLedger s (execTurnStart l s) := by
  refine event ?_
  dsimp only
  split
  · exact .ite ((Ledger.refl _ s).startTurn l _) (Ledger.refl _ s)
  · exact Ledger.refl _ s

theorem statusReply (s : State) (l : Line) (r : StatusReply) : InLedger s (execStatusReply l r s) := by
  refine event ?_
  split
  · exact .ite ((Ledger.refl _ s).endStatus l _ r) (Ledger.refl _ s)
  · exact Ledger.refl _ s

theorem busyReply (s : State) (l : Line) : InLedger s (execBusyReply l s) := by
  refine event ?_
  split
  · exact .ite ((Ledger.refl _ s).endBusy l _) (Ledger.refl _ s)
  · exact Ledger.refl _ s

theorem badReply (s : State) (l : Line) (marked : Byte) (rest : List Byte) :
    InLedger s (execBadReply l marked rest s) := by
  refine event ?_
  split
  · exact .ite ((Ledger.refl _ s).endFailed l _ true) (Ledger.refl _ s)
  · exact Ledger.refl _ s

theorem replyGapTimeout (s : State) (l : Line) : InLedger s (execReplyGapTimeout l s) := by
  refine event ?_
  split
  · exact (Ledger.refl _ s).endFailed l _ true
  · exact Ledger.refl _ s

theorem replyWindowExpiry (s : State) (l : Line) : InLedger s (execReplyWindowExpiry l s) := by
  refine event ?_
  split
  · exact .ite ((Ledger.refl _ s).endFailed l _ _) (Ledger.refl _ s)
  · exact Ledger.refl _ s

theorem errorPeriodBoundary (s : State) (l : Line) : InLedger s (execErrorPeriodBoundary l s) := by
  refine event ?_
  split
  · exact .ite ((Ledger.refl _ s).updLine l _) (Ledger.refl _ s)
  · exact Ledger.refl _ s

theorem quietIntervalExpiry (s : State) (l : Line) : InLedger s (execQuietIntervalExpiry l s) := by
  refine event ?_
  dsimp only
  split
  · refine .ite (.ite ((Ledger.refl _ s).updLine l _) (((Ledger.refl _ s).updLine l _).startRound l)) (Ledger.refl _ s)
  · exact Ledger.refl _ s

theorem wake (s : State) (l : Line) : InLedger s (execWake l s) := by
  refine event ?_
  split
  · exact (Ledger.refl _ s).quietReturn l
  · exact .ite ((Ledger.refl _ s).endFailed l _ true) (Ledger.refl _ s)

end InLedger

/-- Every command writes the ledger. -/
theorem exec_inLedger (i : Instr) (s : State) : InLedger s (exec i s) := by
  have h : s.Books s := Ledger.refl _ s
  cases i with
  | powerOnOrPinReset selN selK => exact .powerOnOrPinReset s selN selK
  | secondTick => exact .event h.tick
  | minuteRollover => exact .minuteRollover s
  | clockSet p minute second =>
    exact .onlyN (rule := clockSetRule minute second) (h.same rfl rfl rfl rfl rfl) p _ _
  | classSet p cls incl unit price cap minBal limit life held =>
    exact .onlyN (h.classSetRule cls incl unit price cap minBal limit life held) p _ _
  | credLoad p cred state cls secret counter balance overdraft keep =>
    exact .onlyN (h.credLoadRule cred state cls secret counter balance overdraft keep) p _ _
  | credState p cred state => exact .onlyN (h.credStateRule cred state) p _ _
  | credBalance p cred mode amount => exact .onlyN (h.credBalanceRule cred mode amount) p _ _
  | credRemove p cred => exact .onlyN (h.credRemoveRule cred) p _ _
  | readCred p cred => exact .request (h.readCredRule cred) p _ _
  | sweepOpen p number => exact .onlyN (h.sweepOpenRule number) p _ _
  | sweepClose p number => exact .onlyN (h.sweepCloseRule number) p _ _
  | sweepIdleExpiry => exact .event (.ite (h.abandonSweep _ _) h)
  | stationSet p setting line value => exact .onlyN (h.stationSetRule setting line value) p _ _
  | kindSet p kind level => exact .onlyN (h.kindSetRule kind level) p _ _
  | dockFit p line addrs => exact .request (h.dockFitRule p line addrs) p _ _
  | rideClose p tag endMinute => exact .onlyN (h.rideCloseRule tag endMinute) p _ _
  | lineRestart p line => exact .onlyN (h.lineRestartRule line) p _ _
  | tokenPresent p token preferred =>
    cases p
    · exact .request h .n _ _
    · exact .request (h.tokenPresentRule token preferred) .k _ _
  | dockHold p dock => exact .request (h.dockHoldRule p dock) p _ _
  | dockFree p dock => exact .request (h.dockFreeRule dock) p _ _
  | readDock p dock => exact .request (h.readDockRule dock) p _ _
  | rideCancel p ride => exact .request (h.rideCancelRule ride) p _ _
  | readRide p selector value => exact .request (h.readRideRule selector value) p _ _
  | take p => exact .request (h.takeRule p) p _ _
  | giveBack p slot => exact .request (h.giveBackRule p slot) p _ _
  | readStation p => exact .request (rule := readStationRule p) h p _ _
  | maskSet p events => exact .request (h.maskSetRule p events) p _ _
  | maskClear p events => exact .request (h.maskClearRule p events) p _ _
  | eventClear p events => exact .request (h.eventClearRule p events) p _ _
  | portClear p => exact .request (h.portClearRule p) p _ _
  | collect p bytes => exact .collect s p bytes
  | badFrame p bytes tail => exact .badFrame s p bytes tail
  | admissionDecision => exact .admissionDecision s
  | queueWaitExpiry ride => exact .queueWaitExpiry s ride
  | takeUpWindowExpiry ride => exact .takeUpWindowExpiry s ride
  | turnStart l => exact .turnStart s l
  | commandDelivered l => exact .event (.ite (h.updLine l _) h)
  | statusReply l r => exact .statusReply s l r
  | busyReply l => exact .busyReply s l
  | badReply l marked rest => exact .badReply s l marked rest
  | replyGapTimeout l => exact .replyGapTimeout s l
  | replyWindowExpiry l => exact .replyWindowExpiry s l
  | errorPeriodBoundary l => exact .errorPeriodBoundary s l
  | breakTimeEnd l => exact .event (.ite (h.updLine l _) h)
  | recoveryEnd l => exact .event (.ite (h.recover l) h)
  | quietEntry l => exact .event (.ite ((h.updLine l _).latch .n rfl) h)
  | quietIntervalExpiry l => exact .quietIntervalExpiry s l
  | wake l => exact .wake s l
  | replyStart l marked => exact .event (.ite (h.updLine l _) h)
  | transactionStart p => exact .event (.ite (h.updPort p _) h)
  | emptyTransactionEnd p => exact .emptyTransactionEnd s p

end Sys2Proof.Machine
end
section
/-! PROOFS. The credential table stays sound, and each open-ride count stays the number of rides (R20, R22, R28, R29). -/

namespace Sys2Proof.Machine

/-! ## The order of entries -/

/-- The end of a ride changes its entry in its count alone, or deletes it. -/
theorem State.endRideOf_creds (s : State) (c : CredNo) :
    ((s.endRideOf c).creds = s.creds ∧ s.findCred c = none) ∨
    ∃ e, s.findCred c = some e ∧
      ((e.state = .lapsed ∧ e.openRides ≤ 1 ∧ (s.endRideOf c).creds = s.creds.filter (fun x => decide (x.number ≠ c))) ∨
      (¬ (e.state = .lapsed ∧ e.openRides ≤ 1) ∧ (s.endRideOf c).creds =
        s.creds.map (fun x => if x.number = c then { x with openRides := x.openRides - 1 } else x))) := by
  unfold State.endRideOf
  split
  · next h => exact .inl ⟨rfl, h⟩
  · next e h =>
    refine .inr ⟨e, h, ?_⟩
    split
    · next hl => exact .inl ⟨hl.1, by omega, rfl⟩
    · next hl => exact .inr ⟨fun a => hl ⟨a.1, by omega⟩, rfl⟩

theorem pairwise_map_write {xs : List Cred} (h : xs.Pairwise (fun a b => a.number < b.number)) (c : CredNo)
    {f : Cred → Cred} (hf : ∀ e, (f e).number = e.number) :
    (xs.map (fun e => if e.number = c then f e else e)).Pairwise (fun a b => a.number < b.number) := by
  refine List.pairwise_map.mpr (h.imp (fun {x y} hlt => ?_))
  have hnum : ∀ e : Cred, (if e.number = c then f e else e).number = e.number := by
    intro e
    split
    · exact hf e
    · rfl
  rw [hnum, hnum]
  exact hlt

theorem pairwise_withdraw {xs : List Cred} (h : xs.Pairwise (fun a b => a.number < b.number)) (n : Byte) :
    (withdraw n xs).Pairwise (fun a b => a.number < b.number) := by
  refine List.pairwise_map.mpr ((h.filter _).imp (fun {x y} hlt => ?_))
  split <;> split <;> exact hlt

/-- Every booking keeps the entries in order (R20). -/
theorem Booking.credsSorted {b : Prop} {s t : State} (k : Booking b s t) (h : CredsSorted s) : CredsSorted t := by
  unfold CredsSorted
  cases k with
  | kept _ hc _ => exact hc ▸ h
  | classSet _ hc _ _ => exact hc ▸ h
  | reset _ hc _ _ => exact hc ▸ List.Pairwise.nil
  | loaded e _ hc _ _ _ _ _ _ => exact hc ▸ sorted_insertCred e h
  | written c f _ hc _ hn _ _ => exact hc ▸ pairwise_map_write h c hn
  | dropped c _ hc _ _ => exact hc ▸ h.filter _
  | withdrawn n _ hc _ => exact hc ▸ pairwise_withdraw h n
  | admitted r e _ _ _ _ _ hc => exact hc ▸ pairwise_map_write h r.cred (fun _ => rfl)
  | ended r _ _ hc _ =>
    rw [hc]
    rcases s.endRideOf_creds r.cred with ⟨e, -⟩ | ⟨-, -, ⟨-, -, e⟩ | ⟨-, e⟩⟩ <;> rw [e]
    · exact h
    · exact h.filter _
    · exact pairwise_map_write h r.cred (fun _ => rfl)

theorem Ledger.credsSorted {b : Prop} {s t : State} (k : Ledger b s t) (h : CredsSorted s) : CredsSorted t := by
  induction k with
  | refl => exact h
  | tail _ k ih => exact k.credsSorted ih

/-! ## The credential table (R20) -/

theorem mem_withdraw {n : Byte} {xs : List Cred} {e' : Cred} (h : e' ∈ withdraw n xs) :
    ∃ e ∈ xs, (e.mark = n ∨ e.openRides ≠ 0) ∧ e' = if e.mark = n then e else { e with state := .lapsed } := by
  obtain ⟨e, he, rfl⟩ := List.mem_map.mp h
  obtain ⟨hmem, hkeep⟩ := List.mem_filter.mp he
  exact ⟨e, hmem, of_decide_eq_true hkeep, rfl⟩

theorem length_withdraw (n : Byte) (xs : List Cred) : (withdraw n xs).length ≤ xs.length := by
  unfold withdraw
  rw [List.length_map]
  exact List.length_filter_le _ _

/-- An entry of a table in which the entries of one number were written. -/
theorem mem_write {xs : List Cred} {c : CredNo} {f : Cred → Cred} {e' : Cred}
    (h : e' ∈ xs.map (fun e => if e.number = c then f e else e)) :
    ∃ e ∈ xs, (e.number = c ∧ e' = f e) ∨ (e.number ≠ c ∧ e' = e) := by
  obtain ⟨e, he, rfl⟩ := List.mem_map.mp h
  refine ⟨e, he, ?_⟩
  split
  · next hc => exact .inl ⟨hc, rfl⟩
  · next hc => exact .inr ⟨hc, rfl⟩

/-- An insertion adds an entry only where none of its number is in the table. -/
theorem length_insertCred (e : Cred) (xs : List Cred) :
    (insertCred e xs).length ≤ xs.length + 1 ∧
      ((xs.find? (fun x => decide (x.number = e.number))).isSome →
        xs.Pairwise (fun a b => a.number < b.number) → (insertCred e xs).length = xs.length) := by
  induction xs with
  | nil => exact ⟨Nat.le_refl _, fun h => absurd h Bool.false_ne_true⟩
  | cons x xs ih =>
    unfold insertCred
    split
    · next hlt =>
      refine ⟨Nat.le_refl _, fun hsome hsort => ?_⟩
      obtain ⟨hfirst, -⟩ := List.pairwise_cons.mp hsort
      obtain ⟨y, hy⟩ := Option.isSome_iff_exists.mp hsome
      have hnum : y.number = e.number := by simpa using List.find?_some hy
      rcases List.mem_cons.mp (List.mem_of_find?_eq_some hy) with rfl | hmem
      · exact absurd (hnum ▸ hlt) (BitVec.lt_irrefl _)
      · exact absurd (BitVec.lt_trans hlt (hnum ▸ hfirst y hmem)) (BitVec.lt_irrefl _)
    · split
      · exact ⟨Nat.le_succ _, fun _ _ => rfl⟩
      · next hne =>
        refine ⟨Nat.succ_le_succ ih.1, fun hsome hsort => congrArg Nat.succ (ih.2 ?_ (List.pairwise_cons.mp hsort).2)⟩
        rwa [List.find?_cons_of_neg (by simpa using fun a => hne a.symm)] at hsome

/-- An entry that is sound by R20, its place in the table aside. -/
abbrev CredSound (e : Cred) : Prop := e.number ≠ 0#24 ∧ CredBounds e

/-- Every booking keeps the credential table sound (R20). -/
theorem Booking.credInv {b : Prop} {s t : State} (k : Booking b s t) (h : CredInv s) : CredInv t := by
  have hsorted := k.credsSorted h.1
  obtain ⟨hsort, hlen, hsound⟩ := h
  refine ⟨hsorted, ?_⟩
  have hwrite : ∀ (c : CredNo) (f : Cred → Cred), t.creds = s.creds.map (fun e => if e.number = c then f e else e) →
      (∀ e ∈ s.creds, e.number = c → CredSound e → CredSound (f e)) →
      t.creds.length ≤ 2048 ∧ ∀ e ∈ t.creds, CredSound e := by
    intro c f hc hf
    rw [hc]
    refine ⟨by rwa [List.length_map], fun e' he' => ?_⟩
    obtain ⟨e, he, ⟨hn, rfl⟩ | ⟨-, rfl⟩⟩ := mem_write he'
    · exact hf e he hn (hsound e he)
    · exact hsound _ he
  have hsub : ∀ p : Cred → Bool, t.creds = s.creds.filter p → t.creds.length ≤ 2048 ∧ ∀ e ∈ t.creds, CredSound e := by
    intro p hc
    rw [hc]
    exact ⟨(List.length_filter_le _ _).trans hlen, fun e he => hsound e (List.mem_filter.mp he).1⟩
  cases k with
  | kept _ hc _ => exact hc ▸ ⟨hlen, hsound⟩
  | classSet _ hc _ _ => exact hc ▸ ⟨hlen, hsound⟩
  | reset _ hc _ _ =>
    rw [hc]
    exact ⟨Nat.zero_le _, fun _ he => absurd he List.not_mem_nil⟩
  | loaded e _ hc _ hn hb hroom _ _ =>
    rw [hc]
    refine ⟨?_, fun x hx => ?_⟩
    · obtain ⟨hadd, hsame⟩ := length_insertCred e s.creds
      rcases hroom with hsome | hroom
      · rw [hsame hsome hsort]
        exact hlen
      · omega
    · rcases mem_insertCred hx with rfl | hx
      · exact ⟨hn, hb⟩
      · exact hsound x hx
  | written c f _ hc _ hn _ hentry =>
    refine hwrite c f hc (fun e he hnum hs => ⟨?_, (hentry hsort e he hnum).1 hs.2⟩)
    rw [hn]
    exact hs.1
  | dropped c _ hc _ _ => exact hsub _ hc
  | withdrawn n _ hc _ =>
    rw [hc]
    refine ⟨(length_withdraw n _).trans hlen, fun e' he' => ?_⟩
    obtain ⟨e, he, -, rfl⟩ := mem_withdraw he'
    have := hsound e he
    split
    · exact this
    · exact this
  | admitted r e _ _ _ _ _ hc => exact hwrite r.cred _ hc (fun _ _ _ hs => hs)
  | ended r _ _ hc _ =>
    rcases s.endRideOf_creds r.cred with ⟨e, -⟩ | ⟨-, -, ⟨-, -, e⟩ | ⟨-, e⟩⟩
    · exact (hc.trans e) ▸ ⟨hlen, hsound⟩
    · exact hsub _ (hc.trans e)
    · exact hwrite r.cred _ (hc.trans e) (fun _ _ _ hs => hs)

theorem Ledger.credInv {b : Prop} {s t : State} (k : Ledger b s t) (h : CredInv s) : CredInv t := by
  induction k with
  | refl => exact h
  | tail _ k ih => exact k.credInv ih

/-! ## Open-ride counts (R22, R29) -/

theorem State.findCred_congr {s t : State} (h : t.creds = s.creds) (c : CredNo) : t.findCred c = s.findCred c := by
  unfold State.findCred
  rw [h]

/-- What a withdrawal by a sweep leaves of an entry (R35). -/
def withdrawnEntry (n : Byte) (e : Cred) : Option Cred :=
  if e.mark = n then some e else if e.openRides = 0 then none else some { e with state := .lapsed }

theorem findCred_withdraw {s : State} (hs : CredsSorted s) (n : Byte) (c : CredNo) :
    State.findCred { s with creds := withdraw n s.creds } c = (s.findCred c).bind (withdrawnEntry n) := by
  unfold CredsSorted at hs
  unfold State.findCred
  dsimp only
  generalize s.creds = xs at hs
  induction xs with
  | nil => rfl
  | cons x xs ih =>
    obtain ⟨hfirst, hrest⟩ := List.pairwise_cons.mp hs
    have hstep : withdraw n (x :: xs) = (withdrawnEntry n x).toList ++ withdraw n xs := by
      unfold withdraw withdrawnEntry
      by_cases hm : x.mark = n
      · simp [hm]
      · by_cases hc : x.openRides = 0 <;> simp [hm, hc]
    have hnum : ∀ y ∈ (withdrawnEntry n x), y.number = x.number := by
      intro y hy
      unfold withdrawnEntry at hy
      split at hy
      · cases hy; rfl
      · split at hy
        · cases hy
        · cases hy; rfl
    rw [hstep, List.find?_append]
    by_cases hxc : x.number = c
    · have hnone : (withdraw n xs).find? (fun e => decide (e.number = c)) = none := by
        have hgone : xs.find? (fun e => decide (e.number = c)) = none := by
          refine List.find?_eq_none.mpr (fun y hy hyc => ?_)
          exact BitVec.lt_irrefl _ (hxc ▸ (of_decide_eq_true hyc) ▸ hfirst y hy)
        rw [ih hrest, hgone]
        rfl
      rw [hnone, List.find?_cons_of_pos (by simpa using hxc), Option.bind_some]
      cases hx : withdrawnEntry n x with
      | none => rfl
      | some y => simp [(hnum y hx).trans hxc]
    · rw [List.find?_cons_of_neg (by simpa using hxc), ← ih hrest]
      cases hx : withdrawnEntry n x with
      | none => rfl
      | some y =>
        have hyc : y.number ≠ c := fun e => hxc ((hnum y hx).symm.trans e)
        simp [hyc]

/-- The number of rides that name a credential. -/
def State.ridesOf (s : State) (c : CredNo) : Nat := s.rides.countP (fun r => decide (r.cred = c))

theorem State.ridesOf_of_keys {s t : State} (h : t.rides.map Ride.key = s.rides.map Ride.key) (c : CredNo) :
    t.ridesOf c = s.ridesOf c := by
  have hcount : ∀ u : State, u.ridesOf c = (u.rides.map Ride.key).countP (fun k => decide (k.2 = c)) := by
    intro u
    rw [List.countP_map]
    rfl
  rw [hcount, hcount, h]

theorem State.ridesOf_eq_zero {s : State} {c : CredNo} : s.ridesOf c = 0 ↔ ∀ r ∈ s.rides, r.cred ≠ c := by
  simp [State.ridesOf, List.countP_eq_zero]

theorem State.ridesOf_ne_zero {s : State} {r : Ride} (h : r ∈ s.rides) : s.ridesOf r.cred ≠ 0 :=
  fun e => State.ridesOf_eq_zero.mp e r h rfl

/-- An entry whose count is the number of its rides, within R22 and R29. -/
abbrev EntryCounted (s : State) (c : CredNo) (e : Cred) : Prop :=
  e.openRides = s.ridesOf c ∧ e.openRides ≤ 4 ∧ (e.state = .lapsed → e.openRides ≠ 0)

/-- What the counts say by lookup: a credential with rides has an entry, and every entry counts its rides. -/
structure Counted (s : State) : Prop where
  named : ∀ c, s.ridesOf c ≠ 0 → s.findCred c ≠ none
  count : ∀ c e, s.findCred c = some e → EntryCounted s c e

theorem CountInv.counted {s : State} (h : CountInv s) : Counted s := by
  obtain ⟨-, hs, -, hnamed, hcount⟩ := h
  refine ⟨fun c hc hnone => hc (State.ridesOf_eq_zero.mpr (fun r hr hrc => ?_)), fun c e he => ?_⟩
  · obtain ⟨e, he, hn⟩ := hnamed r hr
    have hfind := State.findCred_of_mem hs he
    rw [hn, hrc, hnone] at hfind
    cases hfind
  · obtain ⟨hmem, rfl⟩ := State.findCred_some he
    exact hcount e hmem

theorem Counted.countInv {s : State} (h : Counted s) (hr : RidesSorted s) (hs : CredsSorted s)
    (hl : ∀ c : Fin 4, (s.classes.get c).limit ≤ 4) : CountInv s := by
  refine ⟨hr, hs, hl, fun r hr => ?_, fun e he => h.count e.number e (State.findCred_of_mem hs he)⟩
  obtain ⟨e, he⟩ := Option.ne_none_iff_exists'.mp (h.named r.cred (State.ridesOf_ne_zero hr))
  obtain ⟨hmem, hn⟩ := State.findCred_some he
  exact ⟨e, hmem, hn⟩

/-- Entries that stand, with rides that keep their credentials. -/
theorem Counted.congr {s t : State} (h : Counted s) (hc : ∀ c, t.findCred c = s.findCred c)
    (hr : ∀ c, t.ridesOf c = s.ridesOf c) : Counted t := by
  refine ⟨fun c hrc => ?_, fun c e he => ?_⟩
  · rw [hc]
    exact h.named c (hr c ▸ hrc)
  · unfold EntryCounted
    rw [hr]
    exact h.count c e (hc c ▸ he)

/-- One credential and its rides change, and the others stand. -/
theorem Counted.change {s t : State} (h : Counted s) (c : CredNo) (hc : ∀ c', c' ≠ c → t.findCred c' = s.findCred c')
    (hr : ∀ c', c' ≠ c → t.ridesOf c' = s.ridesOf c') (hnone : t.findCred c = none → t.ridesOf c = 0)
    (hsome : ∀ e, t.findCred c = some e → EntryCounted t c e) : Counted t := by
  refine ⟨fun c' hrc hno => ?_, fun c' e he => ?_⟩
  · by_cases hcc : c' = c
    · subst hcc
      exact hrc (hnone hno)
    · rw [hc c' hcc] at hno
      exact h.named c' (hr c' hcc ▸ hrc) hno
  · by_cases hcc : c' = c
    · subst hcc
      exact hsome e he
    · unfold EntryCounted
      rw [hr c' hcc]
      exact h.count c' e (hc c' hcc ▸ he)

/-- A ride that leaves a table in order leaves one ride fewer of its credential, and as many of any other. -/
theorem countP_drop {xs : List Ride} (h : xs.Pairwise (fun a b => a.number < b.number)) {r : Ride} (hr : r ∈ xs)
    (c : CredNo) : (xs.filter (fun x => decide (x.number ≠ r.number))).countP (fun x => decide (x.cred = c)) +
      (if r.cred = c then 1 else 0) = xs.countP (fun x => decide (x.cred = c)) := by
  induction xs with
  | nil => exact absurd hr List.not_mem_nil
  | cons x xs ih =>
    obtain ⟨hfirst, hrest⟩ := List.pairwise_cons.mp h
    rcases List.mem_cons.mp hr with rfl | hmem
    · have hstay : xs.filter (fun x => decide (x.number ≠ r.number)) = xs := by
        refine List.filter_eq_self.mpr (fun y hy => ?_)
        have hne : y.number ≠ r.number := fun e => BitVec.lt_irrefl _ (e ▸ hfirst y hy)
        simpa using hne
      rw [List.filter_cons_of_neg (by simp), hstay, List.countP_cons]
      simp
    · have hne : x.number ≠ r.number := fun e => BitVec.lt_irrefl _ (e ▸ hfirst r hmem)
      rw [List.filter_cons_of_pos (by simpa using hne), List.countP_cons, List.countP_cons, ← ih hrest hmem]
      omega

namespace Booking

variable {b : Prop} {s t : State}

/-- Every booking keeps the rides in order (R64). -/
theorem ridesSorted (k : Booking b s t) (h : RidesSorted s) : RidesSorted t := by
  unfold RidesSorted at h ⊢
  cases k with
  | kept _ _ hr =>
    have hkeys : ∀ xs : List Ride, xs.Pairwise (fun x y => x.number < y.number) ↔
        (xs.map Ride.key).Pairwise (fun x y => x.1 < y.1) := fun _ => Iff.symm List.pairwise_map
    rw [hkeys, hr, ← hkeys]
    exact h
  | reset _ _ hr _ => exact hr ▸ List.Pairwise.nil
  | admitted r _ _ _ _ _ hr _ => exact hr ▸ sorted_insertRide r h
  | ended r _ _ _ hr => exact hr ▸ h.filter _
  | classSet _ _ hr _ => exact hr ▸ h
  | loaded _ _ _ hr _ _ _ _ _ => exact hr ▸ h
  | written _ _ _ _ hr _ _ _ => exact hr ▸ h
  | dropped _ _ _ hr _ => exact hr ▸ h
  | withdrawn _ _ _ hr => exact hr ▸ h

/-- Every booking keeps the class limits at most 4 (R5). -/
theorem limits (k : Booking b s t) (h : ∀ c : Fin 4, (s.classes.get c).limit ≤ 4) :
    ∀ c : Fin 4, (t.classes.get c).limit ≤ 4 := by
  have hstay : Aside s t → ∀ c : Fin 4, (t.classes.get c).limit ≤ 4 := fun a c => a.classes ▸ h c
  cases k with
  | classSet _ _ _ hl =>
    intro c
    rcases hl c with hle | heq
    · exact hle
    · exact heq ▸ h c
  | reset _ _ _ hl => exact hl
  | kept a _ _ => exact hstay a
  | loaded _ a _ _ _ _ _ _ _ => exact hstay a
  | written _ _ a _ _ _ _ _ => exact hstay a
  | dropped _ a _ _ _ => exact hstay a
  | withdrawn _ a _ _ => exact hstay a
  | admitted _ _ a _ _ _ _ _ => exact hstay a
  | ended _ a _ _ _ => exact hstay a

/-- A load keeps the count of the entry it replaces, and starts at 0 for a new one, which no ride names (R24). -/
theorem counted_loaded {e : Cred} (h : Counted s) (hc : t.creds = insertCred e s.creds) (hr : t.rides = s.rides)
    (hcount : e.openRides = loadOpenRides (s.findCred e.number)) (hstate : e.state ≠ .lapsed) : Counted t := by
  have hfind : ∀ c, t.findCred c = if c = e.number then some e else s.findCred c := by
    intro c
    rw [← s.findCred_putCred e c]
    exact State.findCred_congr (s := s.putCred e) hc c
  have hrides : ∀ c, t.ridesOf c = s.ridesOf c := State.ridesOf_of_keys (congrArg _ hr)
  refine h.change e.number (fun c hne => by rw [hfind, if_neg hne]) (fun c _ => hrides c) (fun hno => ?_)
    (fun x hx => ?_)
  · rw [hfind, if_pos rfl] at hno
    cases hno
  · rw [hfind, if_pos rfl] at hx
    cases hx
    unfold EntryCounted
    rw [hcount, hrides]
    cases hold : s.findCred e.number with
    | none =>
      have hzero : s.ridesOf e.number = 0 := by
        by_contra hne
        exact h.named _ hne hold
      exact ⟨hzero.symm, Nat.zero_le _, fun hl => absurd hl hstate⟩
    | some e0 =>
      obtain ⟨heq, hle, -⟩ := h.count _ e0 hold
      exact ⟨heq, hle, fun hl => absurd hl hstate⟩

/-- A write keeps the count, and makes no entry without rides LAPSED. -/
theorem counted_written {c : CredNo} {f : Cred → Cred} (h : Counted s)
    (hc : t.creds = s.creds.map (fun e => if e.number = c then f e else e)) (hr : t.rides = s.rides)
    (hn : ∀ e, (f e).number = e.number) (hcount : ∀ e, (f e).openRides = e.openRides)
    (hlapsed : ∀ e ∈ s.creds, e.number = c → (f e).state = .lapsed → e.state = .lapsed ∨ e.openRides ≠ 0) :
    Counted t := by
  have hfind : ∀ c', t.findCred c' = (s.findCred c').map (fun e => if c' = c then f e else e) := by
    intro c'
    rw [← State.findCred_updCred s c c' hn]
    exact State.findCred_congr (s := s.updCred c f) hc c'
  have hrides : ∀ c, t.ridesOf c = s.ridesOf c := State.ridesOf_of_keys (congrArg _ hr)
  refine h.change c (fun c' hne => ?_) (fun c' _ => hrides c') (fun hno => ?_) (fun x hx => ?_)
  · rw [hfind]
    simp [hne]
  · rw [hfind, Option.map_eq_none_iff] at hno
    rw [hrides]
    by_contra hne
    exact h.named c hne hno
  · rw [hfind] at hx
    obtain ⟨e, he, hex⟩ := Option.map_eq_some_iff.mp hx
    rw [if_pos rfl] at hex
    subst hex
    obtain ⟨hmem, hnum⟩ := State.findCred_some he
    obtain ⟨heq, hle, hl⟩ := h.count c e he
    unfold EntryCounted
    rw [hcount, hrides]
    refine ⟨heq, hle, fun hf => ?_⟩
    rcases hlapsed e hmem hnum hf with hes | hne
    · exact hl hes
    · exact hne

/-- Entries without rides may go (R30, R35). -/
theorem counted_dropped {c : CredNo} (h : Counted s) (hc : t.creds = s.creds.filter (fun e => decide (e.number ≠ c)))
    (hr : t.rides = s.rides) (hcount : ∀ e ∈ s.creds, e.number = c → e.openRides = 0) : Counted t := by
  have hfind : ∀ c', t.findCred c' = if c' = c then none else s.findCred c' := by
    intro c'
    rw [← s.findCred_dropCred c c']
    exact State.findCred_congr (s := s.dropCred c) hc c'
  have hrides : ∀ c, t.ridesOf c = s.ridesOf c := State.ridesOf_of_keys (congrArg _ hr)
  refine h.change c (fun c' hne => by rw [hfind, if_neg hne]) (fun c' _ => hrides c') (fun _ => ?_) (fun x hx => ?_)
  · rw [hrides]
    by_contra hne
    obtain ⟨e, he⟩ := Option.ne_none_iff_exists'.mp (h.named c hne)
    obtain ⟨hmem, hnum⟩ := State.findCred_some he
    exact hne ((h.count c e he).1.symm.trans (hcount e hmem hnum))
  · rw [hfind, if_pos rfl] at hx
    cases hx

theorem counted_withdrawn {n : Byte} (h : Counted s) (hs : CredsSorted s) (hc : t.creds = withdraw n s.creds)
    (hr : t.rides = s.rides) : Counted t := by
  have hfind : ∀ c, t.findCred c = (s.findCred c).bind (withdrawnEntry n) := by
    intro c
    rw [← findCred_withdraw hs n c]
    exact State.findCred_congr (s := { s with creds := withdraw n s.creds }) hc c
  have hrides : ∀ c, t.ridesOf c = s.ridesOf c := State.ridesOf_of_keys (congrArg _ hr)
  refine ⟨fun c hrc hno => ?_, fun c e he => ?_⟩
  · rw [hrides] at hrc
    obtain ⟨e, he⟩ := Option.ne_none_iff_exists'.mp (h.named c hrc)
    rw [hfind, he, Option.bind_some, withdrawnEntry] at hno
    split at hno
    · cases hno
    · split at hno
      · next hzero => exact hrc ((h.count c e he).1.symm.trans hzero)
      · cases hno
  · rw [hfind] at he
    obtain ⟨e0, he0, hx⟩ := Option.bind_eq_some_iff.mp he
    obtain ⟨heq, hle, hl⟩ := h.count c e0 he0
    unfold EntryCounted
    rw [hrides]
    unfold withdrawnEntry at hx
    split at hx
    · cases hx
      exact ⟨heq, hle, hl⟩
    · split at hx
      · cases hx
      · next hne =>
        cases hx
        exact ⟨heq, hle, fun _ => hne⟩

/-- An admission raises the count of an entry below its class limit by its new ride (R55, R57). -/
theorem counted_admitted {r : Ride} {e : Cred} (h : Counted s) (hfresh : s.findRide r.number = none)
    (he : s.findCred r.cred = some e) (hlimit : e.openRides < 4) (hr : t.rides = insertRide r s.rides)
    (hc : t.creds = s.creds.map (fun e => if e.number = r.cred then { e with openRides := e.openRides + 1 } else e)) :
    Counted t := by
  have hfind : ∀ c', t.findCred c' =
      (s.findCred c').map (fun e => if c' = r.cred then { e with openRides := e.openRides + 1 } else e) := by
    intro c'
    rw [← State.findCred_updCred s r.cred c' (f := fun e => { e with openRides := e.openRides + 1 }) (fun _ => rfl)]
    exact State.findCred_congr (s := s.updCred r.cred _) hc c'
  have hrides : ∀ c, t.ridesOf c = s.ridesOf c + if r.cred = c then 1 else 0 := by
    intro c
    have hperm := perm_insertRide r (xs := s.rides) (fun x hx hn => by
      have := List.find?_eq_none.mp hfresh x hx
      simp [hn] at this)
    unfold State.ridesOf
    rw [hr, hperm.countP_eq, List.countP_cons]
    simp
  refine h.change r.cred (fun c hne => ?_) (fun c hne => ?_) (fun hno => ?_) (fun x hx => ?_)
  · rw [hfind]
    simp [hne]
  · rw [hrides, if_neg (fun e => hne e.symm), Nat.add_zero]
  · rw [hfind, he] at hno
    cases hno
  · rw [hfind, he, Option.map_some, if_pos rfl] at hx
    cases hx
    unfold EntryCounted
    rw [hrides, if_pos rfl]
    obtain ⟨heq, -⟩ := h.count _ e he
    exact ⟨congrArg Nat.succ heq, hlimit, fun _ => Nat.succ_ne_zero _⟩

/-- The end of a ride lowers the count of its entry, and takes a LAPSED entry with its last ride (R22, R29). -/
theorem counted_ended {r : Ride} (h : Counted s) (hs : RidesSorted s) (hnames : s.Names r)
    (hc : t.creds = (s.endRideOf r.cred).creds) (hr : t.rides = s.rides.filter (fun x => decide (x.number ≠ r.number))) :
    Counted t := by
  obtain ⟨x, hx, hnum, hcred⟩ := hnames
  have hfind : ∀ c, t.findCred c = if c = r.cred then (s.findCred r.cred).bind cancelledEntry else s.findCred c := by
    intro c
    rw [← s.findCred_endRideOf r.cred c]
    exact State.findCred_congr hc c
  have hrides : ∀ c, t.ridesOf c + (if r.cred = c then 1 else 0) = s.ridesOf c := by
    intro c
    have := countP_drop hs hx c
    rw [hnum, hcred] at this
    unfold State.ridesOf
    rw [hr]
    exact this
  have hlast := hrides r.cred
  rw [if_pos rfl] at hlast
  obtain ⟨e, he⟩ := Option.ne_none_iff_exists'.mp (h.named r.cred (by omega))
  obtain ⟨heq, hle, -⟩ := h.count _ e he
  have hentry : t.findCred r.cred = cancelledEntry e := by rw [hfind, if_pos rfl, he, Option.bind_some]
  refine h.change r.cred (fun c hne => by rw [hfind, if_neg hne]) (fun c hne => ?_) (fun hno => ?_) (fun y hy => ?_)
  · have := hrides c
    rwa [if_neg (fun e => hne e.symm)] at this
  · rw [hentry, cancelledEntry] at hno
    split at hno
    · omega
    · cases hno
  · rw [hentry, cancelledEntry] at hy
    split at hy
    · cases hy
    · next hkeep =>
      cases hy
      refine ⟨show e.openRides - 1 = _ by omega, show e.openRides - 1 ≤ 4 by omega, fun hl => ?_⟩
      show e.openRides - 1 ≠ 0
      have : ¬ e.openRides ≤ 1 := fun a => hkeep ⟨hl, a⟩
      omega

/-- Every booking keeps each open-ride count equal to the number of rides (R22, R28, R29). -/
theorem countInv (k : Booking b s t) (hb : b) (h : CountInv s) : CountInv t := by
  have hcounted := h.counted
  obtain ⟨hr, hs, hl, -⟩ := h
  refine Counted.countInv ?_ (k.ridesSorted hr) (k.credsSorted hs) (k.limits hl)
  cases k with
  | kept _ hc hk => exact hcounted.congr (State.findCred_congr hc) (State.ridesOf_of_keys hk)
  | classSet _ hc hk _ => exact hcounted.congr (State.findCred_congr hc) (State.ridesOf_of_keys (congrArg _ hk))
  | reset _ hc hk _ =>
    refine ⟨fun c hne => absurd (State.ridesOf_eq_zero.mpr (fun r hr => ?_)) hne, fun c e he => ?_⟩
    · rw [hk] at hr
      cases hr
    · rw [State.findCred, hc] at he
      cases he
  | loaded e _ hc hk _ _ _ hn hst => exact counted_loaded hcounted hc hk hn hst
  | written c f _ hc hk hn hcount hentry =>
    exact counted_written hcounted hc hk hn hcount (fun e he hnum => (hentry hs e he hnum).2)
  | dropped c _ hc hk hcount => exact counted_dropped hcounted hc hk (hcount hs)
  | withdrawn n _ hc hk => exact counted_withdrawn hcounted hs hc hk
  | admitted r e _ hfresh hfound hlimit hk hc =>
    exact counted_admitted hcounted (hfresh hb) hfound (Nat.lt_of_lt_of_le hlimit (hl _)) hk hc
  | ended r _ hnames hc hk => exact counted_ended hcounted hr hnames hc hk

end Booking

theorem Ledger.countInv {b : Prop} {s t : State} (k : Ledger b s t) (hb : b) (h : CountInv s) : CountInv t := by
  induction k with
  | refl => exact h
  | tail _ k ih => exact k.countInv hb ih

/-! ## What the ledger says of a step -/

/-- The next state of a step agrees on entries, rides and classes with one that the ledger leads to. -/
theorem step_ledger {s t : State} (h : step s = .next t) :
    ∃ u, s.Books u ∧ t.creds = u.creds ∧ t.rides = u.rides ∧ t.classes = u.classes := by
  unfold step at h
  split at h
  · injection h with h
    exact ⟨t, h ▸ Ledger.refl _ s, rfl, rfl, rfl⟩
  · next c rest _ =>
    obtain ⟨u, hledger, hout⟩ := exec_inLedger c { s with pending := rest }
    refine ⟨u, ?_, ?_⟩
    · have hstart : s.Books { s with pending := rest } := (Ledger.refl _ s).same rfl rfl rfl rfl rfl
      exact Relation.ReflTransGen.trans hstart hledger
    · rcases hout with e | ⟨e, -⟩
      · rw [e] at h
        injection h with h
        have hpool := latchStoreLow_pool { s with pending := rest }.free.length u
        exact h ▸ ⟨hpool.creds, hpool.rides, hpool.station.1.2.2.2.1⟩
      · rw [e] at h
        injection h with h
        exact h ▸ ⟨rfl, rfl, rfl⟩

end Sys2Proof.Machine

namespace Sys2Proof.Proofs

open Sys2Proof.Machine

/-- Settles O53: a step is a chain of bookings, and each booking keeps the table sound. -/
theorem credKept : Obligations.CredKept := by
  intro s t hinv hstep
  obtain ⟨u, hledger, hcreds, -, -⟩ := step_ledger hstep
  have hu := hledger.credInv hinv
  unfold CredInv CredsSorted at hu ⊢
  rw [hcreds]
  exact hu

/-- Settles O54: each booking keeps the counts; the bound on the ride table lets an admission find a free number. -/
theorem countKept : Obligations.CountKept := by
  intro s t hinv hbound hstep
  obtain ⟨u, hledger, hcreds, hrides, hclasses⟩ := step_ledger hstep
  have hlen : s.rides.length < 65534 := Nat.lt_of_le_of_lt hbound.1 (by omega)
  have hu := hledger.countInv hlen hinv
  unfold CountInv RidesSorted CredsSorted at hu ⊢
  rw [hcreds, hrides, hclasses]
  exact hu

end Sys2Proof.Proofs
end
section
/-! PROOFS. CRED BALANCE and the four reads (R27, R31, R85, R104, R178). -/

namespace Sys2Proof.Machine

/-! ## CRED BALANCE (R27) -/

/-- A status by whether nothing was clamped. -/
theorem okOr_not (p : Prop) [Decidable p] : okOr (decide (¬ p)) = if p then .ok else .clamped := by
  by_cases h : p <;> simp [okOr, h]

theorem newBalance_of_le {mode : Byte} (h : 2 ≤ mode.toNat) (old amount : Int) : newBalance mode old amount = none := by
  have h0 : mode ≠ 0#8 := by rintro rfl; simp at h
  have h1 : mode ≠ 1#8 := by rintro rfl; simp at h
  rw [newBalance, if_neg h0, if_neg h1]

theorem newBalance_of_lt {mode : Byte} (h : mode.toNat < 2) (old amount : Int) :
    newBalance mode old amount = some (if mode = 0#8 then amount else old + amount) := by
  unfold newBalance
  split
  · rfl
  · next h0 => rw [if_pos (by bv_omega)]

/-- An update of the entry that a lookup finds may read that entry. -/
theorem State.updCred_eq {s : State} (hs : CredsSorted s) {c : CredNo} {e : Cred} (he : s.findCred c = some e)
    {f g : Cred → Cred} (h : f e = g e) : s.updCred c f = s.updCred c g := by
  unfold State.updCred
  refine congrArg (fun xs => { s with creds := xs }) (List.map_congr_left (fun x hx => ?_))
  split
  · next hn => rw [State.findCred_unique hs he hx hn, h]
  · rfl

/-- CRED BALANCE of an entry, with a mode of the table. -/
theorem credBalanceRule_next {s : State} (hs : CredsSorted s) {c : CredNo} {e : Cred} (he : s.findCred c = some e)
    {mode : Byte} (hm : mode.toNat < 2) (amount : Word16) :
    let new : Int := if mode = 0#8 then amount.toInt else e.balance + amount.toInt
    credBalanceRule c mode amount s = (s.updCred c (fun x => { x with balance := clampBalance e.overdraft new }),
      ⟨if clampBalance e.overdraft new = new then .ok else .clamped, .none⟩) := by
  intro new
  unfold credBalanceRule
  rw [he]
  dsimp only
  rw [newBalance_of_lt hm]
  dsimp only
  rw [okOr_not]
  exact congrArg (fun u : State => (u, _)) (State.updCred_eq hs he rfl)

/-! ## Reads -/

theorem dockOfCode_ofNat (d : DockIx) : dockOfCode (BitVec.ofNat 8 d.val) = some d := by
  have hd : (BitVec.ofNat 8 d.val).toNat = d.val := by
    rw [BitVec.toNat_ofNat]
    exact Nat.mod_eq_of_lt (Nat.lt_trans d.isLt (by decide))
  unfold dockOfCode
  rw [dif_pos (by rw [hd]; exact d.isLt)]
  exact congrArg some (Fin.ext hd)

theorem dockOfCode_of_le {b : Byte} (h : 60 ≤ b.toNat) : dockOfCode b = none := dif_neg (Nat.not_lt.mpr h)

/-- The answer of a read: what the lookup found, or NOT_FOUND. -/
def readAnswer {α : Type} (found : Option α) (f : α → Fields) : Reply :=
  found.elim ⟨.notFound, .none⟩ (fun x => ⟨.ok, f x⟩)

theorem readCredRule_eq (c : CredNo) (s : State) :
    readCredRule c s = (s, readAnswer (s.findCred c) (fun e => .cred e.report)) := by
  unfold readCredRule
  cases s.findCred c <;> rfl

theorem readRideRule_refuses {sel : Byte} {v : BitVec 32} (h : 2 ≤ sel.toNat ∨ v = 0#32) (s : State) :
    readRideRule sel v s = answer s .badValue := if_pos (h.symm.imp_right (fun hsel => hsel))

theorem readRideRule_eq {sel : Byte} {v : BitVec 32} (hv : v ≠ 0#32) (hsel : sel.toNat < 2) (s : State) :
    readRideRule sel v s = (s, readAnswer (rideNamed s sel v) .ride) := by
  refine (if_neg (by simp only [hv, false_or]; omega)).trans ?_
  cases rideNamed s sel v <;> rfl

/-- Selector 0 names the ride of a number (R85). -/
theorem rideNamed_number (s : State) (n : RideNo) : rideNamed s 0#8 (n.setWidth 32) = s.findRide n := by
  have hlt : (n.setWidth 32).toNat = n.toNat := by
    rw [BitVec.toNat_setWidth]
    exact Nat.mod_eq_of_lt (Nat.lt_trans n.isLt (by decide))
  rw [rideNamed, if_pos rfl, if_pos (by rw [hlt]; exact n.isLt), hlt, BitVec.ofNat_toNat, BitVec.setWidth_eq]

theorem rideNamed_large (s : State) {v : BitVec 32} (h : 65536 ≤ v.toNat) : rideNamed s 0#8 v = none := by
  rw [rideNamed, if_pos rfl, if_neg (Nat.not_lt.mpr h)]

end Sys2Proof.Machine

namespace Sys2Proof.Proofs

open Sys2Proof.Machine

/-- Settles O15. -/
theorem credBalanceWrites : Obligations.CredBalanceWrites := by
  intro s c mode amount
  refine ⟨fun hs hc => ?_, fun hs hc hm => ?_, fun e hs hsorted he hm => ?_, fun hs => request_refused hs _ _ rfl⟩
  · refine request_refused hs _ _ ?_
    rw [onlyN_n, credBalanceRule, hc]
  · obtain ⟨e, he⟩ := Option.isSome_iff_exists.mp hc
    refine request_refused hs _ _ ?_
    rw [onlyN_n, credBalanceRule, he]
    dsimp only
    rw [newBalance_of_le hm]
  · exact request_next hs _ _ (credBalanceRule_next hsorted he hm amount) (Nat.le_refl _)

/-- Settles O19: each read looks up what it names and answers it. -/
theorem readsChangeNothing : Obligations.ReadsChangeNothing := by
  intro s p hs
  refine ⟨fun c => ?_, fun n hn => ?_, fun v hv => ?_, fun g hg => ?_, fun sel v h => ?_, fun d => ?_, fun b hb => ?_, ?_⟩
  · refine (request_refused (rule := readCredRule c) hs _ _ (readCredRule_eq c s)).trans ?_
    cases s.findCred c <;> rfl
  · have hv : n.setWidth 32 ≠ 0#32 := by bv_omega
    refine (request_refused (rule := readRideRule 0#8 (n.setWidth 32)) hs _ _ (readRideRule_eq hv (by decide) s)).trans ?_
    rw [rideNamed_number]
    cases s.findRide n <;> rfl
  · have hv0 : v ≠ 0#32 := by rintro rfl; simp at hv
    refine (request_refused (rule := readRideRule 0#8 v) hs _ _ (readRideRule_eq hv0 (by decide) s)).trans ?_
    rw [rideNamed_large s hv]
    rfl
  · refine (request_refused (rule := readRideRule 1#8 g) hs _ _ (readRideRule_eq hg (by decide) s)).trans ?_
    have htag : rideNamed s 1#8 g = s.rideOfTag g := rfl
    rw [htag]
    cases s.rideOfTag g <;> rfl
  · exact request_refused hs _ _ (readRideRule_refuses h s)
  · refine request_refused hs _ _ ?_
    have hgrant : decide (d ∈ s.grants) = s.granted d := by rw [State.granted, List.contains_eq_mem]
    rw [readDockRule, dockOfCode_ofNat, hgrant]
  · refine request_refused hs _ _ ?_
    rw [readDockRule, dockOfCode_of_le hb]
  · refine request_refused hs _ _ ?_
    rw [readStationRule, State.report, List.countP_eq_length_filter]

end Sys2Proof.Proofs
end
section
/-! PROOFS. CRED LOAD of a state that cancels no ride; SWEEP OPEN and the abandonment of a sweep (R24, R34, R37, R38). -/

namespace Sys2Proof.Machine

/-- A request by the state and the reply of its rule. -/
theorem request_answers {p : Port} {s t : State} {st : Status} {f : Fields} {rule : State → State × Reply}
    (hs : s.takes p) (code : Byte) (n : Nat) (h : rule s = (t, ⟨st, f⟩)) :
    request p code n rule s = .next (latchStoreLow s.free.length (t.answered p code n st f)) := by
  rw [request_takes hs, h]

/-! ## The checks of CRED LOAD (R24) -/

theorem settableState_of_le {b : Byte} (h : 3 ≤ b.toNat) : settableState b = none := by
  have h0 : b ≠ 0#8 := by rintro rfl; simp at h
  have h1 : b ≠ 1#8 := by rintro rfl; simp at h
  have h2 : b ≠ 2#8 := by rintro rfl; simp at h
  rw [settableState, if_neg h0, if_neg h1, if_neg h2]

/-- The codes below 2 name ACTIVE and SUSPENDED. -/
theorem settableState_of_lt {b : Byte} (h : b.toNat < 2) :
    settableState b = some (if b = 0#8 then .active else .suspended) := by
  unfold settableState
  split
  · rfl
  · next h0 => rw [if_pos (by bv_omega)]

theorem settableState_isSome {b : Byte} (h : b.toNat < 3) : ∃ st, settableState b = some st := by
  by_cases h2 : b.toNat < 2
  · exact ⟨_, settableState_of_lt h2⟩
  · exact ⟨.revoked, by rw [show b = 2#8 by bv_omega]; rfl⟩

/-- The sweep as every CRED LOAD leaves it (R38). -/
def State.idleRestarted (s : State) : Sweep :=
  if s.sweep.openNo = 0#8 then s.sweep else { s.sweep with idle := some ⟨0, s.settings.idleLimit⟩ }

theorem State.restartIdle_eq (s : State) : s.restartIdle = { s with sweep := s.idleRestarted } := by
  unfold State.restartIdle State.idleRestarted
  split <;> rfl

theorem State.idleRestarted_mark (s : State) :
    s.idleRestarted.mark = if s.sweep.openNo = 0#8 then s.sweep.lastClosed else s.sweep.openNo := by
  unfold State.idleRestarted Sweep.mark
  split <;> simp_all

theorem credLoadRule_refuses {c : CredNo} {st cls : Byte} (h : c = 0#24 ∨ 3 ≤ st.toNat ∨ 4 ≤ cls.toNat)
    (secret : BitVec 32) (counter balance overdraft : Word16) (keep : Byte) (s : State) :
    credLoadRule c st cls secret counter balance overdraft keep s =
      answer { s with sweep := s.idleRestarted } .badValue := by
  unfold credLoadRule
  dsimp only
  rw [State.restartIdle_eq]
  split
  · rfl
  · next hc =>
    split
    · rfl
    · next cl hcl =>
      have hcls : cls.toNat < 4 := by
        by_contra hle
        rw [classOfCode_of_le (Nat.not_lt.mp hle)] at hcl
        cases hcl
      have hst : 3 ≤ st.toNat := h.resolve_left hc |>.resolve_right (Nat.not_le.mpr hcls)
      rw [settableState_of_le hst]

theorem credLoadRule_full {c : CredNo} {st cls : Byte} (hc : c ≠ 0#24) (hst : st.toNat < 3) (hcls : cls.toNat < 4)
    {s : State} (hroom : ¬ ((s.findCred c).isSome = true ∨ s.creds.length < 2048)) (secret : BitVec 32)
    (counter balance overdraft : Word16) (keep : Byte) :
    credLoadRule c st cls secret counter balance overdraft keep s = answer { s with sweep := s.idleRestarted } .full := by
  obtain ⟨cs, hcs⟩ := settableState_isSome hst
  unfold credLoadRule
  dsimp only
  rw [State.restartIdle_eq, if_neg hc, classOfCode_of_lt hcls]
  dsimp only
  rw [hcs]
  rw [not_or, Nat.not_lt] at hroom
  exact if_pos ⟨Option.isNone_iff_eq_none.mpr (Option.not_isSome_iff_eq_none.mp hroom.1), hroom.2⟩

theorem credLoadRule_loads {c : CredNo} {st cls : Byte} {cs : CredState} (hc : c ≠ 0#24) (hst : settableState st = some cs)
    (hcls : cls.toNat < 4) {s : State} (hroom : (s.findCred c).isSome = true ∨ s.creds.length < 2048)
    (secret : BitVec 32) (counter balance overdraft : Word16) (keep : Byte) :
    credLoadRule c st cls secret counter balance overdraft keep s =
      State.loadCred { s with sweep := s.idleRestarted } c cs ⟨cls.toNat, hcls⟩ secret counter balance.toInt
        overdraft.toNat (decide (keep ≠ 0#8)) := by
  unfold credLoadRule
  dsimp only
  rw [State.restartIdle_eq, if_neg hc, classOfCode_of_lt hcls]
  dsimp only
  rw [hst]
  refine if_neg (fun hfull => ?_)
  obtain ⟨hnone, hlen⟩ := hfull
  rcases hroom with hsome | hlt
  · have hfind : (s.findCred c).isNone = true := hnone
    rw [Option.isNone_iff_eq_none] at hfind
    rw [hfind] at hsome
    cases hsome
  · exact absurd hlt (Nat.not_lt.mpr hlen)

/-! ## The entry that a CRED LOAD leaves (R24, R25, R33) -/

/-- The entry whose counter and balance a CRED LOAD with this keep-local byte keeps (R25). -/
def State.keptCred (s : State) (c : CredNo) (keep : Byte) : Option Cred := if keep = 0#8 then none else s.findCred c

/-- The balance a CRED LOAD starts from, before it is clamped (R25). -/
def State.loadedBalance (s : State) (c : CredNo) (balance : Word16) (keep : Byte) : Int :=
  ((s.keptCred c keep).map (fun e => e.balance)).getD balance.toInt

/-- The entry a CRED LOAD puts into the table. -/
def State.loadedCred (s : State) (c : CredNo) (st : CredState) (cls : Fin 4) (secret : BitVec 32)
    (counter balance overdraft : Word16) (keep : Byte) : Cred where
  number := c
  state := st
  cls := cls
  secret := secret
  counter := ((s.keptCred c keep).map (fun e => e.counter)).getD counter
  balance := max (-((min overdraft.toNat 32767 : Nat) : Int)) (min 32767 (s.loadedBalance c balance keep))
  overdraft := min overdraft.toNat 32767
  openRides := ((s.findCred c).map (fun e => e.openRides)).getD 0
  mark := if s.sweep.openNo = 0#8 then s.sweep.lastClosed else s.sweep.openNo

/-- CLAMPED exactly where the overdraft limit or the balance was clamped (R24). -/
def State.loadStatus (s : State) (c : CredNo) (balance overdraft : Word16) (keep : Byte) : Status :=
  if min overdraft.toNat 32767 = overdraft.toNat ∧
      max (-((min overdraft.toNat 32767 : Nat) : Int)) (min 32767 (s.loadedBalance c balance keep)) =
        s.loadedBalance c balance keep
  then .ok else .clamped

theorem loadBalance_eq (s : State) (c : CredNo) (balance : Word16) (keep : Byte) :
    loadBalance (s.findCred c) (decide (keep ≠ 0#8)) balance.toInt = s.loadedBalance c balance keep := by
  unfold loadBalance State.loadedBalance State.keptCred
  by_cases hk : keep = 0#8 <;> cases s.findCred c <;> simp [hk]

theorem loadCounter_eq (s : State) (c : CredNo) (counter : Word16) (keep : Byte) :
    loadCounter (s.findCred c) (decide (keep ≠ 0#8)) counter =
      ((s.keptCred c keep).map (fun e => e.counter)).getD counter := by
  unfold loadCounter State.keptCred
  by_cases hk : keep = 0#8 <;> cases s.findCred c <;> simp [hk]

theorem loadOpenRides_eq (old : Option Cred) : loadOpenRides old = (old.map (fun e => e.openRides)).getD 0 := by
  cases old <;> rfl

/-- A CRED LOAD puts its entry into the table, and one of REVOKED then cancels (R24, R28). -/
theorem State.loadCred_eq (s : State) (c : CredNo) (st : CredState) (cls : Fin 4) (secret : BitVec 32)
    (counter balance overdraft : Word16) (keep : Byte) :
    State.loadCred { s with sweep := s.idleRestarted } c st cls secret counter balance.toInt overdraft.toNat
        (decide (keep ≠ 0#8)) =
      let t := State.putCred { s with sweep := s.idleRestarted }
        (s.loadedCred c st cls secret counter balance overdraft keep)
      (if st = .revoked then t.cancelQueuedOf (fun x => decide (x = c)) else t,
        ⟨s.loadStatus c balance overdraft keep, .none⟩) := by
  have hfind : State.findCred { s with sweep := s.idleRestarted } c = s.findCred c := rfl
  unfold State.loadCred
  dsimp only
  rw [hfind, loadBalance_eq, loadCounter_eq, loadOpenRides_eq, s.idleRestarted_mark]
  refine congrArg (Prod.mk _) ?_
  have hstatus : ∀ p q : Prop, [Decidable p] → [Decidable q] →
      okOr (decide (¬ p ∨ ¬ q)) = if p ∧ q then Status.ok else Status.clamped := by
    intro p q _ _
    by_cases hp : p <;> by_cases hq : q <;> simp [okOr, hp, hq]
  exact congrArg (fun x => (⟨x, .none⟩ : Reply)) (hstatus _ _)

/-! ## What a notice leaves (R149, R155) -/

theorem State.notice_notified (s : State) (sub : Subject) (b : NoticeBody) :
    Notified s (s.notice sub b) s.free sub b := by
  rcases s.notice_cases sub b with ⟨hnone, e⟩ | ⟨hlevel, hsup, e⟩ <;> rw [e]
  · rw [Notified, if_pos hnone]
    exact ⟨rfl, rfl⟩
  · rw [Notified, if_neg (by simp [hlevel, hsup])]
    rcases s.postFree_cases b.kind (.notice sub s.minute s.second b) with ⟨n, rest, hfree, e⟩ | ⟨hfree, e⟩ <;> rw [e, hfree]
    · rw [if_neg (List.cons_ne_nil n rest)]
      exact ⟨rfl, length_insertTail _ _, fun x hx => mem_insertTail.mpr (.inr hx), mem_insertTail.mpr (.inl rfl)⟩
    · rw [if_pos rfl]
      exact ⟨(State.latch_free ..).trans hfree, State.latch_listN .., s.latch_latched_self evOverflow⟩

/-- What follows the notice leaves the free list, the Port N list and a latched OVERFLOW as they are. -/
theorem Notified.carry {s t u : State} {free : List Nat} {sub : Subject} {b : NoticeBody} (h : Notified s t free sub b)
    (hfree : u.free = t.free) (hlist : u.listN = t.listN) (hover : Overflowed t .n → Overflowed u .n) :
    Notified s u free sub b := by
  unfold Notified PostedN at h ⊢
  rw [hfree, hlist]
  split at h
  · next hnone => rw [if_pos hnone]; exact h
  · next hnone =>
    rw [if_neg hnone]
    split at h
    · next hempty =>
      obtain ⟨hf, hl, ho⟩ := h
      rw [if_pos hempty]
      exact ⟨hf, hl, hover ho⟩
    · next hempty => rw [if_neg hempty]; exact h

/-! ## Abandoning a sweep (R37) -/

/-- The sweep closed without a close. -/
def State.sweepDropped (s : State) : State := { s with sweep := ⟨0#8, s.sweep.lastClosed, none⟩ }

theorem State.abandonSweep_eq {s : State} (h : s.sweep.openNo ≠ 0#8) (cause : AbandonCause) (newNo : Option Byte) :
    s.abandonSweep cause newNo =
      (s.sweepDropped.notice .none (.sweepAbandoned s.sweep.openNo cause newNo)).latch .n evSweep := if_neg h

theorem State.abandonSweep_none {s : State} (h : s.sweep.openNo = 0#8) (cause : AbandonCause) (newNo : Option Byte) :
    s.abandonSweep cause newNo = s := if_pos h

/-- What the abandonment of an open sweep leaves but the sweep itself. -/
structure Abandoned (s t : State) (cause : AbandonCause) (newNo : Option Byte) : Prop where
  latched  : t.portN.latched &&& evSweep = evSweep
  creds    : t.creds = s.creds
  rides    : t.rides = s.rides
  docks    : t.docks = s.docks
  listK    : t.listK = s.listK
  notified : Notified s t s.free .none (.sweepAbandoned s.sweep.openNo cause newNo)

section
variable {s : State} (h : s.sweep.openNo ≠ 0#8) (cause : AbandonCause) (newNo : Option Byte)
include h

theorem State.abandonSweep_pool : PoolFrame s.sweepDropped (s.abandonSweep cause newNo) := by
  rw [State.abandonSweep_eq h]
  exact (State.notice_pool _ _ _).trans (State.latch_pool _ _ _)

theorem State.abandonSweep_sweep : (s.abandonSweep cause newNo).sweep = ⟨0#8, s.sweep.lastClosed, none⟩ := by
  obtain ⟨⟨-, -, -, -, hsweep, -⟩, -⟩ := (State.abandonSweep_pool h cause newNo).station
  exact hsweep

theorem State.abandonSweep_settings : (s.abandonSweep cause newNo).settings = s.settings := by
  obtain ⟨⟨-, -, -, -, -, -, -, hset, -⟩, -⟩ := (State.abandonSweep_pool h cause newNo).station
  exact hset

theorem State.abandonSweep_abandoned : Abandoned s (s.abandonSweep cause newNo) cause newNo := by
  have hpool := State.abandonSweep_pool h cause newNo
  have hnotice := s.sweepDropped.notice_notified .none (.sweepAbandoned s.sweep.openNo cause newNo)
  refine ⟨?_, hpool.creds, hpool.rides, hpool.docks, ?_, ?_⟩ <;> rw [State.abandonSweep_eq h]
  · exact State.latch_latched_self _ _
  · rw [State.latch_listK, State.notice_listK]
    rfl
  · exact hnotice.carry (State.latch_free ..) (State.latch_listN ..) (fun ho => State.latch_latched ho _ _)

end

/-- The answer of a request, or STORE_LOW after an event, stands beside the abandonment. -/
theorem Abandoned.carry {s t u : State} {cause : AbandonCause} {newNo : Option Byte} (h : Abandoned s t cause newNo)
    (hsame : SameTables t u) (hlatched : ∀ e : Byte, t.portN.latched &&& e = e → u.portN.latched &&& e = e) :
    Abandoned s u cause newNo :=
  ⟨hlatched _ h.latched, hsame.creds.trans h.creds, hsame.rides.trans h.rides, hsame.docks.trans h.docks,
    hsame.listK.trans h.listK, h.notified.carry hsame.free hsame.listN (fun ho => hlatched _ ho)⟩

theorem latchStoreLow_sameTables (n : Nat) (s : State) : SameTables s (latchStoreLow n s) := by
  have hpool := latchStoreLow_pool n s
  exact ⟨hpool.station, hpool.creds, hpool.rides, hpool.docks, hpool.releaseQ, hpool.grants, hpool.lineA, hpool.lineB,
    latchStoreLow_free n s, latchStoreLow_listN n s, latchStoreLow_listK n s⟩

/-- STORE_LOW clears no event of Port N. -/
theorem latchStoreLow_latched {s : State} {e : Byte} (h : s.portN.latched &&& e = e) (n : Nat) :
    (latchStoreLow n s).portN.latched &&& e = e := by
  rcases latchStoreLow_cases n s with hlow | hlow <;> rw [hlow]
  · exact h
  · exact State.latch_latched (State.latch_latched h .n evStoreLow) .k evStoreLow

/-- A sweep open under this number, its idle timer started (R34). -/
def State.sweepOpened (s : State) (n : Byte) : State :=
  { s with sweep := ⟨n, s.sweep.lastClosed, some ⟨0, s.settings.idleLimit⟩⟩ }

theorem sweepOpenRule_opens {n : Byte} (hn : n ≠ 0#8) (s : State) :
    sweepOpenRule n s = ((s.abandonSweep .reopen (some n)).sweepOpened n, ⟨.ok, .none⟩) := if_neg hn

/-- With no sweep open the sweep idle timer has nothing to abandon; with its limit reached it abandons the sweep (R38). -/
theorem exec_sweepIdleExpiry {s : State} {x : Timer} (hx : s.sweep.idle = some x) (hdue : x.elapsed = x.limit) :
    exec .sweepIdleExpiry s = .next (latchStoreLow s.free.length (s.abandonSweep .idle none)) := by
  refine (event_eq _ s).trans ?_
  rw [if_pos (by rw [hx]; simp [timerDue, hdue])]

end Sys2Proof.Machine

namespace Sys2Proof.Proofs

open Sys2Proof.Machine

/-- Settles O13: the checks in their order, and the entry that a CRED LOAD puts into the table. -/
theorem credLoadWrites : Obligations.CredLoadWrites := by
  intro s c st cls secret counter balance overdraft keep hs
  refine ⟨fun h => ?_, fun hc hst hcls hroom => ?_, fun hc hst hcls hroom => ?_⟩
  · exact request_next hs _ _ (credLoadRule_refuses h secret counter balance overdraft keep s) (Nat.le_refl _)
  · exact request_next hs _ _ (credLoadRule_full hc hst hcls hroom secret counter balance overdraft keep) (Nat.le_refl _)
  · intro d kept b e
    have hstate : (if st = 0#8 then CredState.active else .suspended) ≠ .revoked := by split <;> decide
    have hrule : credLoadRule c st cls secret counter balance overdraft keep s =
        (State.putCred { s with sweep := s.idleRestarted } e, ⟨s.loadStatus c balance overdraft keep, .none⟩) := by
      rw [credLoadRule_loads hc (settableState_of_lt hst) hcls hroom, State.loadCred_eq]
      dsimp only
      rw [if_neg hstate]
      rfl
    refine ⟨_, request_next hs _ _ hrule (Nat.le_refl _), ?_, fun c' hc' => ?_, ?_⟩
    · rw [State.answered_findCred, State.findCred_putCred, if_pos rfl]
    · rw [State.answered_findCred, State.findCred_putCred, if_neg hc']
      rfl
    · rw [State.answered_creds]
      rfl

/-- Settles O17: the abandonment by SWEEP OPEN and by the idle timer is one operation. -/
theorem sweepOpenAndAbandon : Obligations.SweepOpenAndAbandon := by
  intro s n
  refine ⟨fun hs => request_refused hs _ _ rfl, fun hs hn hopen => ?_, fun hs hn hopen => ?_, fun x hx hdue hopen => ?_⟩
  · refine request_next hs _ _ ((sweepOpenRule_opens hn s).trans ?_) (Nat.le_refl _)
    rw [State.abandonSweep_none hopen]
    rfl
  · have hab := State.abandonSweep_abandoned hopen .reopen (some n)
    have hsweep := State.abandonSweep_sweep hopen .reopen (some n)
    have hset := State.abandonSweep_settings hopen .reopen (some n)
    have hports : PortsKept s ((s.abandonSweep .reopen (some n)).sweepOpened n) :=
      (State.abandonSweep_pool hopen .reopen (some n)).ports
    refine ⟨_, request_answers hs _ _ (sweepOpenRule_opens hn s), ?_⟩
    have hsame := State.answered_sameTables ((s.abandonSweep .reopen (some n)).sweepOpened n) s.free.length .n 0x05#8 4
      .ok .none
    obtain ⟨hlatched, hcreds, hrides, hdocks, hlistK, hnotified⟩ := Abandoned.carry (t := (s.abandonSweep .reopen
      (some n)).sweepOpened n) ⟨hab.latched, hab.creds, hab.rides, hab.docks, hab.listK, hab.notified⟩ hsame
      (fun e he => State.answered_latched he ..)
    refine ⟨?_, hlatched, hcreds, hrides, hdocks, hlistK, answers_of_portsKept hports .., hnotified⟩
    obtain ⟨⟨-, -, -, -, hkept, -⟩, -⟩ := hsame.station
    refine hkept.trans ?_
    unfold State.sweepOpened
    rw [hsweep, hset]
  · have hsame := latchStoreLow_sameTables s.free.length (s.abandonSweep .idle none)
    obtain ⟨hlatched, hcreds, hrides, hdocks, hlistK, hnotified⟩ :=
      (State.abandonSweep_abandoned hopen .idle none).carry hsame (fun e he => latchStoreLow_latched he _)
    obtain ⟨⟨-, -, -, -, hkept, -⟩, -⟩ := hsame.station
    have hports := ((State.abandonSweep_pool hopen .idle none).trans (latchStoreLow_pool s.free.length _)).ports
    exact ⟨_, exec_sweepIdleExpiry hx hdue, hkept.trans (State.abandonSweep_sweep hopen .idle none), hlatched, hcreds,
      hrides, hdocks, hlistK, hports, hnotified⟩

end Sys2Proof.Proofs
end
section
/-! PROOFS. STORE_LOW at the fall of the free count, and OVERFLOW at an empty free list (R145, R148, R149). -/

namespace Sys2Proof.Machine

/-! ## STORE_LOW (R145) -/

theorem Booking.storeLow {b : Prop} {s t : State} (k : Booking b s t) : StoreLowKept s t := by
  cases k with
  | kept h => exact h.storeLow
  | classSet h => exact h
  | reset h => exact h
  | loaded _ h => exact h.storeLow
  | written _ _ h => exact h.storeLow
  | dropped _ h => exact h.storeLow
  | withdrawn _ h => exact h.storeLow
  | admitted _ _ h => exact h.storeLow
  | ended _ h => exact h.storeLow

theorem Ledger.storeLow {b : Prop} {s t : State} (k : Ledger b s t) : StoreLowKept s t := by
  induction k with
  | refl => exact .refl s
  | tail _ k ih => exact ih.trans k.storeLow

/-- STORE_LOW by the fall of the free count: latched on both ports exactly then (R145). -/
def StoreLowRule (s t : State) : Prop :=
  (16 ≤ s.free.length → t.free.length < 16 →
    t.portN.latched &&& evStoreLow = evStoreLow ∧ t.portK.latched &&& evStoreLow = evStoreLow) ∧
  (∀ p : Port, (s.port p).latched &&& evStoreLow = 0#8 → (t.port p).latched &&& evStoreLow ≠ 0#8 →
    16 ≤ s.free.length ∧ t.free.length < 16)

/-- Both ports latch STORE_LOW where the free count has fallen below the mark. -/
theorem latchStoreLow_fallen {n : Nat} {s : State} (hn : 16 ≤ n) (hs : s.free.length < 16) :
    latchStoreLow n s = (s.latch .n evStoreLow).latch .k evStoreLow := if_pos ⟨hn, hs⟩

/-- A free list that was empty has not fallen. -/
theorem latchStoreLow_empty (s : State) : latchStoreLow ([] : List Nat).length s = s :=
  latchStoreLow_of_le (Nat.zero_le _)

theorem storeLowRule_latchStoreLow {s u : State} (h : StoreLowKept s u) :
    StoreLowRule s (latchStoreLow s.free.length u) := by
  have hfree := latchStoreLow_free s.free.length u
  refine ⟨fun hs hu => ?_, fun p hp hlatched => ?_⟩
  · rw [hfree] at hu
    rw [latchStoreLow_fallen hs hu]
    refine ⟨State.latch_latched (State.latch_latched_self u evStoreLow) .k evStoreLow, ?_⟩
    show ((u.latch .n evStoreLow).portK.latched ||| evStoreLow) &&& evStoreLow = evStoreLow
    rw [BitVec.or_comm]
    exact byte_or_keeps BitVec.and_self
  · by_contra hlow
    rw [hfree] at hlow
    have hkept : latchStoreLow s.free.length u = u := if_neg hlow
    rw [hkept] at hlatched
    exact hlatched (h p hp)

theorem storeLowRule_of_free {s u : State} (h : StoreLowKept s u) (hfree : 16 ≤ s.free.length → 16 ≤ u.free.length) :
    StoreLowRule s u :=
  ⟨fun hs hu => absurd (hfree hs) (Nat.not_le.mpr hu), fun p hp hlatched => absurd (h p hp) hlatched⟩

theorem exec_storeLowRule {i : Instr} {s t : State} (h : exec i s = .next t) : StoreLowRule s t := by
  obtain ⟨u, hledger, hu | ⟨hu, hfree⟩⟩ := exec_inLedger i s
  · cases h.symm.trans hu
    exact storeLowRule_latchStoreLow hledger.storeLow
  · cases h.symm.trans hu
    exact storeLowRule_of_free hledger.storeLow hfree

/-! ## A decision record that finds no slot (R148) -/

/-- With no slot free and none posted to Port K, a record is dropped with OVERFLOW. -/
theorem State.postK_dropped {s : State} (hfree : s.free = []) (hlist : s.listK = []) (b : Body) :
    s.postK b = s.latch .k evOverflow := by
  have hpost := s.postK_postPool b
  rcases s.postK_cases b with ⟨n, hlast, -⟩ | ⟨-, -, h⟩
  · have hnone : (s.postK b).listK = [] := by
      have := congrArg Prod.snd hpost
      rw [hfree, hlist] at this
      exact this
    rw [hnone] at hlast
    cases hlast
  · exact h

theorem State.showRefuse_frame (s : State) (o : Origin) : LineFrame s (s.showRefuse o) := by
  unfold State.showRefuse
  split
  · exact LineFrame.refl s
  · split
    all_goals first | exact LineFrame.refl s | exact s.setPending_frame _ _

/-- A decision with the clock unset, its record dropped (R48, R148). -/
theorem State.decideOn_clockUnset {s : State} (hclock : s.clockSet = false) (hfree : s.free = []) (hlist : s.listK = [])
    (x : Presentation) : s.decideOn x = (s.latch .k evOverflow).showRefuse x.origin := by
  have hcheck : tokenChecks s x.token = .error .clockUnset := if_pos hclock
  have hrefuse : s.refuse x .clockUnset = (s.postK (decisionRecord x .clockUnset none none)).showRefuse x.origin := by
    cases horigin : x.origin <;> simp [State.refuse, horigin]
  unfold State.decideOn
  rw [hcheck]
  dsimp only
  rw [hrefuse, State.postK_dropped hfree hlist]

theorem exec_admissionDecision_empty {s : State} {x : Presentation} {rest : List Presentation} (hq : s.queue = x :: rest)
    (hclock : s.clockSet = false) (hfree : s.free = []) (hlist : s.listK = []) :
    exec .admissionDecision s = .next ((s.dequeue.latch .k evOverflow).showRefuse x.origin) := by
  have hdecide := State.decideOn_clockUnset (s := s.dequeue) hclock hfree hlist x
  show execAdmissionDecision s = _
  rw [execAdmissionDecision, event_eq, hq]
  dsimp only
  rw [hdecide, hfree, latchStoreLow_empty]

/-! ## A notice or a FOREIGN_RETURN that finds no slot (R149) -/

/-- With no slot free a notice leaves the pool as it is. -/
theorem State.notice_starved {s : State} (hfree : s.free = []) (sub : Subject) (b : NoticeBody) :
    SamePool s (s.notice sub b) := by
  rcases s.notice_cases sub b with ⟨-, h⟩ | ⟨-, -, h⟩ <;> rw [h]
  · exact ⟨rfl, rfl, rfl⟩
  · rcases s.postFree_cases b.kind (.notice sub s.minute s.second b) with ⟨n, rest, hcons, -⟩ | ⟨-, h⟩
    · rw [hfree] at hcons
      cases hcons
    · rw [h]
      exact ⟨State.latch_free .., State.latch_listN .., State.latch_listK ..⟩

/-- A notice that nothing withholds is lost with OVERFLOW where no slot is free (R149, R155). -/
theorem Notified.lost {s t : State} {free : List Nat} {sub : Subject} {b : NoticeBody} (h : Notified s t free sub b)
    (hfree : free = []) (hlevel : s.level b.kind ≠ 0) (hsup : s.suppressed sub b.kind = false) :
    t.free = [] ∧ t.listN = s.listN ∧ Overflowed t .n := by
  rw [Notified, if_neg (by simp [hlevel, hsup]), if_pos hfree] at h
  exact h

/-- With no slot free a FOREIGN_RETURN is lost with OVERFLOW (R79, R149). -/
theorem State.foreignReturn_starved {s : State} (hfree : s.free = []) (d : DockIx) (g : BikeTag) :
    s.foreignReturn d g = s.latch .n evOverflow := by
  unfold State.foreignReturn State.postFree
  rw [hfree]

/-- With no slot free before or after, the pool stands, and so do the clock, the rides but for how far OPEN has come, and
all of one dock but its link, its counts, its acknowledgement and its pending command. -/
structure Starved (s t : State) (d : DockIx) : Prop where
  free   : t.free = []
  listN  : t.listN = s.listN
  listK  : t.listK = s.listK
  minute : t.minute = s.minute
  rides  : SameRides s t
  state  : (t.dock d).state = (s.dock d).state
  since  : (t.dock d).since = (s.dock d).since

namespace Starved

variable {s t u : State} {d : DockIx}

theorem refl (h : s.free = []) (d : DockIx) : Starved s s d := ⟨h, rfl, rfl, rfl, .refl s, rfl, rfl⟩

theorem trans (h : Starved s t d) (k : Starved t u d) : Starved s u d :=
  ⟨k.free, k.listN.trans h.listN, k.listK.trans h.listK, k.minute.trans h.minute, h.rides.trans k.rides,
    k.state.trans h.state, k.since.trans h.since⟩

theorem own {l : Line} (h : s.free = []) (k : OwnLine s t l) (d : DockIx) : Starved s t d := by
  obtain ⟨hfree, hlistN, hlistK⟩ := k.pool
  obtain ⟨⟨hminute, -⟩, -⟩ := k.station
  exact ⟨hfree.trans h, hlistN, hlistK, hminute, k.rides, by rw [k.dock], by rw [k.dock]⟩

theorem pool (h : s.free = []) (k : PoolFrame s t) (hpool : SamePool s t) (d : DockIx) : Starved s t d := by
  obtain ⟨hfree, hlistN, hlistK⟩ := hpool
  obtain ⟨⟨hminute, -⟩, -⟩ := k.station
  have hdock : t.dock d = s.dock d := by
    unfold State.dock
    rw [k.docks]
  exact ⟨hfree.trans h, hlistN, hlistK, hminute, .of_eq k.rides, by rw [hdock], by rw [hdock]⟩

theorem line (h : s.free = []) (k : LineFrame s t) (d : DockIx) : Starved s t d := by
  obtain ⟨hfree, hlistN, hlistK⟩ := k.pool
  obtain ⟨⟨hminute, -⟩, -⟩ := k.station
  have hstate := congrArg Dock.state (k.docks d)
  have hsince := congrArg Dock.since (k.docks d)
  exact ⟨hfree.trans h, hlistN, hlistK, hminute, .of_eq k.rides, hstate, hsince⟩

theorem updDock (h : s.free = []) {f : Dock → Dock} (hf : ∀ x, (f x).state = x.state ∧ (f x).since = x.since) :
    Starved s (s.updDock d f) d := by
  refine ⟨h, rfl, rfl, rfl, .refl s, ?_, ?_⟩ <;> rw [State.dock_updDock, if_pos rfl]
  · exact (hf _).1
  · exact (hf _).2

theorem notice (h : s.free = []) (sub : Subject) (b : NoticeBody) (d : DockIx) : Starved s (s.notice sub b) d :=
  pool h (s.notice_pool sub b) (State.notice_starved h sub b) d

theorem linkNotices (h : s.free = []) (d : DockIx) (x : Dock) (r : StatusReply) : Starved s (s.linkNotices d x r) d := by
  unfold State.linkNotices
  extract_lets s1
  have h1 : Starved s s1 d := by
    show Starved s (if _ then _ else _) d
    split
    · exact notice h _ _ d
    · exact refl h d
  split
  · exact h1.trans (notice h1.free _ _ d)
  · exact h1

theorem offerToken (h : s.free = []) (d : DockIx) (r : StatusReply) : Starved s (s.offerToken d r) d := by
  unfold State.offerToken
  split
  · next k _ =>
    split
    · exact refl h d
    · unfold State.offer
      split
      · exact refl h d
      · have hqueue : Starved s (s.enqueue ⟨.dock d k.seq, k.token⟩) d := ⟨h, rfl, rfl, rfl, .refl s, rfl, rfl⟩
        exact hqueue.trans (updDock hqueue.free (fun x => ⟨rfl, rfl⟩))
  · exact refl h d

end Starved

/-- The state in which a reply at a dock without a ride meets the dock's own steps. -/
def State.beforeDockReply (s : State) (d : DockIx) (r : StatusReply) : State :=
  ((((s.updDock d (fun x => { x with link := .online })).offerToken d r).updDock d
    (fun x => { x with powerLow := r.powerLow })).linkNotices d (s.dock d) r)

theorem State.handleStatus_noRide {s : State} {d : DockIx} (hfree : s.free = []) (hride : s.rideAt d = none)
    (r : StatusReply) (c : Bool) :
    s.handleStatus d r c = (s.beforeDockReply d r).dockReply d r c ∧ Starved s (s.beforeDockReply d r) d := by
  have h1 : Starved s (s.updDock d (fun x => { x with link := .online })) d := .updDock hfree (fun x => ⟨rfl, rfl⟩)
  have h2 := h1.trans (.offerToken h1.free d r)
  have h3 : Starved s (((s.updDock d (fun x => { x with link := .online })).offerToken d r).updDock d
      (fun x => { x with powerLow := r.powerLow })) d := h2.trans (.updDock h2.free (fun x => ⟨rfl, rfl⟩))
  refine ⟨?_, h3.trans (.linkNotices h3.free d (s.dock d) r)⟩
  unfold State.handleStatus
  dsimp only
  rw [(h3.rides.rideAt_none d).mpr hride]
  rfl

/-- An untagged bike latched at an EMPTY dock, with no slot for its FOREIGN_RETURN (R92, R149). -/
theorem State.dockReply_untagged {s : State} {d : DockIx} {r : StatusReply} (hfree : s.free = [])
    (hstate : (s.dock d).state = .empty) (hbike : r.bike = true) (hlatch : r.latch = .locked)
    (hreader : r.readerFault = false) (htag : r.tag = 0#32) (c : Bool) :
    s.dockReply d r c = (s.dockBike d 0#32).latch .n evOverflow := by
  have hreturn : (s.dockBike d 0#32).returnBike d 0#32 = (s.dockBike d 0#32).latch .n evOverflow :=
    (if_pos rfl).trans (State.foreignReturn_starved (s := s.dockBike d 0#32) hfree d 0#32)
  unfold State.dockReply State.plainReply
  rw [hlatch, hstate, htag]
  simp [readerFaults, hreader, hbike, hreturn]

theorem State.openAfterShow_eq {s : State} {d : DockIx} (h : (s.dock d).state ≠ .queued) : s.openAfterShow d = s :=
  if_neg (fun a => h a.1)

theorem ReplyDue.replyOpen {s : State} {l : Line} {x : Turn} (h : ReplyDue s l x) :
    s.replyOpen l (replyMark x.addr) = true := by
  obtain ⟨hon, hturn, hphase⟩ := h
  have hline : s.phase l = some x.phase := by
    unfold State.phase State.lineOn
    rw [if_pos (by simpa using hon), hturn]
    rfl
  unfold State.replyOpen
  rw [hline]
  rcases hphase with h | h <;> simp [h]

theorem exec_statusReply_due {s : State} {l : Line} {x : Turn} (h : ReplyDue s l x) (r : StatusReply) :
    exec (.statusReply l r) s = .next (latchStoreLow s.free.length (s.endStatus l x r)) := by
  obtain ⟨-, hturn, -⟩ := id h
  show execStatusReply l r s = _
  rw [execStatusReply, event_eq, hturn]
  dsimp only
  rw [if_pos h.replyOpen]

/-- A bike docked now at this dock, its record lost for want of a slot (R92, R149). -/
structure DockedUnrecorded (s t : State) (d : DockIx) : Prop where
  overflow : Overflowed t .n
  free     : t.free = []
  listN    : t.listN = s.listN
  listK    : t.listK = s.listK
  state    : (t.dock d).state = .docked
  since    : (t.dock d).since = s.minute

theorem DockedUnrecorded.carry {s t u : State} {d : DockIx} (h : DockedUnrecorded s t d) (k : Starved t u d)
    (hl : Latching t u) : DockedUnrecorded s u d :=
  ⟨hl.keepsN h.overflow, k.free, k.listN.trans h.listN, k.listK.trans h.listK, k.state.trans h.state,
    k.since.trans h.since⟩

theorem DockedUnrecorded.quietActivity {s t : State} {d : DockIx} (h : DockedUnrecorded s t d) (l : Line) :
    DockedUnrecorded s (t.quietActivity l) d := by
  have hown : Starved t (t.updLine l (fun c => { c with quietTimer := 0, quietDue := false })) d :=
    .own h.free (t.updLine_own l _) d
  exact (h.carry hown (t.updLine_latching l _)).carry (.line hown.free (State.quietReturn_frame _ l) d)
    (State.quietReturn_latching _ l)

/-- The dock's own steps at a reply that shows an untagged bike latched at an EMPTY dock. -/
theorem State.handleStatus_untagged {s : State} {d : DockIx} {r : StatusReply} (hfree : s.free = [])
    (hride : s.rideAt d = none) (hstate : (s.dock d).state = .empty) (hbike : r.bike = true) (hlatch : r.latch = .locked)
    (hreader : r.readerFault = false) (htag : r.tag = 0#32) (c : Bool) :
    DockedUnrecorded s (s.handleStatus d r c) d := by
  obtain ⟨hreply, hbefore⟩ := State.handleStatus_noRide hfree hride r c
  rw [hreply, State.dockReply_untagged hbefore.free (hbefore.state.trans hstate) hbike hlatch hreader htag]
  have hdock : ((s.beforeDockReply d r).dockBike d 0#32).dock d = { (s.beforeDockReply d r).dock d with
      state := .docked, tag := 0#32, since := (s.beforeDockReply d r).minute } := by
    rw [State.dockBike, State.dock_updDock, if_pos rfl]
  refine ⟨State.latch_latched_self _ evOverflow, hbefore.free, hbefore.listN, hbefore.listK, ?_, ?_⟩ <;>
    rw [State.latch_dock, hdock]
  exact hbefore.minute

/-- The reply's whole turn: the bike is docked, its record lost, and OVERFLOW stands latched on Port N. -/
theorem State.endStatus_untagged {s : State} {l : Line} {x : Turn} {r : StatusReply}
    (hride : s.rideAt (dockIx l x.addr) = none) (hstate : (s.dock (dockIx l x.addr)).state = .empty)
    (hbike : r.bike = true) (hlatch : r.latch = .locked) (hreader : r.readerFault = false) (htag : r.tag = 0#32)
    (hfree : s.free = []) : DockedUnrecorded s (s.endStatus l x r) (dockIx l x.addr) := by
  have hturn : Starved s ((settleOpen s (dockIx l x.addr) true).endTurn l) (dockIx l x.addr) :=
    .own hfree ((settleOpen_own s _ true l).trans (State.endTurn_own _ l)) _
  have hcounts := hturn.trans (.updDock (f := fun y => { y with
    failed := 0
    busy := 0
    pending := match x.cmd with
      | .showCmd c q => if y.pending = .showCmd c q then .none else y.pending
      | .none | .openCmd | .closeCmd => y.pending }) hturn.free (fun y => ⟨rfl, rfl⟩))
  have hdone := State.handleStatus_untagged (r := r) hcounts.free ((hcounts.rides.rideAt_none _).mpr hride)
    (hcounts.state.trans hstate) hbike hlatch hreader htag (decide (x.cmd = .closeCmd))
  have hfrom : DockedUnrecorded s (State.handleStatus _ (dockIx l x.addr) r (decide (x.cmd = .closeCmd)))
      (dockIx l x.addr) :=
    ⟨hdone.overflow, hdone.free, hdone.listN.trans hcounts.listN, hdone.listK.trans hcounts.listK, hdone.state,
      hdone.since.trans hcounts.minute⟩
  unfold State.endStatus
  extract_lets d before s1 s2
  have hs2 : DockedUnrecorded s s2 d := by
    show DockedUnrecorded s (State.openAfterShow _ d) d
    rw [State.openAfterShow_eq]
    · exact hfrom
    · intro hq
      exact absurd (hfrom.state.symm.trans hq) (by decide)
  split
  · exact hs2.quietActivity l
  · exact hs2

end Sys2Proof.Machine

namespace Sys2Proof.Proofs

open Sys2Proof.Machine

/-- Settles O39: STORE_LOW from the ledger of every command; the three lost records each by the case of no free slot. -/
theorem storeLowAndOverflow : Obligations.StoreLowAndOverflow := by
  refine ⟨fun c s t h => exec_storeLowRule h, fun s x rest hq hclock hfree hlist => ?_, ?_, ?_⟩
  · have hframe := State.showRefuse_frame (s.dequeue.latch .k evOverflow) x.origin
    obtain ⟨hfree', -, hlist'⟩ := hframe.pool
    obtain ⟨-, hqueue, -⟩ := hframe.station
    refine ⟨_, exec_admissionDecision_empty hq hclock hfree hlist, ?_, hlist'.trans hlist, hfree'.trans hfree,
      hqueue.trans ?_⟩
    · show (State.portK _).latched &&& evOverflow = evOverflow
      rw [hframe.portK]
      show (s.portK.latched ||| evOverflow) &&& evOverflow = evOverflow
      rw [BitVec.or_comm]
      exact byte_or_keeps BitVec.and_self
    · show s.queue.tail = rest
      rw [hq, List.tail_cons]
  · intro s l x rep d hdue hride hstate hbike hlatch hreader htag hfree
    have hdone := State.endStatus_untagged hride hstate hbike hlatch hreader htag hfree
    have hexec := exec_statusReply_due hdue rep
    rw [hfree, latchStoreLow_empty] at hexec
    exact ⟨_, hexec, hdone.overflow, hdone.free, hdone.listN, hdone.listK, hdone.state, hdone.since⟩
  · intro s y hy hdue hopen hfree hlevel
    have hexec := exec_sweepIdleExpiry hy hdue
    rw [hfree, latchStoreLow_empty] at hexec
    have hnotified := (State.abandonSweep_abandoned hopen .idle none).notified.lost hfree hlevel
      (s.suppressed_of_not_tied .none rfl)
    obtain ⟨hfree', hlist, hover⟩ := hnotified
    exact ⟨_, hexec, hover, hfree', hlist, State.abandonSweep_sweep hopen .idle none⟩

end Sys2Proof.Proofs
end
section
/-! PROOFS. PORT CLEAR (R152, R183). -/

namespace Sys2Proof.Machine

/-! ## Un-taking at Port N (R152) -/

/-- A list is in the order of levels. -/
abbrev LevelSorted (xs : List Posted) : Prop := xs.Pairwise (fun a b => b.record.level ≤ a.record.level)

/-- Held slots returned last to first stand, level by level, before the posted ones and in the order of taking. -/
theorem foldr_insertFront (xs : List Posted) {ys : List Posted} (h : LevelSorted ys) :
    LevelSorted (xs.foldr insertFront ys) ∧ ∀ k : Nat,
      (xs.foldr insertFront ys).filter (fun x => decide (x.record.level = k)) =
        xs.filter (fun x => decide (x.record.level = k)) ++ ys.filter (fun x => decide (x.record.level = k)) := by
  induction xs with
  | nil => exact ⟨h, fun k => rfl⟩
  | cons x xs ih =>
    obtain ⟨hsorted, hlevel⟩ := ih
    refine ⟨sorted_insertFront x hsorted, fun k => ?_⟩
    rw [List.foldr_cons, level_insertFront x hsorted, hlevel, ← List.append_assoc]
    by_cases hk : x.record.level = k <;> simp [hk]

/-- Port N after steps 1 to 3 of R183: no response held, no event latched, the held slots returned. -/
def State.clearedN (s : State) : State :=
  { s with
    portN := { s.portN with held := none, latched := 0#8, taken := [] }
    listN := s.portN.taken.foldr insertFront s.listN }

theorem portClearRule_n (s : State) :
    portClearRule .n s = (s.clearedN.abandonSweep .portClear none, ⟨.ok, .none⟩) := rfl

theorem portClearRule_n_idle {s : State} (h : s.sweep.openNo = 0#8) :
    portClearRule .n s = (s.clearedN, ⟨.ok, .none⟩) := by
  rw [portClearRule_n, State.abandonSweep_none (s := s.clearedN) h]

/-! ## Un-taking at Port K (R152) -/

/-- Port K's list is brought back to 32 by evicting its head, the evicted slots joining the tail of the free list. -/
theorem State.trimK_eq {k : Nat} {s : State} (h : s.listK.length ≤ k + 32) :
    s.trimK k = { s with
      listK := s.listK.drop (s.listK.length - 32)
      free := s.free ++ (s.listK.take (s.listK.length - 32)).map (fun x => x.slot) } := by
  induction k generalizing s with
  | zero =>
    have hlen : s.listK.length - 32 = 0 := by omega
    rw [hlen, List.drop_zero, List.take_zero, List.map_nil, List.append_nil]
    rfl
  | succ k ih =>
    unfold State.trimK
    split
    · next hlong =>
      have hlong : 32 < s.listK.length := hlong
      obtain ⟨x, xs, hlist⟩ : ∃ x xs, s.listK = x :: xs := List.exists_cons_of_length_pos (by omega)
      have hxs : 32 ≤ xs.length := by rw [hlist, List.length_cons] at hlong; omega
      have hevict : s.evictK = { s with listK := xs, free := s.free ++ [x.slot] } := by
        unfold State.evictK
        rw [hlist]
      have hlen : (x :: xs).length - 32 = xs.length - 32 + 1 := by rw [List.length_cons]; omega
      rw [hevict, ih (by rw [hlist, List.length_cons] at h; exact Nat.le_of_succ_le_succ h), hlist, hlen,
        List.drop_succ_cons, List.take_succ_cons, List.map_cons, List.append_assoc, List.singleton_append]
    · next hshort =>
      have hlen : s.listK.length - 32 = 0 := Nat.sub_eq_zero_of_le (Nat.not_lt.mp hshort)
      rw [hlen, List.drop_zero, List.take_zero, List.map_nil, List.append_nil]

theorem portClearRule_k (s : State) :
    portClearRule .k s = ({ s with
      portK := { s.portK with held := none, latched := 0#8, taken := [] }
      listK := (s.portK.taken ++ s.listK).drop ((s.portK.taken ++ s.listK).length - 32)
      free := s.free ++
        ((s.portK.taken ++ s.listK).take ((s.portK.taken ++ s.listK).length - 32)).map (fun x => x.slot) },
      ⟨.ok, .none⟩) :=
  congrArg (fun u : State => (u, (⟨.ok, .none⟩ : Reply))) (State.trimK_eq (s := { s with
    portK := { s.portK with held := none, latched := 0#8, taken := [] }
    listK := s.portK.taken ++ s.listK }) (Nat.le_add_right _ 32))

/-! ## The notice of an abandonment in the lists -/

/-- A change of the pool and of the ports alone. -/
theorem PoolFrame.eq {s t : State} (h : PoolFrame s t) : t = { s with
    free := t.free, listN := t.listN, listK := t.listK, portN := t.portN, portK := t.portK } := by
  obtain ⟨⟨⟨hminute, hsecond, hclock, hclasses, hsweep, hnext, hlevels, hset, hpend⟩, hqueue, hhold⟩, hcreds, hrides,
    hdocks, hrel, hgrants, hA, hB, -⟩ := h
  cases t
  dsimp only at *
  subst_vars
  rfl

/-- A port that keeps its items is the same but for its latched events. -/
theorem KeepsItems.eq {x y : PortState} (h : KeepsItems x y) : y = { x with latched := y.latched } := by
  obtain ⟨hheld, hmasks, htaken, htrans, hout⟩ := h
  cases y
  dsimp only at *
  subst_vars
  rfl

/-- The record that a notice of this kind posts, if it posts one. -/
def State.noticePosted (s : State) (k : Kind) (b : Body) : List Posted :=
  match s.free with
  | [] => []
  | slot :: _ => if s.level k = 0 then [] else [⟨slot, ⟨(s.level k).val, s.clockSet, b⟩⟩]

/-- A notice that is tied to nothing, by the free list and the Port N list it leaves (R146, R149, R155). -/
theorem State.notice_lists {s : State} {b : NoticeBody} (hb : b.kind.tied = false) (h : LevelSorted s.listN) :
    let posted := s.noticePosted b.kind (.notice .none s.minute s.second b)
    (s.notice .none b).free = s.free.drop posted.length ∧ LevelSorted (s.notice .none b).listN ∧
    ∀ k : Nat, (s.notice .none b).listN.filter (fun x => decide (x.record.level = k)) =
      s.listN.filter (fun x => decide (x.record.level = k)) ++ posted.filter (fun x => decide (x.record.level = k)) := by
  intro posted
  rcases s.notice_cases .none b with ⟨hnone, e⟩ | ⟨hlevel, -, e⟩ <;> rw [e]
  · have hlevel : s.level b.kind = 0 := hnone.resolve_right (by simp [s.suppressed_of_not_tied .none hb])
    have hposted : posted = [] := by
      show s.noticePosted _ _ = []
      unfold State.noticePosted
      split
      · rfl
      · rw [if_pos hlevel]
    rw [hposted]
    exact ⟨rfl, h, fun k => by rw [List.filter_nil, List.append_nil]⟩
  · rcases s.postFree_cases b.kind (.notice .none s.minute s.second b) with ⟨n, rest, hfree, e⟩ | ⟨hfree, e⟩ <;> rw [e]
    · have hposted : posted = [⟨n, ⟨(s.level b.kind).val, s.clockSet, .notice .none s.minute s.second b⟩⟩] := by
        show s.noticePosted _ _ = _
        unfold State.noticePosted
        rw [hfree]
        exact if_neg hlevel
      rw [hposted]
      refine ⟨by rw [hfree]; rfl, sorted_insertTail _ h, fun k => (level_insertTail _ h k).trans ?_⟩
      rw [List.filter_singleton]
      by_cases hk : (s.level b.kind).val = k <;> simp [hk]
    · have hposted : posted = [] := by
        show s.noticePosted _ _ = []
        unfold State.noticePosted
        rw [hfree]
      rw [hposted]
      exact ⟨State.latch_free .., (State.latch_listN s .n evOverflow).symm ▸ h, fun k => by
        rw [State.latch_listN, List.filter_nil, List.append_nil]⟩

/-- The free list and the Port N list after an abandonment, its notice placed as any other (R37). -/
theorem State.abandonSweep_lists {s : State} (hopen : s.sweep.openNo ≠ 0#8) (h : LevelSorted s.listN)
    (cause : AbandonCause) (newNo : Option Byte) :
    let posted := s.noticePosted .sweepAbandoned
      (.notice .none s.minute s.second (.sweepAbandoned s.sweep.openNo cause newNo))
    (s.abandonSweep cause newNo).free = s.free.drop posted.length ∧ LevelSorted (s.abandonSweep cause newNo).listN ∧
    ∀ k : Nat, (s.abandonSweep cause newNo).listN.filter (fun x => decide (x.record.level = k)) =
      s.listN.filter (fun x => decide (x.record.level = k)) ++ posted.filter (fun x => decide (x.record.level = k)) := by
  rw [State.abandonSweep_eq hopen, State.latch_free, State.latch_listN]
  exact State.notice_lists (s := s.sweepDropped) rfl h

theorem SameTables.eq {s t : State} (h : SameTables s t) : t = { s with portN := t.portN, portK := t.portK } := by
  obtain ⟨⟨⟨hminute, hsecond, hclock, hclasses, hsweep, hnext, hlevels, hset, hpend⟩, hqueue, hhold⟩, hcreds, hrides,
    hdocks, hrel, hgrants, hA, hB, hfree, hlistN, hlistK⟩ := h
  cases t
  dsimp only at *
  subst_vars
  rfl

/-- What PORT CLEAR leaves at Port N, the sweep abandoned, differs in the ports, the Port N list, the free list and the
sweep alone. -/
theorem State.clearedN_rest {s t : State} (hopen : s.sweep.openNo ≠ 0#8)
    (h : SameTables (s.clearedN.abandonSweep .portClear none) t) :
    t = { s with portN := t.portN, portK := t.portK, listN := t.listN, free := t.free, sweep := t.sweep } := by
  have hpool := (State.abandonSweep_pool (s := s.clearedN) hopen .portClear none).eq
  have hlistK : (s.clearedN.abandonSweep .portClear none).listK = s.listK :=
    (State.abandonSweep_abandoned (s := s.clearedN) hopen .portClear none).listK
  obtain ⟨⟨-, -, -, -, hsweep, -⟩, -⟩ := h.station
  have hrest := h.eq
  rw [hpool, hlistK] at hrest
  refine hrest.trans ?_
  rw [h.listN, h.free, hsweep, State.abandonSweep_sweep (s := s.clearedN) hopen]
  rfl

/-- No event of PORT CLEAR's own but SWEEP, OVERFLOW and STORE_LOW is latched after the clearing. -/
theorem State.clearedN_latched (s : State) (n : Nat) (c : Byte) (k : Nat) (st : Status) (f : Fields) :
    (latchStoreLow n ((s.clearedN.abandonSweep .portClear none).answered .n c k st f)).portN.latched &&& 0x13#8 =
      0#8 := by
  have hlatch : ∀ (u : State) (p : Port) {e : Byte}, e &&& 0x13#8 = 0#8 → u.portN.latched &&& 0x13#8 = 0#8 →
      (u.latch p e).portN.latched &&& 0x13#8 = 0#8 := by
    intro u p e he hu
    cases p
    · exact byte_or_and_eq_zero hu he
    · exact hu
  have hclear : s.clearedN.portN.latched &&& 0x13#8 = 0#8 := BitVec.zero_and
  have hnotice : ∀ (u : State) (sub : Subject) (b : NoticeBody), u.portN.latched &&& 0x13#8 = 0#8 →
      (u.notice sub b).portN.latched &&& 0x13#8 = 0#8 := by
    intro u sub b hu
    rcases u.notice_cases sub b with ⟨-, e⟩ | ⟨-, -, e⟩ <;> rw [e]
    · exact hu
    · rcases u.postFree_cases b.kind (.notice sub u.minute u.second b) with ⟨m, rest, -, e⟩ | ⟨-, e⟩ <;> rw [e]
      · exact hu
      · exact hlatch u .n (by decide) hu
  have habandon : (s.clearedN.abandonSweep .portClear none).portN.latched &&& 0x13#8 = 0#8 := by
    unfold State.abandonSweep
    split
    · exact hclear
    · exact hlatch _ .n (by decide) (hnotice _ _ _ hclear)
  rcases latchStoreLow_cases n ((s.clearedN.abandonSweep .portClear none).answered .n c k st f) with hlow | hlow <;> rw [hlow]
  · exact habandon
  · exact hlatch _ .k (by decide) (hlatch _ .n (by decide) habandon)

end Sys2Proof.Machine

namespace Sys2Proof.Proofs

open Sys2Proof.Machine

/-- Settles O46: un-taking by levels, then the abandonment's notice as any notice, and Port K's eviction by its count. -/
theorem portClearReturns : Obligations.PortClearReturns := by
  intro s
  refine ⟨fun hs hopen hinv => ?_, fun hs hopen hinv => ?_, fun hs => ?_⟩
  · obtain ⟨hsorted, hlevel⟩ := foldr_insertFront s.portN.taken hinv.1
    exact ⟨_, request_next hs _ _ (portClearRule_n_idle hopen) (Nat.le_refl _), rfl, hsorted, hlevel, rfl⟩
  · intro body notice
    obtain ⟨hsorted, hlevel⟩ := foldr_insertFront s.portN.taken hinv.1
    obtain ⟨hfree, hsorted', hlevel'⟩ := State.abandonSweep_lists (s := s.clearedN) hopen hsorted .portClear none
    have hab := State.abandonSweep_abandoned (s := s.clearedN) hopen .portClear none
    have hpool := State.abandonSweep_pool (s := s.clearedN) hopen .portClear none
    have hsame := State.answered_sameTables (s.clearedN.abandonSweep .portClear none) s.free.length .n 0x1D#8 3 .ok .none
    obtain ⟨hportN, hportK⟩ := answers_of_portsKept (s := s.clearedN) (p := .n) hpool.ports s.free.length 0x1D#8 3 .ok .none
    refine ⟨_, request_answers hs _ _ (portClearRule_n s), ?_, KeepsItems.eq hportN, State.answered_latched hab.latched ..,
      s.clearedN_latched _ _ _ _ _, fun hempty hlev => ?_, hsame.free.trans hfree, ?_, fun k => ?_,
      State.clearedN_rest hopen hsame, hportK⟩
    · obtain ⟨⟨-, -, -, -, hkept, -⟩, -⟩ := hsame.station
      exact hkept.trans (State.abandonSweep_sweep (s := s.clearedN) hopen .portClear none)
    · obtain ⟨-, -, hover⟩ := hab.notified.lost hempty hlev (State.suppressed_of_not_tied _ .none rfl)
      exact State.answered_latched hover ..
    · exact hsame.listN.symm ▸ hsorted'
    · refine (congrArg (List.filter _) hsame.listN).trans ((hlevel' k).trans ?_)
      exact congrArg (· ++ _) (hlevel k)
  · exact request_next hs _ _ (portClearRule_k s) (by simp)

end Sys2Proof.Proofs
end
section
/-! PROOFS. Several cancellations in a row: docks, lines, the pool, and where their grants go (R28, R74, R105, R108, R110). -/

namespace Sys2Proof.Machine

/-! ## One cancellation before its grant is returned (R74) -/

/-- The release queue, the grants, the docks, the lines and the pool just before a cancelled ride's grant is returned. -/
structure BeforeReturn (s t : State) (r : Ride) (o : RideOutcome) : Prop where
  releaseQ : t.releaseQ = s.releaseQ.filter (fun e => decide (e.dock ≠ r.dock))
  grants   : t.grants = s.grants
  dock     : ∀ j : DockIx, t.dock j = if j = r.dock then (s.dock r.dock).toDocked else s.dock j
  line     : ∀ l : Line, t.line l = s.line l
  settings : t.settings = s.settings
  pool     : (t.free, t.listK) = cancelPool s.free s.listK r o

theorem State.cancelled_beforeReturn (s : State) (r : Ride) (o : RideOutcome) : BeforeReturn s (s.cancelled r o) r o := by
  have hend : ∀ l, ((s.freeSlot r.slot).endRideOf r.cred).line l = s.line l := fun l =>
    State.line_of_eq (State.endRideOf_lines (s.freeSlot r.slot) r.cred).1 (State.endRideOf_lines _ r.cred).2 l
  have hendDock : ∀ j, ((s.freeSlot r.slot).endRideOf r.cred).dock j = s.dock j := by
    intro j
    unfold State.dock
    rw [State.endRideOf_docks]
    rfl
  have hendSet : ((s.freeSlot r.slot).endRideOf r.cred).settings = s.settings := by
    obtain ⟨⟨-, -, -, -, -, -, -, hset, -⟩, -⟩ := ((s.freeSlot r.slot).endRideOf_ride r.cred).station
    exact hset
  obtain ⟨hfree, -, hlistK⟩ := (s.freeSlot r.slot).endRideOf_pool r.cred
  have hpost := ((s.freeSlot r.slot).endRideOf r.cred).postK_pool (.outcome r.number r.cred r.dock o)
  have hplace := ((s.freeSlot r.slot).endRideOf r.cred).postK_postPool (.outcome r.number r.cred r.dock o)
  refine ⟨?_, ?_, fun j => ?_, fun l => ?_, ?_, ?_⟩
  · unfold State.cancelled
    rw [State.updDock_releaseQ, State.releaseQ_leaveQueue, State.dropRide_releaseQ, hpost.releaseQ,
      State.endRideOf_releaseQ]
    rfl
  · unfold State.cancelled
    rw [State.updDock_grants, State.leaveQueue_grants, State.dropRide_grants, hpost.grants, State.endRideOf_grants]
    rfl
  · unfold State.cancelled
    rw [State.dock_updDock]
    simp only [State.leaveQueue_dock, State.dropRide_dock, hpost.dock, hendDock]
  · unfold State.cancelled
    simp only [State.updDock_line, State.leaveQueue_line, State.dropRide_line, hpost.lines, hend]
  · obtain ⟨⟨-, -, -, -, -, -, -, hset, -⟩, -⟩ := hpost.station
    unfold State.cancelled
    rw [State.updDock_settings, State.leaveQueue_settings, State.dropRide_settings, hset, hendSet]
  · unfold State.cancelled
    rw [State.updDock_free, State.leaveQueue_free, State.dropRide_free, State.updDock_listK, State.leaveQueue_listK,
      State.dropRide_listK, hplace, hfree, hlistK]
    rfl

/-! ## Where the grant of one cancellation goes -/

/-- Queue, grants and docks once these docks are out of the first two, their grants passed on. -/
def Moved (s t : State) (gone : List DockIx) : Prop := QueueMoved s t gone ∧ DocksMoved s t gone gone

/-- A dock that leaves the queue leaves no grant unissued. -/
theorem BeforeReturn.grantsIssued {s t : State} {r : Ride} {o : RideOutcome} (h : BeforeReturn s t r o)
    (hissued : GrantsIssued s) : GrantsIssued t := by
  have hruns : ∀ d, t.lineRuns d = s.lineRuns d := by
    intro d
    unfold State.lineRuns
    rw [h.line]
  unfold GrantsIssued at hissued ⊢
  rw [h.settings, h.grants, h.releaseQ]
  refine hissued.imp_right (fun hidle e he hg => ?_)
  rw [hruns]
  exact hidle e (List.mem_of_mem_filter he) hg

theorem BeforeReturn.newGrants {s t : State} {r : Ride} {o : RideOutcome} (h : BeforeReturn s t r o) :
    newGrants t [r.dock] = newGrants s [r.dock] := by
  have hruns : ∀ d, t.lineRuns d = s.lineRuns d := by
    intro d
    unfold State.lineRuns
    rw [h.line]
  unfold Machine.newGrants
  rw [h.settings, h.grants, h.releaseQ, List.filter_filter]
  simp only [hruns]
  have hsame : s.releaseQ.filter (fun e => decide (e.dock ∉ [r.dock] ∧ e.granted = false) && decide (e.dock ≠ r.dock)) =
      s.releaseQ.filter (fun e => decide (e.dock ∉ [r.dock] ∧ e.granted = false)) := by
    refine List.filter_congr (fun e _ => ?_)
    by_cases hd : e.dock = r.dock <;> simp [hd]
  rw [hsame]

/-- A cancellation takes its dock out of queue and grant set and passes its grant on. -/
theorem State.cancelRide_moved {s : State} (h : GrantsIssued s) (r : Ride) (o : RideOutcome) :
    Moved s (s.cancelRide r o) [r.dock] ∧ GrantsIssued (s.cancelRide r o) := by
  have hbefore := s.cancelled_beforeReturn r o
  have hout : ∀ e ∈ (s.cancelled r o).releaseQ, e.dock ≠ r.dock := by
    intro e he
    rw [hbefore.releaseQ] at he
    exact of_decide_eq_true (List.mem_filter.mp he).2
  obtain ⟨hgranted, hissued⟩ := State.returnGrant_granted hout (hbefore.grantsIssued h)
  rw [hbefore.newGrants] at hgranted
  refine ⟨⟨⟨?_, ?_⟩, fun j hj => ?_⟩, hissued⟩
  · refine hgranted.queue.trans ?_
    show (s.cancelled r o).releaseQ.map _ = _
    rw [hbefore.releaseQ]
    simp only [List.mem_singleton, ne_eq]
  · refine hgranted.grants.trans ?_
    show (s.cancelled r o).grants.filter _ ++ _ = _
    rw [hbefore.grants]
    simp only [List.mem_singleton, ne_eq]
  · refine (hgranted.docks j).trans ?_
    have hdock : State.dock { s.cancelled r o with
        grants := (s.cancelled r o).grants.filter (fun x => decide (x ≠ r.dock)) } j = s.dock j :=
      (hbefore.dock j).trans (if_neg (by simpa using hj))
    rw [hdock]

/-! ## One cancellation after another -/

/-- The waiting docks on running lines once these docks are out, oldest first. -/
def State.waitingWithout (s : State) (gone : List DockIx) : List DockIx :=
  ((s.releaseQ.filter (fun e => decide (e.dock ∉ gone ∧ e.granted = false))).map (fun e => e.dock)).filter
    (fun d => s.lineRuns d)

theorem newGrants_eq (s : State) (gone : List DockIx) : newGrants s gone =
    (s.waitingWithout gone).take (s.settings.budget - (s.grants.filter (fun d => decide (d ∉ gone))).length) := rfl

/-- Of distinct elements, those that a test keeps: the first few are the kept ones of a shorter start, and then the first
few kept ones of the rest. -/
theorem take_filter_eq {xs : List DockIx} (hd : xs.Nodup) (p : DockIx → Bool) {k m : Nat} (h : k ≤ m) :
    (xs.filter p).take m = (xs.take k).filter p ++
      ((xs.filter (fun x => decide (x ∉ xs.take k))).filter p).take (m - ((xs.take k).filter p).length) := by
  have hrest : xs.filter (fun x => decide (x ∉ xs.take k)) = xs.drop k := by
    conv_lhs => arg 2; rw [← List.take_append_drop k xs]
    have hdisj := List.disjoint_take_drop hd (Nat.le_refl k)
    rw [List.filter_append, List.filter_eq_nil_iff.mpr (fun x hx => by simp [hx]), List.nil_append]
    exact List.filter_eq_self.mpr (fun x hx => by simpa using fun a => hdisj a hx)
  have hshort : ((xs.take k).filter p).length ≤ m :=
    (List.length_filter_le p _).trans ((List.length_take_le k xs).trans h)
  rw [hrest]
  conv_lhs => rw [← List.take_append_drop k xs, List.filter_append]
  rw [List.take_append, List.take_of_length_le hshort]

theorem State.waitingWithout_cons (s : State) (d : DockIx) (gone : List DockIx) :
    s.waitingWithout (d :: gone) = (s.waitingWithout [d]).filter (fun j => decide (j ∉ gone)) := by
  unfold State.waitingWithout
  rw [List.filter_filter, List.filter_map, List.filter_map, List.filter_filter, List.filter_filter]
  refine congrArg _ (List.filter_congr (fun e _ => ?_))
  simp only [Function.comp, List.mem_cons, List.not_mem_nil, or_false]
  by_cases h1 : e.dock = d <;> by_cases h2 : e.dock ∈ gone <;> simp [h1, h2]

theorem GrantsIssued.newGrants_nil {s : State} (h : GrantsIssued s) : newGrants s [] = [] := by
  have hgranting : newGrants s [] = s.granting := by
    have hgrants : s.grants.filter (fun d => decide (d ∉ ([] : List DockIx))) = s.grants := by simp
    have hqueue : s.releaseQ.filter (fun e => decide (e.dock ∉ ([] : List DockIx) ∧ e.granted = false)) =
        s.releaseQ.filter (fun e => !e.granted) := by simp
    unfold newGrants
    rw [hgrants, hqueue]
    rfl
  rw [hgranting, h.granting]

theorem GrantsIssued.moved_nil {s : State} (h : GrantsIssued s) : Moved s s [] := by
  unfold Moved QueueMoved DocksMoved
  rw [h.newGrants_nil]
  simp

section
variable {s t u : State} {d : DockIx} (hset : t.settings = s.settings) (hruns : ∀ j, t.lineRuns j = s.lineRuns j)
  (hnodup : (s.releaseQ.map (fun e => e.dock)).Nodup) (h : Moved s t [d]) {gone : List DockIx}
include hruns h

theorem Moved.waitingWithout : t.waitingWithout gone =
    ((s.waitingWithout [d]).filter (fun j => decide (j ∉ newGrants s [d]))).filter (fun j => decide (j ∉ gone)) := by
  obtain ⟨⟨hqueue, -⟩, -⟩ := h
  unfold State.waitingWithout
  rw [hqueue]
  simp only [hruns, List.filter_map, List.map_map, List.filter_filter]
  refine congrArg (List.map (fun e : QEntry => e.dock)) (List.filter_congr (fun e _ => ?_))
  simp only [Function.comp]
  by_cases h1 : e.dock ∈ gone <;> by_cases h2 : e.dock ∈ newGrants s [d] <;> simp [h1, h2, Bool.and_comm]

include hset hnodup

theorem Moved.newGrants_cons : newGrants s (d :: gone) =
    (newGrants s [d]).filter (fun j => decide (j ∉ gone)) ++ newGrants t gone := by
  have hwait := h.waitingWithout hruns (gone := gone)
  obtain ⟨⟨-, hgrants⟩, -⟩ := h
  have hnodup' : (s.waitingWithout [d]).Nodup := (hnodup.sublist (List.filter_sublist.map _)).filter _
  have hleft : s.grants.filter (fun j => decide (j ∉ d :: gone)) =
      (s.grants.filter (fun j => decide (j ∉ [d]))).filter (fun j => decide (j ∉ gone)) := by
    rw [List.filter_filter]
    refine List.filter_congr (fun j _ => ?_)
    by_cases h1 : j = d <;> by_cases h2 : j ∈ gone <;> simp [h1, h2]
  have hlen : (t.grants.filter (fun j => decide (j ∉ gone))).length =
      (s.grants.filter (fun j => decide (j ∉ d :: gone))).length +
        ((newGrants s [d]).filter (fun j => decide (j ∉ gone))).length := by
    rw [hgrants, List.filter_append, List.length_append, hleft]
  have hle : (s.grants.filter (fun j => decide (j ∉ d :: gone))).length ≤
      (s.grants.filter (fun j => decide (j ∉ [d]))).length := by
    rw [hleft]
    exact List.length_filter_le _ _
  rw [newGrants_eq s (d :: gone), s.waitingWithout_cons,
    take_filter_eq hnodup' _ (Nat.sub_le_sub_left hle s.settings.budget), ← newGrants_eq s [d], ← hwait,
    newGrants_eq t gone, hlen, hset, Nat.sub_add_eq]

theorem Moved.cons (k : Moved t u gone) : Moved s u (d :: gone) := by
  have hgrow := h.newGrants_cons hset hruns hnodup (gone := gone)
  obtain ⟨⟨hqueue, hgrants⟩, hdocks⟩ := h
  obtain ⟨⟨kqueue, kgrants⟩, kdocks⟩ := k
  refine ⟨⟨?_, ?_⟩, fun j hj => ?_⟩
  · rw [kqueue, hqueue, List.filter_map, List.map_map, List.filter_filter]
    have hkept : s.releaseQ.filter (fun e => ((fun e => decide (e.dock ∉ gone)) ∘ fun e : QEntry =>
        { e with granted := e.granted || decide (e.dock ∈ newGrants s [d]) }) e && decide (e.dock ∉ [d])) =
        s.releaseQ.filter (fun e => decide (e.dock ∉ d :: gone)) := by
      refine List.filter_congr (fun e _ => ?_)
      by_cases h1 : e.dock = d <;> by_cases h2 : e.dock ∈ gone <;> simp [h1, h2]
    rw [hkept]
    refine List.map_congr_left (fun e he => ?_)
    have hout : e.dock ∉ gone := fun a => by simpa [a] using (List.mem_filter.mp he).2
    simp [hgrow, hout, Bool.or_assoc]
  · rw [kgrants, hgrants, List.filter_append, List.filter_filter, List.append_assoc, ← hgrow]
    refine congrArg (· ++ _) (List.filter_congr (fun j _ => ?_))
    by_cases h1 : j = d <;> by_cases h2 : j ∈ gone <;> simp [h1, h2]
  · have hjd : j ∉ [d] := fun a => hj (List.mem_cons.mpr (.inl (List.mem_singleton.mp a)))
    have hjg : j ∉ gone := fun a => hj (List.mem_cons_of_mem _ a)
    rw [kdocks j hjg, hdocks j hjd, hgrow]
    by_cases h1 : j ∈ newGrants s [d] <;> by_cases h2 : (s.dock j).pending = .none <;> simp [h1, h2, hjg]

end

/-! ## The rides of a withdrawal (R28) -/

/-- Rides cancelled one after another because of their credentials. -/
def State.cancelRides (s : State) (q : List Ride) : State := q.foldl (fun u r => u.cancelRide r .cancelledCredential) s

theorem State.cancelRide_pool (s : State) (r : Ride) (o : RideOutcome) :
    ((s.cancelRide r o).free, (s.cancelRide r o).listK) = cancelPool s.free s.listK r o := by
  obtain ⟨hfree, -, hlistK⟩ := ((s.cancelled r o).returnGrant_frame r.dock).pool
  rw [State.cancelRide_eq, hfree, hlistK]
  exact (s.cancelled_beforeReturn r o).pool

theorem cancelPools_cons (free : List Nat) (k : List Posted) (r : Ride) (q : List Ride) (o : RideOutcome) :
    cancelPools free k (r :: q) o = cancelPools (cancelPool free k r o).1 (cancelPool free k r o).2 q o := rfl

theorem State.cancelRides_pools (s : State) (q : List Ride) :
    ((s.cancelRides q).free, (s.cancelRides q).listK) = cancelPools s.free s.listK q .cancelledCredential := by
  induction q generalizing s with
  | nil => rfl
  | cons r q ih =>
    rw [cancelPools_cons, ← State.cancelRide_pool]
    exact ih (s.cancelRide r .cancelledCredential)

theorem State.cancelRide_docksKept (s : State) (r : Ride) (o : RideOutcome) : DocksKept s (s.cancelRide r o) [r.dock] := by
  have hbefore := s.cancelled_beforeReturn r o
  have hkept : DocksKept s (s.cancelled r o) [r.dock] := by
    intro j hj
    rw [hbefore.dock, if_neg (by simpa using hj)]
    exact ⟨rfl, .inl rfl⟩
  exact hkept.trans (State.returnGrant_docksKept _ _ _)

theorem State.cancelRides_docksKept (s : State) (q : List Ride) : DocksKept s (s.cancelRides q) (q.map (fun r => r.dock)) := by
  induction q generalizing s with
  | nil => exact DocksKept.refl s _
  | cons r q ih =>
    exact ((s.cancelRide_docksKept r _).mono (by simp)).trans ((ih _).mono (by simp))

theorem State.cancelRide_line {s : State} {l : Line} (h : (s.line l).state ≠ .quiet) (r : Ride) (o : RideOutcome) :
    (s.cancelRide r o).line l = s.line l := by
  have hbefore := (s.cancelled_beforeReturn r o).line l
  exact (((s.cancelled r o).returnGrant_frame r.dock).same l (by rwa [hbefore])).trans hbefore

theorem State.cancelRides_line {s : State} {l : Line} (h : (s.line l).state ≠ .quiet) (q : List Ride) :
    (s.cancelRides q).line l = s.line l := by
  induction q generalizing s with
  | nil => rfl
  | cons r q ih =>
    have hstep := State.cancelRide_line h r .cancelledCredential
    exact (ih (by rwa [hstep])).trans hstep

/-- A dock is out of the release queue and the grant set. -/
def State.Outside (s : State) (d : DockIx) : Prop := (∀ y ∈ s.releaseQ, y.dock ≠ d) ∧ d ∉ s.grants

theorem BeforeReturn.queue_sub {s t : State} {r : Ride} {o : RideOutcome} (h : BeforeReturn s t r o) {d : DockIx}
    (hd : d = r.dock ∨ ∀ y ∈ s.releaseQ, y.dock ≠ d) : ∀ y ∈ t.releaseQ, y.dock ≠ d := by
  intro y hy
  rw [h.releaseQ] at hy
  obtain ⟨hmem, hne⟩ := List.mem_filter.mp hy
  rcases hd with rfl | hd
  · exact of_decide_eq_true hne
  · exact hd y hmem

/-- The procedure of R108 touches no dock that waits for nothing. -/
theorem State.returnGrant_outside {s : State} {d : DockIx} (hq : ∀ y ∈ s.releaseQ, y.dock ≠ d) (j : DockIx)
    (hg : d ≠ j → d ∉ s.grants) (hj : d = j → ∀ y ∈ s.releaseQ, y.dock ≠ j) : (s.returnGrant j).Outside d := by
  refine ⟨fun y hy => ?_, ?_⟩
  · have hqueue := (s.returnGrant_frame j).queue
    have hmem : (y.dock, y.ride) ∈ s.releaseQ.map (fun e => (e.dock, e.ride)) :=
      hqueue ▸ List.mem_map_of_mem (f := fun e : QEntry => (e.dock, e.ride)) hy
    obtain ⟨e, he, heq⟩ := List.mem_map.mp hmem
    have hdock : e.dock = y.dock := congrArg Prod.fst heq
    exact hdock ▸ hq e he
  · by_cases hdj : d = j
    · subst hdj
      exact State.returnGrant_not_mem hq
    · unfold State.returnGrant
      split
      · intro a
        rcases State.mem_issueGrants a with a | a
        · exact hg hdj (List.mem_of_mem_filter a)
        · obtain ⟨e, he, -, hed⟩ := State.mem_waiting.mp a
          exact hq e he hed
      · exact hg hdj

theorem State.cancelRide_outside {s : State} {r : Ride} {d : DockIx} (h : d = r.dock ∨ s.Outside d) (o : RideOutcome) :
    (s.cancelRide r o).Outside d ∧
    (s.cancelRide r o).dock d = if d = r.dock then (s.dock d).toDocked else s.dock d := by
  have hbefore := s.cancelled_beforeReturn r o
  have hq := hbefore.queue_sub (h.imp_right (fun hout => hout.1))
  refine ⟨State.returnGrant_outside hq r.dock (fun hne => ?_) (fun heq => heq ▸ hq), ?_⟩
  · rw [hbefore.grants]
    exact (h.resolve_left hne).2
  · rw [State.cancelRide_eq, State.returnGrant_dock hq, hbefore.dock]
    split
    · next heq => rw [heq]
    · rfl

theorem Dock.toDocked_toDocked (x : Dock) : x.toDocked.toDocked = x.toDocked := by
  have hdrop : x.pending.dropLatch.dropLatch = x.pending.dropLatch := by cases x.pending <;> rfl
  show { x.toDocked with pending := x.pending.dropLatch.dropLatch } = _
  rw [hdrop]
  rfl

/-- OPEN set by a grant goes when the dock becomes DOCKED (R74). -/
theorem Dock.toDocked_of_pending {x : Dock} {p : Pending} (h : p = x.pending ∨ x.pending = .none ∧ p = .openCmd) :
    Dock.toDocked { x with pending := p } = x.toDocked := by
  rcases h with rfl | ⟨hnone, rfl⟩
  · rfl
  · unfold Dock.toDocked
    rw [hnone]
    rfl

/-- A dock that is out of queue and grant set stays so through cancellations, DOCKED where one of them was at it. -/
theorem State.cancelRides_outside {s : State} {d : DockIx} (q : List Ride) (h : s.Outside d) :
    (s.cancelRides q).Outside d ∧ ((s.cancelRides q).dock d = s.dock d ∨ (s.cancelRides q).dock d = (s.dock d).toDocked) := by
  induction q generalizing s with
  | nil => exact ⟨h, .inl rfl⟩
  | cons r q ih =>
    obtain ⟨hout, hdock⟩ := State.cancelRide_outside (r := r) (.inr h) .cancelledCredential
    obtain ⟨hout', hdock'⟩ := ih hout
    refine ⟨hout', ?_⟩
    have hstep : (s.cancelRide r .cancelledCredential).dock d = s.dock d ∨
        (s.cancelRide r .cancelledCredential).dock d = (s.dock d).toDocked := by
      rw [hdock]
      split
      · exact .inr rfl
      · exact .inl rfl
    rcases hstep with e | e <;> rw [e] at hdock'
    · exact hdock'
    · rw [Dock.toDocked_toDocked] at hdock'
      exact .inr (hdock'.elim id id)

theorem State.cancelRides_dock {s : State} {q : List Ride} {r : Ride} (h : r ∈ q) :
    (s.cancelRides q).dock r.dock = (s.dock r.dock).toDocked ∧ (s.cancelRides q).Outside r.dock := by
  induction q generalizing s with
  | nil => cases h
  | cons x q ih =>
    by_cases hx : r.dock = x.dock
    · obtain ⟨hout, hdock⟩ := State.cancelRide_outside (s := s) (r := x) (.inl hx) .cancelledCredential
      obtain ⟨hout', hdock'⟩ := State.cancelRides_outside q hout
      rw [hdock, if_pos hx, Dock.toDocked_toDocked] at hdock'
      exact ⟨hdock'.elim id id, hout'⟩
    · have hq : r ∈ q := (List.mem_cons.mp h).resolve_left (fun e => hx (e ▸ rfl))
      obtain ⟨hdock, hout⟩ := ih (s := s.cancelRide x .cancelledCredential) hq
      refine ⟨hdock.trans ?_, hout⟩
      obtain ⟨hkept, hpend⟩ := s.cancelRide_docksKept x .cancelledCredential r.dock (by simpa using hx)
      rw [hkept]
      exact Dock.toDocked_of_pending hpend

end Sys2Proof.Machine
end
section
/-! PROOFS. Withdrawn and revoked credentials: their QUEUED rides cancelled, and the entries left (R26, R28 to R30). -/

namespace Sys2Proof.Machine

/-! ## The whole of a withdrawal's cancellations (R28) -/

/-- The QUEUED rides of a credential. -/
def State.queuedOf (s : State) (c : CredNo) : List Ride :=
  s.rides.filter (fun r => decide (r.cred = c ∧ r.state = .queued))

theorem Pending.dropLatch_eq (p : Pending) : p.dropLatch = withoutLatch p := by cases p <;> rfl

theorem State.cancelRides_moved {s : State} (q : List Ride) (h : GrantsIssued s)
    (hnodup : (s.releaseQ.map (fun e => e.dock)).Nodup) : Moved s (s.cancelRides q) (q.map (fun r => r.dock)) := by
  induction q generalizing s with
  | nil => exact h.moved_nil
  | cons r q ih =>
    obtain ⟨hmoved, hissued⟩ := State.cancelRide_moved h r .cancelledCredential
    obtain ⟨⟨-, -, -, -, -, -, -, hset, -⟩, -⟩ := (s.cancelRide_ride r .cancelledCredential).station
    have hruns : ∀ j, (s.cancelRide r .cancelledCredential).lineRuns j = s.lineRuns j := by
      intro j
      refine (((s.cancelled r _).returnGrant_frame r.dock).lineRuns j).trans ?_
      unfold State.lineRuns
      rw [(s.cancelled_beforeReturn r _).line]
    have hnodup' : ((s.cancelRide r .cancelledCredential).releaseQ.map (fun e => e.dock)).Nodup := by
      rw [hmoved.1.1, List.map_map]
      exact hnodup.sublist (List.filter_sublist.map _)
    exact hmoved.cons hset hruns hnodup (ih hissued hnodup')

/-- Rides are found by their numbers, so they are cancelled as they stand in the table. -/
theorem foldl_cancelForCred (q : List Ride) (s : State) (hs : RidesSorted s) (hsub : q.Sublist s.rides)
    (hq : ∀ r ∈ q, r.state = .queued) : (q.map (fun r => r.number)).foldl State.cancelForCred s = s.cancelRides q := by
  induction q generalizing s with
  | nil => rfl
  | cons r q ih =>
    have hmem : r ∈ s.rides := hsub.mem List.mem_cons_self
    obtain ⟨hfirst, -⟩ := List.pairwise_cons.mp (hs.sublist hsub)
    have hstep : s.cancelForCred r.number = s.cancelRide r .cancelledCredential := by
      simp [State.cancelForCred, State.findRide_of_mem hs hmem, hq r List.mem_cons_self]
    have hrides := (s.cancelRide_spec r .cancelledCredential).rides
    have hsub' : q.Sublist (s.cancelRide r .cancelledCredential).rides := by
      have hkeep : q.filter (fun x => decide (x.number ≠ r.number)) = q := by
        refine List.filter_eq_self.mpr (fun x hx => ?_)
        have hlt := hfirst x hx
        simpa using fun e : x.number = r.number => BitVec.lt_irrefl _ (e ▸ hlt)
      rw [hrides, ← hkeep]
      exact (List.sublist_of_cons_sublist hsub).filter _
    rw [List.map_cons, List.foldl_cons, hstep]
    refine ih _ ?_ hsub' (fun x hx => hq x (List.mem_cons_of_mem _ hx))
    unfold RidesSorted
    rw [hrides]
    exact hs.filter _

/-- The rides of a withdrawal. -/
def State.withdrawnRides (s : State) (f : CredNo → Bool) : List Ride :=
  s.rides.filter (fun r => decide (r.state = .queued) && f r.cred)

theorem State.cancelQueuedOf_eq {s : State} (hs : RidesSorted s) (f : CredNo → Bool) :
    s.cancelQueuedOf f = s.cancelRides (s.withdrawnRides f) := by
  refine foldl_cancelForCred _ s hs List.filter_sublist (fun r hr => ?_)
  have hboth := (List.mem_filter.mp hr).2
  rw [Bool.and_eq_true, decide_eq_true_eq] at hboth
  exact hboth.1

theorem State.cancelQueuedOf_all {s : State} (hs : RidesSorted s) (f : CredNo → Bool) :
    CancelledAll s (s.cancelQueuedOf f) (s.withdrawnRides f) := by
  have hrides := (State.cancelQueuedOf_spec hs f).rides
  have hpools := s.cancelRides_pools (s.withdrawnRides f)
  rw [← State.cancelQueuedOf_eq hs] at hpools
  refine ⟨?_, congrArg Prod.snd hpools, fun r hr => ?_, ?_, fun hrel hissued => ?_, fun l _ hl => ?_⟩
  · rw [hrides]
    refine List.filter_congr (fun r hr => ?_)
    have hmem : r ∈ s.withdrawnRides f ↔ (decide (r.state = .queued) && f r.cred) = true := by
      rw [State.withdrawnRides, List.mem_filter, and_iff_right hr]
    by_cases hg : (decide (r.state = .queued) && f r.cred) = true
    · simp [hg, hmem.mpr hg]
    · simp [hg, mt hmem.mp hg]
  all_goals rw [State.cancelQueuedOf_eq hs]
  · obtain ⟨hdock, hqueue, hgrant⟩ := State.cancelRides_dock (s := s) hr
    refine ⟨hdock.trans ?_, hqueue, hgrant⟩
    rw [Dock.toDocked, Pending.dropLatch_eq]
  · exact s.cancelRides_docksKept _
  · obtain ⟨-, ⟨hnodup, -⟩, -⟩ := hrel
    exact State.cancelRides_moved _ hissued hnodup
  · exact State.cancelRides_line hl _

theorem State.cancelQueuedOf_free {s : State} (hs : RidesSorted s) (f : CredNo → Bool) :
    (s.cancelQueuedOf f).free = (cancelPools s.free s.listK (s.withdrawnRides f) .cancelledCredential).1 := by
  rw [State.cancelQueuedOf_eq hs]
  exact congrArg Prod.fst (s.cancelRides_pools _)

/-- With no QUEUED ride to cancel, nothing changes. -/
theorem State.cancelQueuedOf_none {s : State} {f : CredNo → Bool} (h : ∀ r ∈ s.rides, f r.cred = false) :
    s.cancelQueuedOf f = s := by
  have hnone : s.queuedRidesOf f = [] := by
    unfold State.queuedRidesOf
    rw [List.filter_eq_nil_iff.mpr (fun r hr => by simp [h r hr]), List.map_nil]
  rw [State.cancelQueuedOf, hnone, List.foldl_nil]

/-- What follows the cancellations leaves rides, docks, queue, grants, lines and the Port K list as they are. -/
theorem CancelledAll.carry {s t u : State} {q : List Ride} (h : CancelledAll s t q) (hrides : u.rides = t.rides)
    (hlistK : u.listK = t.listK) (hdocks : u.docks = t.docks) (hqueue : u.releaseQ = t.releaseQ)
    (hgrants : u.grants = t.grants) (hA : u.lineA = t.lineA) (hB : u.lineB = t.lineB) : CancelledAll s u q := by
  have hdock : ∀ d, u.dock d = t.dock d := by
    intro d
    unfold State.dock
    rw [hdocks]
  unfold CancelledAll DocksKept GrantsMoved QueueMoved DocksMoved at h ⊢
  simp only [hrides, hlistK, hdock, hqueue, hgrants, State.line_of_eq hA hB]
  exact h

/-! ## One credential (R26, R28, R30) -/

/-- What the cancellation of a credential's QUEUED rides leaves, from a state written before it. -/
structure CredWithdrawn (s s0 t : State) (c : CredNo) (r : Response) (frame : Nat) : Prop where
  all     : CancelledAll s t (s.queuedOf c)
  free    : t.free = (cancelPools s.free s.listK (s.queuedOf c) .cancelledCredential).1
  own     : t.findCred c = cancelledTimes (s.queuedOf c).length (s0.findCred c)
  others  : ∀ c', c' ≠ c → t.findCred c' = s0.findCred c'
  listN   : t.listN = s.listN
  answers : Answers s t .n r frame
  station : SameStation s0 t

/-- Entries and sweep are written. -/
def State.withEntries (s : State) (creds : List Cred) (sweep : Sweep) : State := { s with creds := creds, sweep := sweep }

/-- The rides of the table that a test keeps are those of what it keeps. -/
theorem filter_mem_filter (rides : List Ride) (p : Ride → Bool) :
    rides.filter (fun r => decide (r ∈ rides.filter p)) = rides.filter p := by
  refine List.filter_congr (fun r hr => ?_)
  have hmem : r ∈ rides.filter p ↔ p r = true := by rw [List.mem_filter, and_iff_right hr]
  by_cases hp : p r = true <;> simp [hmem, hp]

theorem State.queuedOf_eq (s : State) (c : CredNo) : s.withdrawnRides (fun x => decide (x = c)) = s.queuedOf c := by
  refine List.filter_congr (fun r _ => ?_)
  by_cases h1 : r.state = .queued <;> by_cases h2 : r.cred = c <;> simp [h1, h2]

/-- How many of a credential's rides are among the QUEUED rides of another one. -/
theorem State.countP_queuedOf (s : State) (c c' : CredNo) :
    s.rides.countP (fun r => decide (r.cred = c') && (decide (r.state = .queued) && decide (r.cred = c))) =
      if c' = c then (s.queuedOf c).length else 0 := by
  split
  · next hc =>
    rw [State.queuedOf, ← List.countP_eq_length_filter, hc]
    refine List.countP_congr (fun r _ => ?_)
    simp only [Bool.and_eq_true, decide_eq_true_eq]
    exact ⟨fun h => ⟨h.1, h.2.1⟩, fun h => ⟨h.1, h.2, h.1⟩⟩
  · next hc =>
    rw [List.countP_eq_zero]
    rintro r - h
    simp only [Bool.and_eq_true, decide_eq_true_eq] at h
    exact hc (h.1.symm.trans h.2.2)

/-- The answer of a request that has written entries and sweep and then cancelled a credential's QUEUED rides. -/
theorem State.credWithdrawn {s s0 : State} (hs : RidesSorted s) (h0 : s0 = s.withEntries s0.creds s0.sweep) (c : CredNo)
    (n : Nat) (code : Byte) (k : Nat) (st : Status) (f : Fields) :
    CredWithdrawn s s0 (latchStoreLow n ((s0.cancelQueuedOf (fun x => decide (x = c))).answered .n code k st f))
      c ⟨code, st, f⟩ k := by
  generalize s0.creds = creds, s0.sweep = sweep at h0
  subst h0
  have hs0 : RidesSorted (s.withEntries creds sweep) := hs
  have hspec := State.cancelQueuedOf_spec hs0 (fun x => decide (x = c))
  have hfree := State.cancelQueuedOf_free hs0 (fun x => decide (x = c))
  have hall := State.cancelQueuedOf_all hs0 (fun x => decide (x = c))
  have hsame := State.answered_sameTables ((s.withEntries creds sweep).cancelQueuedOf (fun x => decide (x = c))) n .n
    code k st f
  rw [State.queuedOf_eq] at hfree hall
  refine ⟨hall.carry hsame.rides hsame.listK hsame.docks hsame.releaseQ hsame.grants hsame.lineA hsame.lineB,
    hsame.free.trans hfree, ?_, fun c' hc' => ?_, hsame.listN.trans hspec.listN,
    answers_of_portsKept (s := s) hspec.frame.ports n code k st f, SameStation.trans hspec.frame.station hsame.station⟩
  · refine (hsame.findCred c).trans ((hspec.cred c).trans ?_)
    exact congrArg (fun i => cancelledTimes i _) ((s.countP_queuedOf c c).trans (if_pos rfl))
  · refine (hsame.findCred c').trans ((hspec.cred c').trans ?_)
    exact congrArg (fun i => cancelledTimes i _) ((s.countP_queuedOf c c').trans (if_neg hc'))

/-- A LAPSED entry whose count is right goes with the last of its rides (R29). -/
theorem cancelledTimes_left {e : Cred} {k left : Nat} (h : e.openRides = k + left) (h0 : e.openRides ≠ 0) :
    cancelledTimes k (some { e with state := .lapsed }) =
      if left = 0 then none else some { e with state := .lapsed, openRides := left } := by
  rw [cancelledTimes_lapsed rfl k (by show k ≤ e.openRides; omega)]
  dsimp only
  by_cases hl : left = 0
  · rw [if_pos hl, if_pos (by omega)]
  · rw [if_neg hl, if_neg (by omega), show e.openRides - k = left by omega]

/-- The rides that name a credential are those that leave the table and those that stay. -/
theorem countP_gone_add_left (rides : List Ride) (c : CredNo) (q : List Ride) :
    rides.countP (fun r => decide (r.cred = c)) =
      (rides.filter (fun r => decide (r ∈ q))).countP (fun r => decide (r.cred = c)) +
        (rides.filter (fun r => decide (r ∉ q))).countP (fun r => decide (r.cred = c)) := by
  rw [List.countP_eq_countP_filter_add rides (fun r => decide (r.cred = c)) (fun r => decide (r ∈ q))]
  simp only [decide_not]

/-- What stays of a credential's rides once its QUEUED ones are gone. -/
theorem State.queuedOf_add_left (s : State) (c : CredNo) : s.ridesOf c = (s.queuedOf c).length +
    (s.rides.filter (fun r => decide (r ∉ s.queuedOf c))).countP (fun r => decide (r.cred = c)) := by
  have hown : ∀ r ∈ s.queuedOf c, decide (r.cred = c) = true := by
    intro r hr
    have hboth := of_decide_eq_true (List.mem_filter.mp hr).2
    exact decide_eq_true hboth.1
  rw [State.ridesOf, countP_gone_add_left s.rides c (s.queuedOf c)]
  refine congrArg (· + _) ?_
  rw [State.queuedOf, filter_mem_filter]
  exact List.countP_eq_length.mpr hown

namespace CredWithdrawn

variable {s s0 t : State} {c : CredNo} {r : Response} {frame : Nat}

theorem left (h : CredWithdrawn s s0 t c r frame) : s.ridesOf c = (s.queuedOf c).length + t.ridesOf c := by
  rw [s.queuedOf_add_left, State.ridesOf, h.all.1]

/-- An entry withdrawn with a right count keeps the rides left as its count, or goes with the last (R28, R29). -/
theorem lapsed (h : CredWithdrawn s s0 t c r frame) {e : Cred} (he : s0.findCred c = some { e with state := .lapsed })
    (hcount : e.openRides = s.ridesOf c) (h0 : e.openRides ≠ 0) : t.findCred c =
      if t.ridesOf c = 0 then none else some { e with state := .lapsed, openRides := t.ridesOf c } := by
  rw [h.own, he]
  exact cancelledTimes_left (hcount.trans h.left) h0

end CredWithdrawn

/-- The state of an entry is written. -/
def State.setCredState (s : State) (c : CredNo) (st : CredState) : State := s.updCred c (fun x => { x with state := st })

theorem State.findCred_setCredState (s : State) (c c' : CredNo) (st : CredState) :
    (s.setCredState c st).findCred c' =
      if c' = c then (s.findCred c).map (fun e => { e with state := st }) else s.findCred c' := by
  refine (State.findCred_updCred s c c' (f := fun x => { x with state := st }) (fun _ => rfl)).trans ?_
  split
  · next hc => rw [hc]
  · exact Option.map_id'

/-- CRED REMOVE of an entry with rides that is not LAPSED yet. -/
theorem credRemoveRule_withdraws {s : State} {c : CredNo} {e : Cred} (he : s.findCred c = some e) (h0 : e.openRides ≠ 0)
    (hl : e.state ≠ .lapsed) : credRemoveRule c s =
      ((s.setCredState c .lapsed).cancelQueuedOf (fun x => decide (x = c)), ⟨.ok, .none⟩) := by
  rw [credRemoveRule, he]
  dsimp only
  rw [if_neg h0, if_neg hl]
  rfl

/-! ## CRED STATE (R26) -/

theorem credStateRule_refuses {st : Byte} (h : 3 ≤ st.toNat) (c : CredNo) (s : State) :
    credStateRule c st s = answer s .badValue := by
  rw [credStateRule, settableState_of_le h]

theorem credStateRule_notFound {st : Byte} (h : st.toNat < 3) {c : CredNo} {s : State} (hc : s.findCred c = none) :
    credStateRule c st s = answer s .notFound := by
  obtain ⟨cs, hcs⟩ := settableState_isSome h
  rw [credStateRule, hcs]
  dsimp only
  rw [hc]

/-- Writing the state that an entry has changes nothing. -/
theorem State.setCredState_self {s : State} (hs : CredsSorted s) {c : CredNo} {e : Cred} (he : s.findCred c = some e) :
    s.setCredState c e.state = s := by
  refine (State.updCred_eq hs he (f := fun x => { x with state := e.state }) (g := id) rfl).trans ?_
  unfold State.updCred
  simp only [id_eq, ite_self, List.map_id']

/-- CRED STATE to ACTIVE or SUSPENDED writes the state. -/
theorem credStateRule_writes {s : State} (hs : CredsSorted s) {c : CredNo} {e : Cred} (he : s.findCred c = some e)
    {st : Byte} (h : st.toNat < 2) :
    credStateRule c st s = (s.setCredState c (if st = 0#8 then .active else .suspended), ⟨.ok, .none⟩) := by
  have hstate : (if st = 0#8 then CredState.active else .suspended) ≠ .revoked := by split <;> decide
  rw [credStateRule, settableState_of_lt h]
  dsimp only
  rw [he]
  dsimp only
  generalize (if st = 0#8 then CredState.active else .suspended) = cs at hstate ⊢
  split
  · next hsame => rw [← hsame, State.setCredState_self hs he]; rfl
  · rfl

theorem credStateRule_revoked {s : State} {c : CredNo} {e : Cred} (he : s.findCred c = some e) (h : e.state = .revoked) :
    credStateRule c 2#8 s = answer s .ok := by
  rw [credStateRule, show settableState 2#8 = some .revoked from rfl]
  dsimp only
  rw [he]
  exact if_pos h

theorem credStateRule_revokes {s : State} {c : CredNo} {e : Cred} (he : s.findCred c = some e) (h : e.state ≠ .revoked) :
    credStateRule c 2#8 s =
      ((s.setCredState c .revoked).cancelQueuedOf (fun x => decide (x = c)), ⟨.ok, .none⟩) := by
  rw [credStateRule, show settableState 2#8 = some .revoked from rfl]
  dsimp only
  rw [he]
  dsimp only
  rw [if_neg h, if_pos rfl]
  rfl

/-! ## CRED LOAD with REVOKED (R24, R28) -/

/-- The table with the entry of a CRED LOAD of REVOKED put into it. -/
def State.revokedLoad (s : State) (c : CredNo) (cls : Fin 4) (secret : BitVec 32) (counter balance overdraft : Word16)
    (keep : Byte) : State :=
  State.putCred { s with sweep := s.idleRestarted } (s.loadedCred c .revoked cls secret counter balance overdraft keep)

theorem credLoadRule_revokes {c : CredNo} {cls : Byte} (hc : c ≠ 0#24) (hcls : cls.toNat < 4) {s : State}
    (hroom : (s.findCred c).isSome = true ∨ s.creds.length < 2048) (secret : BitVec 32)
    (counter balance overdraft : Word16) (keep : Byte) :
    credLoadRule c 2#8 cls secret counter balance overdraft keep s =
      ((s.revokedLoad c ⟨cls.toNat, hcls⟩ secret counter balance overdraft keep).cancelQueuedOf
        (fun x => decide (x = c)), ⟨s.loadStatus c balance overdraft keep, .none⟩) := by
  rw [credLoadRule_loads hc (show settableState 2#8 = some .revoked from rfl) hcls hroom, State.loadCred_eq]
  dsimp only
  rw [if_pos rfl]
  rfl

theorem State.findCred_revokedLoad (s : State) (c c' : CredNo) (cls : Fin 4) (secret : BitVec 32)
    (counter balance overdraft : Word16) (keep : Byte) :
    (s.revokedLoad c cls secret counter balance overdraft keep).findCred c' =
      if c' = c then some (s.loadedCred c .revoked cls secret counter balance overdraft keep) else s.findCred c' :=
  State.findCred_putCred _ _ _

section
variable {s : State} {c : CredNo} (st : CredState) (cls : Fin 4) (secret : BitVec 32)
  (counter balance overdraft : Word16) (keep : Byte)

theorem State.loadedBalance_of_none (h : s.findCred c = none) : s.loadedBalance c balance keep = balance.toInt := by
  unfold State.loadedBalance State.keptCred
  by_cases hk : keep = 0#8 <;> simp [hk, h]

theorem State.loadedCred_of_none (h : s.findCred c = none) :
    s.loadedCred c st cls secret counter balance overdraft keep =
      { number := c, state := st, cls := cls, secret := secret, counter := counter,
        balance := max (-((min overdraft.toNat 32767 : Nat) : Int)) (min 32767 balance.toInt),
        overdraft := min overdraft.toNat 32767, openRides := 0,
        mark := if s.sweep.openNo = 0#8 then s.sweep.lastClosed else s.sweep.openNo } := by
  unfold State.loadedCred
  rw [State.loadedBalance_of_none balance keep h]
  unfold State.keptCred
  by_cases hk : keep = 0#8 <;> simp [hk, h]

variable {e : Cred} (he : s.findCred c = some e)
include he

theorem State.loadedBalance_of_some :
    s.loadedBalance c balance keep = if keep = 0#8 then balance.toInt else e.balance := by
  unfold State.loadedBalance State.keptCred
  by_cases hk : keep = 0#8 <;> simp [hk, he]

theorem State.loadedCred_of_some :
    s.loadedCred c st cls secret counter balance overdraft keep =
      { number := c, state := st, cls := cls, secret := secret, counter := if keep = 0#8 then counter else e.counter,
        balance := max (-((min overdraft.toNat 32767 : Nat) : Int))
          (min 32767 (if keep = 0#8 then balance.toInt else e.balance)),
        overdraft := min overdraft.toNat 32767, openRides := e.openRides,
        mark := if s.sweep.openNo = 0#8 then s.sweep.lastClosed else s.sweep.openNo } := by
  unfold State.loadedCred
  rw [State.loadedBalance_of_some balance keep he]
  unfold State.keptCred
  by_cases hk : keep = 0#8 <;> simp [hk, he]

end

end Sys2Proof.Machine

namespace Sys2Proof.Proofs

open Sys2Proof.Machine

/-- Settles O16. -/
theorem credRemoveWithdraws : Obligations.CredRemoveWithdraws := by
  intro s c hs
  refine ⟨fun h => request_refused hs _ _ ?_, fun e he h0 => ?_, fun e he h0 hl => ?_, fun e hinv he h0 hl => ?_⟩
  · rw [onlyN_n, credRemoveRule, h]
  · refine request_next hs _ _ (t := s.dropCred c) ?_ (Nat.le_refl _)
    rw [onlyN_n, credRemoveRule, he]
    exact if_pos h0
  · refine request_refused hs _ _ ?_
    rw [onlyN_n, credRemoveRule, he]
    dsimp only
    rw [if_neg h0, if_pos hl]
  · have hdone := State.credWithdrawn (s0 := s.setCredState c .lapsed) hinv.1 rfl c s.free.length 0x04#8 6 .ok .none
    have hwritten := s.findCred_setCredState c c .lapsed
    rw [if_pos rfl, he, Option.map_some] at hwritten
    refine ⟨_, request_answers hs _ _ (credRemoveRule_withdraws he h0 hl), hdone.all, hdone.free,
      hdone.lapsed hwritten (hinv.counted.count c e he).1 h0, fun c' hc' => ?_, hdone.answers, hdone.station, hdone.listN⟩
    exact (hdone.others c' hc').trans ((s.findCred_setCredState c c' .lapsed).trans (if_neg hc'))

/-- Settles O14: every refusal and plain write by its rule; a revocation by the one law of a withdrawal, whether CRED STATE
or CRED LOAD wrote the entry. -/
theorem credStateSets : Obligations.CredStateSets := by
  intro s c hs hsorted queued
  refine ⟨fun st h => request_refused hs _ _ (credStateRule_refuses h c s),
    fun st h hc => request_refused hs _ _ (credStateRule_notFound h hc), fun st h hc => ?_,
    fun e he h => request_refused hs _ _ (credStateRule_revoked he h), fun e hrides he h => ?_, ?_⟩
  · obtain ⟨e, he⟩ := Option.isSome_iff_exists.mp hc
    exact request_next hs _ _ (credStateRule_writes hsorted he h) (Nat.le_refl _)
  · have hdone := State.credWithdrawn (s0 := s.setCredState c .revoked) hrides rfl c s.free.length 0x02#8 7 .ok .none
    have hwritten := s.findCred_setCredState c c .revoked
    rw [if_pos rfl, he, Option.map_some] at hwritten
    refine ⟨_, request_answers hs _ _ (credStateRule_revokes he h), hdone.all, hdone.free, ?_, fun c' hc' => ?_,
      hdone.answers, hdone.station, hdone.listN⟩
    · exact (hdone.own.trans (congrArg _ hwritten)).trans (cancelledTimes_kept (show CredState.revoked ≠ .lapsed by decide) _)
    · exact (hdone.others c' hc').trans ((s.findCred_setCredState c c' .revoked).trans (if_neg hc'))
  · intro cls keep secret counter balance overdraft hcls hc sweep mark d
    refine ⟨?_, ?_⟩
    · intro e hrides he b e'
      have hrule := credLoadRule_revokes hc hcls (.inl (by rw [he]; rfl)) secret counter balance overdraft keep
      rw [State.loadStatus, State.loadedBalance_of_some balance keep he] at hrule
      have hdone := State.credWithdrawn (s0 := s.revokedLoad c ⟨cls.toNat, hcls⟩ secret counter balance overdraft keep)
        hrides rfl c s.free.length 0x01#8 19 (if d = overdraft.toNat ∧ e'.balance = b then .ok else .clamped) .none
      have hwritten := s.findCred_revokedLoad c c ⟨cls.toNat, hcls⟩ secret counter balance overdraft keep
      rw [if_pos rfl, State.loadedCred_of_some _ _ _ _ _ _ _ he] at hwritten
      refine ⟨_, request_answers hs _ _ hrule, hdone.all, hdone.free, ?_, fun c' hc' => ?_, hdone.listN, hdone.answers,
        hdone.station⟩
      · exact (hdone.own.trans (congrArg _ hwritten)).trans (cancelledTimes_kept (show CredState.revoked ≠ .lapsed by decide) _)
      · exact (hdone.others c' hc').trans ((s.findCred_revokedLoad c c' _ _ _ _ _ _).trans (if_neg hc'))
    · intro he hlen hno e'
      have hrule := credLoadRule_revokes hc hcls (.inr hlen) secret counter balance overdraft keep
      have hnone := State.cancelQueuedOf_none (s := s.revokedLoad c ⟨cls.toNat, hcls⟩ secret counter balance overdraft keep)
        (f := fun x => decide (x = c)) (fun r hr => decide_eq_false (hno r hr))
      rw [hnone, State.loadStatus,
        State.loadedBalance_of_none balance keep he] at hrule
      refine ⟨_, request_next hs _ _ hrule (Nat.le_refl _), ?_, fun c' hc' => ?_, rfl⟩
      · rw [State.answered_findCred, State.findCred_revokedLoad, if_pos rfl, State.loadedCred_of_none _ _ _ _ _ _ _ he]
      · rw [State.answered_findCred, State.findCred_revokedLoad, if_neg hc']

end Sys2Proof.Proofs
end
section
/-! PROOFS. SWEEP CLOSE (R35, R36). -/

namespace Sys2Proof.Machine

/-! ## The close up to its notice -/

/-- The table once the unmarked entries are withdrawn (R35). -/
def State.swept (s : State) (n : Byte) : State := s.withEntries (withdraw n s.creds) s.sweep

/-- The state of a close once the rides are cancelled and the sweep is closed (R35, R36). -/
def State.sweepClosed (s : State) (n : Byte) : State :=
  { (s.swept n).cancelQueuedOf ((s.swept n).withdrawn n) with sweep := ⟨0#8, n, none⟩ }

/-- The notice of a close (R36). -/
def sweepDoneOf (n : Byte) (creds : List Cred) : NoticeBody :=
  .sweepDone n (sweepCounts n creds).1 (sweepCounts n creds).2.1 (sweepCounts n creds).2.2

theorem sweepCloseRule_closes {n : Byte} {s : State} (h : s.sweep.openNo ≠ 0#8) (hn : s.sweep.openNo = n) :
    sweepCloseRule n s = (((s.sweepClosed n).notice .none (sweepDoneOf n s.creds)).latch .n evSweep,
      ⟨.ok, .sweepCounts (sweepCounts n s.creds).1 (sweepCounts n s.creds).2.1 (sweepCounts n s.creds).2.2⟩) :=
  (if_neg h).trans (if_neg (fun a => a hn.symm))

/-- The three counts divide the entries present (R36). -/
theorem sweepCounts_sum (n : Byte) (creds : List Cred) :
    (sweepCounts n creds).1 + (sweepCounts n creds).2.1 + (sweepCounts n creds).2.2 = creds.length := by
  unfold sweepCounts
  dsimp only
  induction creds with
  | nil => rfl
  | cons e es ih =>
    rw [List.countP_cons, List.countP_cons, List.countP_cons, List.length_cons, ← ih]
    by_cases hm : e.mark = n <;> by_cases hr : e.openRides = 0 <;> simp [hm, hr] <;> omega

/-! ## Which rides go (R28) -/

/-- The QUEUED rides of unmarked entries. -/
def State.sweptRides (s : State) (n : Byte) : List Ride :=
  s.rides.filter (fun r =>
    decide (r.state = .queued) && s.creds.any (fun e => decide (e.number = r.cred ∧ e.mark ≠ n)))

section
variable {s : State} (h : CountInv s) {n : Byte}
include h

theorem CountInv.findCred_swept (c : CredNo) : (s.swept n).findCred c = (s.findCred c).bind (withdrawnEntry n) := by
  obtain ⟨-, hs, -⟩ := h
  exact findCred_withdraw hs n c

/-- An entry with rides is withdrawn exactly where it is unmarked. -/
theorem CountInv.withdrawn_swept {c : CredNo} {e : Cred} (he : s.findCred c = some e) (h0 : e.openRides ≠ 0) :
    (s.swept n).withdrawn n c = decide (e.mark ≠ n) := by
  unfold State.withdrawn
  rw [h.findCred_swept, he, Option.bind_some]
  unfold withdrawnEntry
  by_cases hm : e.mark = n <;> simp [hm, h0]

theorem CountInv.any_unmarked {c : CredNo} {e : Cred} (he : s.findCred c = some e) :
    s.creds.any (fun x => decide (x.number = c ∧ x.mark ≠ n)) = decide (e.mark ≠ n) := by
  obtain ⟨-, hs, -⟩ := h
  obtain ⟨hmem, hnum⟩ := State.findCred_some he
  rw [Bool.eq_iff_iff, List.any_eq_true, decide_eq_true_eq]
  constructor
  · rintro ⟨x, hx, hboth⟩
    obtain ⟨hxc, hxm⟩ := of_decide_eq_true hboth
    rwa [← State.findCred_unique hs he hx hxc]
  · intro hm
    exact ⟨e, hmem, decide_eq_true ⟨hnum, hm⟩⟩

/-- Every ride of the table has its entry, with a count that is not 0. -/
theorem CountInv.entry_of_ride {r : Ride} (hr : r ∈ s.rides) : ∃ e, s.findCred r.cred = some e ∧ e.openRides ≠ 0 := by
  have hne := State.ridesOf_ne_zero hr
  obtain ⟨e, he⟩ := Option.ne_none_iff_exists'.mp (h.counted.named r.cred hne)
  exact ⟨e, he, (h.counted.count _ e he).1 ▸ hne⟩

theorem CountInv.sweptRides : (s.swept n).withdrawnRides ((s.swept n).withdrawn n) = s.sweptRides n := by
  refine List.filter_congr (fun r hr => ?_)
  obtain ⟨e, he, h0⟩ := h.entry_of_ride hr
  rw [h.withdrawn_swept he h0, h.any_unmarked he]

/-- How many rides of an entry go. -/
theorem CountInv.countP_swept {c : CredNo} {e : Cred} (he : s.findCred c = some e) :
    s.rides.countP (fun r => decide (r.cred = c) && (decide (r.state = .queued) && (s.swept n).withdrawn n r.cred)) =
      if e.mark = n then 0 else (s.queuedOf c).length := by
  rw [State.queuedOf, ← List.countP_eq_length_filter]
  split
  · next hm =>
    rw [List.countP_eq_zero]
    intro r hr hall
    simp only [Bool.and_eq_true, decide_eq_true_eq] at hall
    obtain ⟨hc, -, hwith⟩ := hall
    obtain ⟨e', he', h0⟩ := h.entry_of_ride hr
    rw [h.withdrawn_swept he' h0] at hwith
    rw [hc, he] at he'
    cases he'
    exact of_decide_eq_true hwith hm
  · next hm =>
    refine List.countP_congr (fun r hr => ?_)
    simp only [Bool.and_eq_true, decide_eq_true_eq]
    refine ⟨fun hall => ⟨hall.1, hall.2.1⟩, fun hboth => ⟨hboth.1, hboth.2, ?_⟩⟩
    obtain ⟨e', he', h0⟩ := h.entry_of_ride hr
    rw [h.withdrawn_swept he' h0]
    rw [hboth.1, he] at he'
    cases he'
    exact decide_eq_true hm

/-! ## The state of a close -/

theorem CountInv.sweepClosed_all : CancelledAll s (s.sweepClosed n) (s.sweptRides n) := by
  have hall := State.cancelQueuedOf_all (s := s.swept n) h.1 ((s.swept n).withdrawn n)
  rw [h.sweptRides] at hall
  exact hall

theorem CountInv.sweepClosed_free :
    (s.sweepClosed n).free = (cancelPools s.free s.listK (s.sweptRides n) .cancelledCredential).1 := by
  have hfree := State.cancelQueuedOf_free (s := s.swept n) h.1 ((s.swept n).withdrawn n)
  rw [h.sweptRides] at hfree
  exact hfree

theorem CountInv.sweepClosed_spec :
    WithdrawSpec (s.swept n) ((s.swept n).cancelQueuedOf ((s.swept n).withdrawn n))
      (fun r => decide (r.state = .queued) && (s.swept n).withdrawn n r.cred) :=
  State.cancelQueuedOf_spec (s := s.swept n) h.1 _

/-- The rides of an unmarked entry are its QUEUED ones, which go, and those that stay. -/
theorem CountInv.queued_add_left {c : CredNo} {e : Cred} (he : s.findCred c = some e) (hm : e.mark ≠ n) :
    e.openRides = (s.queuedOf c).length + (s.sweepClosed n).ridesOf c := by
  have hgone := h.countP_swept (n := n) he
  have hrides := (h.sweepClosed_spec (n := n)).rides
  rw [if_neg hm] at hgone
  have hleft : (s.sweepClosed n).ridesOf c = (s.rides.filter (fun r =>
      !(decide (r.state = .queued) && (s.swept n).withdrawn n r.cred))).countP (fun r => decide (r.cred = c)) :=
    congrArg (List.countP (fun r : Ride => decide (r.cred = c))) hrides
  rw [(h.counted.count c e he).1, State.ridesOf, hleft, ← hgone, ← List.countP_filter,
    ← List.countP_eq_countP_filter_add]

/-- What a close leaves of an entry (R29, R35). -/
theorem CountInv.findCred_sweepClosed {c : CredNo} {e : Cred} (he : s.findCred c = some e) :
    (s.sweepClosed n).findCred c =
      if e.mark = n then some e
      else if e.openRides = 0 ∨ (s.sweepClosed n).ridesOf c = 0 then none
      else some { e with state := .lapsed, openRides := (s.sweepClosed n).ridesOf c } := by
  have hcred := (h.sweepClosed_spec (n := n)).cred c
  rw [h.findCred_swept, he, Option.bind_some] at hcred
  refine hcred.trans ((congrArg (fun i => cancelledTimes i _) (h.countP_swept he)).trans ?_)
  unfold withdrawnEntry
  by_cases hm : e.mark = n
  · rw [if_pos hm, if_pos hm, if_pos hm]
    rfl
  · rw [if_neg hm, if_neg hm, if_neg hm]
    by_cases h0 : e.openRides = 0
    · rw [if_pos h0, if_pos (.inl h0), cancelledTimes_none]
    · rw [if_neg h0, cancelledTimes_left (h.queued_add_left he hm) h0]
      simp only [h0, false_or]

/-- An entry left without the mark is LAPSED. -/
theorem CountInv.sweepClosed_lapsed {c : CredNo} {e : Cred} (he : (s.sweepClosed n).findCred c = some e)
    (hm : e.mark ≠ n) : e.state = .lapsed := by
  cases hfind : s.findCred c with
  | none =>
    have hnone : (s.sweepClosed n).findCred c = none := by
      refine ((h.sweepClosed_spec (n := n)).cred c).trans ?_
      rw [h.findCred_swept, hfind, Option.bind_none, cancelledTimes_none]
    rw [hnone] at he
    cases he
  | some e0 =>
    rw [h.findCred_sweepClosed hfind] at he
    split at he
    · next hm0 => cases he; exact absurd hm0 hm
    · split at he
      · cases he
      · cases he; rfl

end

/-! ## The notice of a close -/

/-- A notice that is tied to nothing depends on levels, clock and Port N list alone. -/
theorem Notified.base {s u t : State} {free : List Nat} {sub : Subject} {b : NoticeBody} (h : Notified u t free sub b)
    (hb : b.kind.tied = false) (hlevels : u.levels = s.levels) (hminute : u.minute = s.minute)
    (hsecond : u.second = s.second) (hclock : u.clockSet = s.clockSet) (hlist : u.listN = s.listN) :
    Notified s t free sub b := by
  have hlevel : u.level b.kind = s.level b.kind := by
    unfold State.level
    rw [hlevels]
  unfold Notified PostedN at h ⊢
  rw [hlevel, hminute, hsecond, hclock, hlist, u.suppressed_of_not_tied sub hb] at h
  rw [s.suppressed_of_not_tied sub hb]
  exact h

/-- A close with its notice posted and SWEEP latched (R36, R170). -/
def State.sweepAnnounced (s : State) (n : Byte) : State :=
  ((s.sweepClosed n).notice .none (sweepDoneOf n s.creds)).latch .n evSweep

theorem State.sweepAnnounced_pool (s : State) (n : Byte) : PoolFrame (s.sweepClosed n) (s.sweepAnnounced n) :=
  (State.notice_pool _ _ _).trans (State.latch_pool _ _ _)

theorem State.sweepAnnounced_listK (s : State) (n : Byte) : (s.sweepAnnounced n).listK = (s.sweepClosed n).listK :=
  (State.latch_listK ..).trans (State.notice_listK ..)

theorem CountInv.sweepAnnounced_notified {s : State} (h : CountInv s) (n : Byte) :
    Notified s (s.sweepAnnounced n) (s.sweepClosed n).free .none (sweepDoneOf n s.creds) := by
  have hspec := h.sweepClosed_spec (n := n)
  obtain ⟨⟨hminute, hsecond, hclock, -, -, -, hlevels, -, -⟩, -, -⟩ := hspec.frame.station
  exact (((s.sweepClosed n).notice_notified .none (sweepDoneOf n s.creds)).base rfl hlevels hminute hsecond hclock
    hspec.listN).carry (State.latch_free ..) (State.latch_listN ..) (fun ho => State.latch_latched ho _ _)

theorem CountInv.sweepAnnounced_sorted {s : State} (h : CountInv s) (n : Byte) : CredsSorted (s.sweepAnnounced n) := by
  obtain ⟨-, hs, -⟩ := h
  exact ((Ledger.refl True s).closeSweep n).credsSorted hs

/-- The state that a request answers: the tables its rule leaves, and the response on its port. -/
theorem request_tables {p : Port} {s u : State} {st : Status} {f : Fields} {rule : State → State × Reply} (hs : s.takes p)
    (code : Byte) (n : Nat) (h : rule s = (u, ⟨st, f⟩)) (hports : PortsKept s u) :
    ∃ t : State, request p code n rule s = .next t ∧ SameTables u t ∧ Answers s t p ⟨code, st, f⟩ n ∧
      ∀ e : Byte, u.portN.latched &&& e = e → t.portN.latched &&& e = e :=
  ⟨_, request_answers hs code n h, State.answered_sameTables _ _ _ _ _ _ _, answers_of_portsKept hports _ _ _ _ _,
    fun _ he => State.answered_latched he _ _ _ _ _ _⟩

end Sys2Proof.Machine

namespace Sys2Proof.Proofs

open Sys2Proof.Machine

/-- Settles O18: the close's cancellations by the law of a withdrawal, its entries one by one, and its notice after them. -/
theorem sweepCloseWithdraws : Obligations.SweepCloseWithdraws := by
  intro s n hs
  refine ⟨fun h0 => request_refused hs _ _ (if_pos h0), fun h0 hn => ?_, fun hinv hn0 hn => ?_⟩
  · refine request_next hs _ _ (t := s.startIdle) ((if_neg h0).trans ((if_pos (Ne.symm hn)).trans ?_)) (Nat.le_refl _)
    rw [State.restartIdle, if_neg h0]
    rfl
  · intro queued
    have hpool := s.sweepAnnounced_pool n
    have hspec := hinv.sweepClosed_spec (n := n)
    obtain ⟨⟨hminute, hsecond, -, -, -, -, hlevels, hset, -⟩, hqueue, -⟩ := hspec.frame.station
    have hports : PortsKept s (s.sweepAnnounced n) := PortsKept.trans hspec.frame.ports hpool.ports
    obtain ⟨t, hexec, hsame, hanswers, hlatched⟩ := request_tables hs 0x06#8 4 (sweepCloseRule_closes (hn ▸ hn0) hn) hports
    obtain ⟨⟨tminute, tsecond, -, -, tsweep, -, tlevels, tset, -⟩, tqueue, -⟩ :=
      SameStation.trans hpool.station hsame.station
    have hfind : ∀ c, t.findCred c = (s.sweepClosed n).findCred c :=
      fun c => (hsame.findCred c).trans (hpool.findCred c)
    have hrides : t.rides = (s.sweepClosed n).rides := hsame.rides.trans hpool.rides
    have hleft : ∀ c, t.ridesOf c = (s.sweepClosed n).ridesOf c := by
      intro c
      rw [State.ridesOf, hrides]
      rfl
    have hentry : ∀ e ∈ s.creds, s.findCred e.number = some e := fun e he => State.findCred_of_mem hinv.2.1 he
    have hall := (hinv.sweepClosed_all (n := n)).carry hrides (hsame.listK.trans (s.sweepAnnounced_listK n))
      (hsame.docks.trans hpool.docks) (hsame.releaseQ.trans hpool.releaseQ) (hsame.grants.trans hpool.grants)
      (hsame.lineA.trans hpool.lineA) (hsame.lineB.trans hpool.lineB)
    have hnotified := (hinv.sweepAnnounced_notified n).carry hsame.free hsame.listN (fun ho => hlatched _ ho)
    rw [hinv.sweepClosed_free] at hnotified
    refine ⟨t, _, _, _, hexec, tsweep, hlatched _ (State.latch_latched_self _ _), rfl, ?_, rfl, sweepCounts_sum n s.creds,
      hanswers, fun e he hm => ?_, fun e he hm h0 => ?_, fun e he hm h0 => ?_, fun e he hm => ?_, hall, hnotified,
      tminute.trans hminute, tsecond.trans hsecond, tqueue.trans hqueue, tset.trans hset, tlevels.trans hlevels⟩
    · exact List.countP_congr (fun e _ => by simp [Nat.pos_iff_ne_zero])
    · rw [hfind, hinv.findCred_sweepClosed (hentry e he), if_pos hm]
    · rw [hfind, hinv.findCred_sweepClosed (hentry e he), if_neg hm, if_pos (.inl h0)]
    · refine (hfind e.number).trans ((hinv.findCred_sweepClosed (hentry e he)).trans ?_)
      rw [if_neg hm, ← hleft]
      simp only [h0, false_or]
      rfl
    · have hu : e ∈ (s.sweepAnnounced n).creds := hsame.creds ▸ he
      have hlast := State.findCred_of_mem (hinv.sweepAnnounced_sorted n) hu
      exact hinv.sweepClosed_lapsed ((hpool.findCred e.number).symm.trans hlast) hm

end Sys2Proof.Proofs
end
section
/-! PROOFS. What reads no credential secret: the operations over the tables commute with hiding every secret (R20). -/

namespace Sys2Proof.Machine

/-! ## Hidden secrets -/

/-- An entry with its secret set to 0. -/
def Cred.hidden (e : Cred) : Cred := { e with secret := 0#32 }

@[simp] theorem Cred.hidden_state (e : Cred) : e.hidden.state = e.state := rfl
@[simp] theorem Cred.hidden_balance (e : Cred) : e.hidden.balance = e.balance := rfl
@[simp] theorem Cred.hidden_counter (e : Cred) : e.hidden.counter = e.counter := rfl
@[simp] theorem Cred.hidden_overdraft (e : Cred) : e.hidden.overdraft = e.overdraft := rfl
@[simp] theorem Cred.hidden_openRides (e : Cred) : e.hidden.openRides = e.openRides := rfl
@[simp] theorem Cred.hidden_mark (e : Cred) : e.hidden.mark = e.mark := rfl
@[simp] theorem Cred.hidden_report (e : Cred) : e.hidden.report = e.report := rfl

section
variable (s : State)

theorem State.creds_hideSecrets : s.hideSecrets.creds = s.creds.map Cred.hidden := rfl

theorem State.hideSecrets_hideSecrets : s.hideSecrets.hideSecrets = s.hideSecrets := by
  have hcreds : (s.creds.map Cred.hidden).map Cred.hidden = s.creds.map Cred.hidden := by
    rw [List.map_map]
    rfl
  show { s with creds := (s.creds.map Cred.hidden).map Cred.hidden } = _
  rw [hcreds]
  rfl

/-- A branch that hides its secrets either way. -/
@[simp] theorem State.ite_hideSecrets (c : Prop) [Decidable c] (a b : State) :
    (if c then a.hideSecrets else b.hideSecrets) = (if c then a else b).hideSecrets := (apply_ite _ _ _ _).symm

/-! ## What a secret does not show -/

@[simp] theorem State.minute_hideSecrets : s.hideSecrets.minute = s.minute := rfl
@[simp] theorem State.second_hideSecrets : s.hideSecrets.second = s.second := rfl
@[simp] theorem State.clockSet_hideSecrets : s.hideSecrets.clockSet = s.clockSet := rfl
@[simp] theorem State.classes_hideSecrets : s.hideSecrets.classes = s.classes := rfl
@[simp] theorem State.sweep_hideSecrets : s.hideSecrets.sweep = s.sweep := rfl
@[simp] theorem State.queue_hideSecrets : s.hideSecrets.queue = s.queue := rfl
@[simp] theorem State.holdOff_hideSecrets : s.hideSecrets.holdOff = s.holdOff := rfl
@[simp] theorem State.rides_hideSecrets : s.hideSecrets.rides = s.rides := rfl
@[simp] theorem State.releaseQ_hideSecrets : s.hideSecrets.releaseQ = s.releaseQ := rfl
@[simp] theorem State.grants_hideSecrets : s.hideSecrets.grants = s.grants := rfl
@[simp] theorem State.free_hideSecrets : s.hideSecrets.free = s.free := rfl
@[simp] theorem State.listN_hideSecrets : s.hideSecrets.listN = s.listN := rfl
@[simp] theorem State.listK_hideSecrets : s.hideSecrets.listK = s.listK := rfl
@[simp] theorem State.settings_hideSecrets : s.hideSecrets.settings = s.settings := rfl
@[simp] theorem State.portN_hideSecrets : s.hideSecrets.portN = s.portN := rfl
@[simp] theorem State.portK_hideSecrets : s.hideSecrets.portK = s.portK := rfl
@[simp] theorem State.dock_hideSecrets (d : DockIx) : s.hideSecrets.dock d = s.dock d := rfl
@[simp] theorem State.line_hideSecrets (l : Line) : s.hideSecrets.line l = s.line l := rfl
@[simp] theorem State.port_hideSecrets (p : Port) : s.hideSecrets.port p = s.port p := rfl
@[simp] theorem State.postList_hideSecrets (p : Port) : s.hideSecrets.postList p = s.postList p := rfl
@[simp] theorem State.lineRuns_hideSecrets (d : DockIx) : s.hideSecrets.lineRuns d = s.lineRuns d := rfl
@[simp] theorem State.granted_hideSecrets (d : DockIx) : s.hideSecrets.granted d = s.granted d := rfl
@[simp] theorem State.rideAt_hideSecrets (d : DockIx) : s.hideSecrets.rideAt d = s.rideAt d := rfl
@[simp] theorem State.findRide_hideSecrets (n : RideNo) : s.hideSecrets.findRide n = s.findRide n := rfl
@[simp] theorem State.rideOfTag_hideSecrets (g : BikeTag) : s.hideSecrets.rideOfTag g = s.rideOfTag g := rfl
@[simp] theorem State.level_hideSecrets (k : Kind) : s.hideSecrets.level k = s.level k := rfl
@[simp] theorem State.suppressed_hideSecrets (sub : Subject) (k : Kind) :
    s.hideSecrets.suppressed sub k = s.suppressed sub k := rfl
@[simp] theorem State.nextFitted_hideSecrets (l : Line) (k : Nat) : s.hideSecrets.nextFitted l k = s.nextFitted l k := rfl
@[simp] theorem State.phase_hideSecrets (l : Line) : s.hideSecrets.phase l = s.phase l := rfl
@[simp] theorem State.replyOpen_hideSecrets (l : Line) (m : Byte) : s.hideSecrets.replyOpen l m = s.replyOpen l m := rfl
@[simp] theorem State.lineBusy_hideSecrets (l : Line) : s.hideSecrets.lineBusy l = s.lineBusy l := rfl
@[simp] theorem State.present_hideSecrets (p : Port) : s.hideSecrets.present p = s.present p := rfl

/-! ## Single writes -/

@[simp] theorem State.updDock_hideSecrets (d : DockIx) (f : Dock → Dock) :
    s.hideSecrets.updDock d f = (s.updDock d f).hideSecrets := rfl
@[simp] theorem State.mapDocks_hideSecrets (f : DockIx → Dock → Dock) :
    s.hideSecrets.mapDocks f = (s.mapDocks f).hideSecrets := by
  unfold State.mapDocks
  rfl
@[simp] theorem State.updLine_hideSecrets (l : Line) (f : LineCtl → LineCtl) :
    s.hideSecrets.updLine l f = (s.updLine l f).hideSecrets := by cases l <;> rfl
@[simp] theorem State.updPort_hideSecrets (p : Port) (f : PortState → PortState) :
    s.hideSecrets.updPort p f = (s.updPort p f).hideSecrets := by cases p <;> rfl
@[simp] theorem State.latch_hideSecrets (p : Port) (e : Byte) : s.hideSecrets.latch p e = (s.latch p e).hideSecrets :=
  s.updPort_hideSecrets p _
@[simp] theorem State.endTransaction_hideSecrets (p : Port) (o : List Byte) :
    s.hideSecrets.endTransaction p o = (s.endTransaction p o).hideSecrets := s.updPort_hideSecrets p _
@[simp] theorem State.startRound_hideSecrets (l : Line) : s.hideSecrets.startRound l = (s.startRound l).hideSecrets :=
  s.updLine_hideSecrets l _
@[simp] theorem State.updRide_hideSecrets (n : RideNo) (f : Ride → Ride) :
    s.hideSecrets.updRide n f = (s.updRide n f).hideSecrets := rfl
@[simp] theorem State.dropRide_hideSecrets (n : RideNo) : s.hideSecrets.dropRide n = (s.dropRide n).hideSecrets := rfl
@[simp] theorem State.leaveQueue_hideSecrets (d : DockIx) : s.hideSecrets.leaveQueue d = (s.leaveQueue d).hideSecrets := rfl
@[simp] theorem State.freeSlot_hideSecrets (n : Nat) : s.hideSecrets.freeSlot n = (s.freeSlot n).hideSecrets := rfl
@[simp] theorem State.postN_hideSecrets (n : Nat) (k : Kind) (b : Body) :
    s.hideSecrets.postN n k b = (s.postN n k b).hideSecrets := rfl
@[simp] theorem State.settleOpen_hideSecrets (d : DockIx) (b : Bool) :
    settleOpen s.hideSecrets d b = (settleOpen s d b).hideSecrets := rfl
@[simp] theorem State.sendOpen_hideSecrets (d : DockIx) : s.hideSecrets.sendOpen d = (s.sendOpen d).hideSecrets := rfl
@[simp] theorem State.enqueue_hideSecrets (x : Presentation) : s.hideSecrets.enqueue x = (s.enqueue x).hideSecrets := rfl
@[simp] theorem State.startIdle_hideSecrets : s.hideSecrets.startIdle = s.startIdle.hideSecrets := rfl
@[simp] theorem State.setPhase_hideSecrets (l : Line) (ph : TurnPhase) :
    s.hideSecrets.setPhase l ph = (s.setPhase l ph).hideSecrets := s.updLine_hideSecrets l _

@[simp] theorem latchStoreLow_hideSecrets (n : Nat) : latchStoreLow n s.hideSecrets = (latchStoreLow n s).hideSecrets := by
  unfold latchStoreLow
  simp

/-! ## The pool (R146 to R152) -/

@[simp] theorem State.evictK_hideSecrets : s.hideSecrets.evictK = s.evictK.hideSecrets := by
  unfold State.evictK
  cases h : s.listK <;> simp only [listK_hideSecrets, h]
  rfl

@[simp] theorem State.placeK_hideSecrets (b : Body) : s.hideSecrets.placeK b = (s.placeK b).hideSecrets := by
  unfold State.placeK
  cases h : s.free <;> simp [h]
  rfl

@[simp] theorem State.postK_hideSecrets (b : Body) : s.hideSecrets.postK b = (s.postK b).hideSecrets := by
  unfold State.postK
  simp only [listK_hideSecrets, evictK_hideSecrets, free_hideSecrets, State.ite_hideSecrets, placeK_hideSecrets]

@[simp] theorem State.postFree_hideSecrets (k : Kind) (b : Body) :
    s.hideSecrets.postFree k b = (s.postFree k b).hideSecrets := by
  unfold State.postFree
  cases h : s.free <;> simp [h]
  rfl

@[simp] theorem State.notice_hideSecrets (sub : Subject) (b : NoticeBody) :
    s.hideSecrets.notice sub b = (s.notice sub b).hideSecrets := by
  unfold State.notice
  simp

@[simp] theorem State.foreignReturn_hideSecrets (d : DockIx) (g : BikeTag) :
    s.hideSecrets.foreignReturn d g = (s.foreignReturn d g).hideSecrets := s.postFree_hideSecrets _ _

@[simp] theorem State.trimK_hideSecrets (k : Nat) : s.hideSecrets.trimK k = (s.trimK k).hideSecrets := by
  induction k generalizing s with
  | zero => rfl
  | succ k ih =>
    unfold State.trimK
    simp [ih]

@[simp] theorem State.untake_hideSecrets (p : Port) : s.hideSecrets.untake p = (s.untake p).hideSecrets := by
  cases p
  · rfl
  · exact State.trimK_hideSecrets ({ s with listK := s.portK.taken ++ s.listK }.updPort .k (fun x => { x with taken := [] })) _

/-! ## Grants and pending commands (R105 to R110, R137) -/

@[simp] theorem State.leaveQuiet_hideSecrets (l : Line) : s.hideSecrets.leaveQuiet l = (s.leaveQuiet l).hideSecrets := by
  unfold State.leaveQuiet
  simp

@[simp] theorem State.markPending_hideSecrets (d : DockIx) (c : Pending) :
    s.hideSecrets.markPending d c = (s.markPending d c).hideSecrets := by
  unfold State.markPending
  simp

@[simp] theorem State.grant_hideSecrets (d : DockIx) : s.hideSecrets.grant d = (s.grant d).hideSecrets := by
  unfold State.grant
  rw [apply_ite State.hideSecrets]
  exact if_congr Iff.rfl (State.markPending_hideSecrets { s with
    releaseQ := s.releaseQ.map (fun e => if e.dock = d then { e with granted := true } else e)
    grants := s.grants ++ [d] } d .openCmd) rfl

@[simp] theorem State.grantStep_hideSecrets (d : DockIx) : s.hideSecrets.grantStep d = (s.grantStep d).hideSecrets := by
  unfold State.grantStep
  simp

theorem foldl_hideSecrets {α : Type} {f : State → α → State} (hf : ∀ (u : State) (x : α), f u.hideSecrets x = (f u x).hideSecrets)
    (xs : List α) : xs.foldl f s.hideSecrets = (xs.foldl f s).hideSecrets := by
  induction xs generalizing s with
  | nil => rfl
  | cons x xs ih => rw [List.foldl_cons, List.foldl_cons, hf, ih]

@[simp] theorem State.issueGrants_hideSecrets : s.hideSecrets.issueGrants = s.issueGrants.hideSecrets :=
  foldl_hideSecrets s State.grantStep_hideSecrets _

@[simp] theorem State.returnGrant_hideSecrets (d : DockIx) : s.hideSecrets.returnGrant d = (s.returnGrant d).hideSecrets := by
  unfold State.returnGrant
  rw [apply_ite State.hideSecrets]
  exact if_congr Iff.rfl (State.issueGrants_hideSecrets { s with grants := s.grants.filter (fun x => decide (x ≠ d)) }) rfl

@[simp] theorem State.quietReturn_hideSecrets (l : Line) : s.hideSecrets.quietReturn l = (s.quietReturn l).hideSecrets := by
  unfold State.quietReturn
  simp

@[simp] theorem State.setPending_hideSecrets (d : DockIx) (c : Pending) :
    s.hideSecrets.setPending d c = (s.setPending d c).hideSecrets := by
  unfold State.setPending
  simp

@[simp] theorem State.relatchDock_hideSecrets (d : DockIx) : s.hideSecrets.relatchDock d = (s.relatchDock d).hideSecrets := by
  unfold State.relatchDock
  simp

@[simp] theorem State.relatchRide_hideSecrets (r : Ride) : s.hideSecrets.relatchRide r = (s.relatchRide r).hideSecrets := by
  unfold State.relatchRide
  simp

/-! ## Turns and breaks (R119, R120, R125, R130, R134) -/

@[simp] theorem State.endTurn_hideSecrets (l : Line) : s.hideSecrets.endTurn l = (s.endTurn l).hideSecrets := by
  unfold State.endTurn
  cases h : (s.line l).turn with
  | none => simp [h]
  | some t => cases hn : s.nextFitted l (t.addr.val + 1) <;> simp [h, hn]

@[simp] theorem State.abandonTurn_hideSecrets (l : Line) : s.hideSecrets.abandonTurn l = (s.abandonTurn l).hideSecrets := by
  unfold State.abandonTurn
  cases h : (s.line l).turn <;> simp [h]

@[simp] theorem State.latchLineIf_hideSecrets (b : Bool) : s.hideSecrets.latchLineIf b = (s.latchLineIf b).hideSecrets := by
  unfold State.latchLineIf
  simp

@[simp] theorem State.enterBreak_hideSecrets (l : Line) (c : BreakCause) :
    s.hideSecrets.enterBreak l c = (s.enterBreak l c).hideSecrets := by
  unfold State.enterBreak
  simp only [abandonTurn_hideSecrets, line_hideSecrets, updLine_hideSecrets, latchLineIf_hideSecrets]
  rfl

@[simp] theorem State.disableLine_hideSecrets (l : Line) : s.hideSecrets.disableLine l = (s.disableLine l).hideSecrets := by
  unfold State.disableLine
  simp only [abandonTurn_hideSecrets, line_hideSecrets, updLine_hideSecrets, latchLineIf_hideSecrets]
  rfl

@[simp] theorem State.lineError_hideSecrets (l : Line) : s.hideSecrets.lineError l = (s.lineError l).hideSecrets := by
  unfold State.lineError
  simp

/-! ## Entries and rides (R22, R28, R29, R74, R80) -/

@[simp] theorem State.findCred_hideSecrets (c : CredNo) : s.hideSecrets.findCred c = (s.findCred c).map Cred.hidden := by
  unfold State.findCred
  rw [State.creds_hideSecrets, List.find?_map]
  rfl

@[simp] theorem State.dropCred_hideSecrets (c : CredNo) : s.hideSecrets.dropCred c = (s.dropCred c).hideSecrets := by
  have hcreds : (s.creds.map Cred.hidden).filter (fun e => decide (e.number ≠ c)) =
      (s.creds.filter (fun e => decide (e.number ≠ c))).map Cred.hidden := by
    rw [List.filter_map]
    rfl
  exact congrArg (fun xs => { s with creds := xs }) hcreds

/-- A write that leaves the secret alone. -/
theorem State.updCred_hideSecrets (c : CredNo) {f : Cred → Cred} (hf : ∀ e, f e.hidden = (f e).hidden) :
    s.hideSecrets.updCred c f = (s.updCred c f).hideSecrets := by
  have hcreds : (s.creds.map Cred.hidden).map (fun e => if e.number = c then f e else e) =
      (s.creds.map (fun e => if e.number = c then f e else e)).map Cred.hidden := by
    rw [List.map_map, List.map_map]
    refine List.map_congr_left (fun e _ => ?_)
    show (if e.number = c then f e.hidden else e.hidden) = Cred.hidden (if e.number = c then f e else e)
    rw [hf]
    split <;> rfl
  exact congrArg (fun xs => { s with creds := xs }) hcreds

@[simp] theorem State.endRideOf_hideSecrets (c : CredNo) : s.hideSecrets.endRideOf c = (s.endRideOf c).hideSecrets := by
  unfold State.endRideOf
  cases h : s.findCred c with
  | none => simp [h]
  | some e =>
    have hlower := s.updCred_hideSecrets c (f := fun x => { x with openRides := x.openRides - 1 }) (fun _ => rfl)
    simp [h, hlower]

@[simp] theorem State.cancelRide_hideSecrets (r : Ride) (o : RideOutcome) :
    s.hideSecrets.cancelRide r o = (s.cancelRide r o).hideSecrets := by
  unfold State.cancelRide
  simp

@[simp] theorem State.cancelForCred_hideSecrets (n : RideNo) :
    s.hideSecrets.cancelForCred n = (s.cancelForCred n).hideSecrets := by
  unfold State.cancelForCred
  cases h : s.findRide n <;> simp [h]

@[simp] theorem State.cancelQueuedOf_hideSecrets (f : CredNo → Bool) :
    s.hideSecrets.cancelQueuedOf f = (s.cancelQueuedOf f).hideSecrets :=
  foldl_hideSecrets s State.cancelForCred_hideSecrets _

@[simp] theorem State.acknowledge_hideSecrets (r : Ride) : s.hideSecrets.acknowledge r = (s.acknowledge r).hideSecrets := by
  unfold State.acknowledge
  simp

@[simp] theorem State.takeUp_hideSecrets (r : Ride) (late : Bool) :
    s.hideSecrets.takeUp r late = (s.takeUp r late).hideSecrets := by
  unfold State.takeUp
  simp

/-- A close is figured without the secret (R14 to R17). -/
@[simp] theorem State.figures_hideSecrets (r : Ride) (m : Minute) : s.hideSecrets.figures r m = s.figures r m := by
  unfold State.figures
  rw [State.findCred_hideSecrets]
  cases s.findCred r.cred <;> rfl

@[simp] theorem State.closeRide_hideSecrets (r : Ride) (k : TripKind) (at_ : Option DockIx) (m : Minute) (quick : Bool) :
    s.hideSecrets.closeRide r k at_ m quick = (s.closeRide r k at_ m quick).hideSecrets := by
  unfold State.closeRide
  dsimp only
  rw [State.figures_hideSecrets, State.updCred_hideSecrets s r.cred (f := fun e => e.debited (s.figures r m)) (fun _ => rfl)]
  simp

@[simp] theorem State.closeEarly_hideSecrets (r : Ride) (k : TripKind) (at_ : Option DockIx) (m : Minute) :
    s.hideSecrets.closeEarly r k at_ m = (s.closeEarly r k at_ m).hideSecrets := by
  unfold State.closeEarly
  simp

@[simp] theorem State.finishRide_hideSecrets (r : Ride) (k : TripKind) (at_ : Option DockIx) (m : Minute) :
    s.hideSecrets.finishRide r k at_ m = (s.finishRide r k at_ m).hideSecrets := by
  unfold State.finishRide
  simp

@[simp] theorem State.returnBike_hideSecrets (d : DockIx) (g : BikeTag) :
    s.hideSecrets.returnBike d g = (s.returnBike d g).hideSecrets := by
  unfold State.returnBike
  cases h : s.rideOfTag g <;> simp [h]


/-! ## What a reply does at a dock (R121 to R124, chapters 4 to 6) -/

@[simp] theorem State.loseLink_hideSecrets (d : DockIx) : s.hideSecrets.loseLink d = (s.loseLink d).hideSecrets := by
  unfold State.loseLink
  cases h : s.rideAt d with
  | none => simp [h]
  | some r => cases hr : r.state <;> simp [h, hr]

@[simp] theorem State.failTurn_hideSecrets (d : DockIx) : s.hideSecrets.failTurn d = (s.failTurn d).hideSecrets := by
  unfold State.failTurn
  simp

@[simp] theorem State.jamDock_hideSecrets (d : DockIx) (c : JamCause) (ride : Option RideNo) :
    s.hideSecrets.jamDock d c ride = (s.jamDock d c ride).hideSecrets := by
  unfold State.jamDock
  simp

@[simp] theorem State.readerFaultDock_hideSecrets (d : DockIx) :
    s.hideSecrets.readerFaultDock d = (s.readerFaultDock d).hideSecrets := by
  unfold State.readerFaultDock
  simp

@[simp] theorem State.bikeGone_hideSecrets (d : DockIx) (ride : Option RideNo) :
    s.hideSecrets.bikeGone d ride = (s.bikeGone d ride).hideSecrets := by
  unfold State.bikeGone
  simp

@[simp] theorem State.retag_hideSecrets (d : DockIx) (g : BikeTag) : s.hideSecrets.retag d g = (s.retag d g).hideSecrets := by
  unfold State.retag
  simp

@[simp] theorem State.dockBike_hideSecrets (d : DockIx) (g : BikeTag) :
    s.hideSecrets.dockBike d g = (s.dockBike d g).hideSecrets := s.updDock_hideSecrets d _

@[simp] theorem State.relatchAttempt_hideSecrets (d : DockIx) (close : Bool) (ride : Option RideNo) :
    s.hideSecrets.relatchAttempt d close ride = (s.relatchAttempt d close ride).hideSecrets := by
  unfold State.relatchAttempt
  simp

@[simp] theorem State.rideReply_hideSecrets (d : DockIx) (ride : Ride) (r : StatusReply) (close : Bool) :
    s.hideSecrets.rideReply d ride r close = (s.rideReply d ride r close).hideSecrets := by
  unfold State.rideReply
  cases ride.state <;> simp

@[simp] theorem State.afterCancel_hideSecrets (d : DockIx) (ride : Ride) (r : StatusReply) :
    s.hideSecrets.afterCancel d ride r = (s.afterCancel d ride r).hideSecrets := by
  unfold State.afterCancel
  simp

@[simp] theorem State.clearFault_hideSecrets (d : DockIx) (r : StatusReply) :
    s.hideSecrets.clearFault d r = (s.clearFault d r).hideSecrets := by
  unfold State.clearFault
  simp

@[simp] theorem State.plainReply_hideSecrets (d : DockIx) (r : StatusReply) (close : Bool) :
    s.hideSecrets.plainReply d r close = (s.plainReply d r close).hideSecrets := by
  unfold State.plainReply
  cases h : (s.dock d).state <;> simp [h]

@[simp] theorem State.dockReply_hideSecrets (d : DockIx) (r : StatusReply) (close : Bool) :
    s.hideSecrets.dockReply d r close = (s.dockReply d r close).hideSecrets := by
  unfold State.dockReply
  simp

@[simp] theorem State.offer_hideSecrets (d : DockIx) (t : TokenRead) : s.hideSecrets.offer d t = (s.offer d t).hideSecrets := by
  unfold State.offer
  rw [apply_ite State.hideSecrets]
  rfl

@[simp] theorem State.offerToken_hideSecrets (d : DockIx) (r : StatusReply) :
    s.hideSecrets.offerToken d r = (s.offerToken d r).hideSecrets := by
  unfold State.offerToken
  cases r.token with
  | none => rfl
  | some t =>
    dsimp only
    rw [apply_ite State.hideSecrets, ← State.offer_hideSecrets]
    rfl

@[simp] theorem State.linkNotices_hideSecrets (d : DockIx) (x : Dock) (r : StatusReply) :
    s.hideSecrets.linkNotices d x r = (s.linkNotices d x r).hideSecrets := by
  unfold State.linkNotices
  simp

@[simp] theorem State.handleStatus_hideSecrets (d : DockIx) (r : StatusReply) (close : Bool) :
    s.hideSecrets.handleStatus d r close = (s.handleStatus d r close).hideSecrets := by
  unfold State.handleStatus
  simp only [updDock_hideSecrets, offerToken_hideSecrets, rideAt_hideSecrets, dock_hideSecrets]
  split
  · split <;> simp
  · simp

/-! ## Turns as a whole (R120 to R124) -/

@[simp] theorem State.startTurn_hideSecrets (l : Line) (a : Addr) : s.hideSecrets.startTurn l a = (s.startTurn l a).hideSecrets := by
  unfold State.startTurn
  simp

@[simp] theorem State.endFailed_hideSecrets (l : Line) (t : Turn) (b : Bool) :
    s.hideSecrets.endFailed l t b = (s.endFailed l t b).hideSecrets := by
  unfold State.endFailed
  simp

@[simp] theorem State.clearCounts_hideSecrets (d : DockIx) (t : Turn) :
    s.hideSecrets.clearCounts d t = (s.clearCounts d t).hideSecrets := s.updDock_hideSecrets d _

@[simp] theorem State.openAfterShow_hideSecrets (d : DockIx) : s.hideSecrets.openAfterShow d = (s.openAfterShow d).hideSecrets := by
  unfold State.openAfterShow
  simp

@[simp] theorem State.quietActivity_hideSecrets (l : Line) : s.hideSecrets.quietActivity l = (s.quietActivity l).hideSecrets := by
  unfold State.quietActivity
  simp

@[simp] theorem State.endStatus_hideSecrets (l : Line) (t : Turn) (r : StatusReply) :
    s.hideSecrets.endStatus l t r = (s.endStatus l t r).hideSecrets := by
  unfold State.endStatus
  simp

@[simp] theorem State.endBusy_hideSecrets (l : Line) (t : Turn) : s.hideSecrets.endBusy l t = (s.endBusy l t).hideSecrets := by
  unfold State.endBusy
  simp

@[simp] theorem State.recover_hideSecrets (l : Line) : s.hideSecrets.recover l = (s.recover l).hideSecrets := by
  unfold State.recover
  simp

/-! ## Sweeps, the tick, settings and the map (R1, R33 to R38, R89, R187) -/

@[simp] theorem State.restartIdle_hideSecrets : s.hideSecrets.restartIdle = s.restartIdle.hideSecrets := by
  unfold State.restartIdle
  rw [apply_ite State.hideSecrets]
  rfl

@[simp] theorem State.abandonSweep_hideSecrets (c : AbandonCause) (n : Option Byte) :
    s.hideSecrets.abandonSweep c n = (s.abandonSweep c n).hideSecrets := by
  have hnotice := State.notice_hideSecrets { s with sweep := { s.sweep with openNo := 0#8, idle := none } } .none
    (.sweepAbandoned s.sweep.openNo c n)
  unfold State.abandonSweep
  rw [apply_ite State.hideSecrets, ← State.latch_hideSecrets, ← hnotice]
  rfl

@[simp] theorem State.writeMap_hideSecrets (l : Line) (addrs : List Byte) :
    s.hideSecrets.writeMap l addrs = (s.writeMap l addrs).hideSecrets := s.mapDocks_hideSecrets _

@[simp] theorem State.dropHead_hideSecrets (p : Port) : s.hideSecrets.dropHead p = (s.dropHead p).hideSecrets := by
  cases p <;> rfl

@[simp] theorem State.reholdOff_hideSecrets : s.hideSecrets.reholdOff = s.reholdOff.hideSecrets := by
  unfold State.reholdOff
  rw [apply_ite State.hideSecrets]
  rfl

@[simp] theorem State.afterNum_hideSecrets (n : NumSetting) (old new : Nat) :
    s.hideSecrets.afterNum n old new = (s.afterNum n old new).hideSecrets := by
  unfold State.afterNum
  cases n <;> simp

@[simp] theorem State.tickMismatch_hideSecrets : s.hideSecrets.tickMismatch = s.tickMismatch.hideSecrets := by
  unfold State.tickMismatch
  simp

@[simp] theorem State.tickClock_hideSecrets : s.hideSecrets.tickClock = s.tickClock.hideSecrets := by
  unfold State.tickClock
  rw [apply_dite State.hideSecrets]
  rfl

@[simp] theorem State.tickLine_hideSecrets (l : Line) : s.hideSecrets.tickLine l = (s.tickLine l).hideSecrets :=
  s.updLine_hideSecrets l _

@[simp] theorem State.tick_hideSecrets : s.hideSecrets.tick = s.tick.hideSecrets := by
  unfold State.tick
  rw [State.tickMismatch_hideSecrets, State.tickClock_hideSecrets, ← State.tickLine_hideSecrets, ← State.tickLine_hideSecrets]
  rfl

end

end Sys2Proof.Machine
end
section
/-! PROOFS. No command but the admission decision reads a credential secret (R20, R31). -/

namespace Sys2Proof.Machine

/-! ## Rules that read no secret -/

/-- A rule's result with every secret set to 0. -/
def hideReply (x : State × Reply) : State × Reply := (x.1.hideSecrets, x.2)

/-- A rule writes and answers the same, up to secrets, whatever the secrets are. -/
def Blind (rule : State → State × Reply) : Prop :=
  ∀ s, hideReply (rule s.hideSecrets) = hideReply (rule s)

theorem hideReply_hideReply (x : State × Reply) : hideReply (hideReply x) = hideReply x :=
  Prod.ext (State.hideSecrets_hideSecrets x.1) rfl

theorem Blind.of_eq {rule : State → State × Reply} (h : ∀ s, rule s.hideSecrets = hideReply (rule s)) : Blind rule := by
  intro s
  rw [h, hideReply_hideReply]

@[simp] theorem pair_hideSecrets (s : State) (r : Reply) : (s.hideSecrets, r) = hideReply (s, r) := rfl

@[simp] theorem answer_hideSecrets (s : State) (st : Status) (f : Fields) :
    answer s.hideSecrets st f = hideReply (answer s st f) := rfl

@[simp] theorem ite_hideReply (c : Prop) [Decidable c] (x y : State × Reply) :
    (if c then hideReply x else hideReply y) = hideReply (if c then x else y) := (apply_ite _ _ _ _).symm

theorem Blind.answer (st : Status) (f : Fields) : Blind (fun s => Machine.answer s st f) :=
  .of_eq (fun s => answer_hideSecrets s st f)

theorem Blind.ite {a b : State → State × Reply} (c : Prop) [Decidable c] (ha : Blind a) (hb : Blind b) :
    Blind (fun s => if c then a s else b s) := by
  by_cases h : c
  · simpa only [if_pos h] using ha
  · simpa only [if_neg h] using hb

theorem Blind.onlyN {rule : State → State × Reply} (h : Blind rule) (p : Port) : Blind (onlyN p rule) :=
  Blind.ite (p = .k) (.answer _ _) h

theorem Blind.onlyK {rule : State → State × Reply} (h : Blind rule) (p : Port) : Blind (onlyK p rule) :=
  Blind.ite (p = .n) (.answer _ _) h

/-! ## The credential table and sweeps (chapter 2) -/

theorem insertCred_map_hidden (e : Cred) (xs : List Cred) :
    (insertCred e xs).map Cred.hidden = insertCred e.hidden (xs.map Cred.hidden) := by
  induction xs with
  | nil => rfl
  | cons x xs ih =>
    show (if e.number < x.number then e :: x :: xs else if e.number = x.number then e :: xs else
        x :: insertCred e xs).map Cred.hidden =
      if e.number < x.number then _ else if e.number = x.number then _ else x.hidden :: insertCred e.hidden (xs.map Cred.hidden)
    rw [← ih]
    split
    · rfl
    · split <;> rfl

/-- The secret that a CRED LOAD writes is hidden like every other. -/
theorem State.putCred_hideSecrets (s : State) (e : Cred) : (s.hideSecrets.putCred e).hideSecrets = (s.putCred e).hideSecrets := by
  have hcreds : (insertCred e (s.creds.map Cred.hidden)).map Cred.hidden = (insertCred e s.creds).map Cred.hidden := by
    rw [insertCred_map_hidden, insertCred_map_hidden, ← State.creds_hideSecrets s, ← State.creds_hideSecrets,
      State.hideSecrets_hideSecrets]
  exact congrArg (fun xs => { s with creds := xs }) hcreds

theorem blind_loadCred (c : CredNo) (st : CredState) (cls : Fin 4) (secret : BitVec 32) (counter : Word16) (balance : Int)
    (overdraft : Nat) (keep : Bool) : Blind (fun s => s.loadCred c st cls secret counter balance overdraft keep) := by
  intro s
  have hbalance : loadBalance (s.hideSecrets.findCred c) keep balance = loadBalance (s.findCred c) keep balance := by
    rw [State.findCred_hideSecrets]
    cases s.findCred c <;> rfl
  have hcounter : loadCounter (s.hideSecrets.findCred c) keep counter = loadCounter (s.findCred c) keep counter := by
    rw [State.findCred_hideSecrets]
    cases s.findCred c <;> rfl
  have hopen : loadOpenRides (s.hideSecrets.findCred c) = loadOpenRides (s.findCred c) := by
    rw [State.findCred_hideSecrets]
    cases s.findCred c <;> rfl
  unfold State.loadCred hideReply
  simp only [hbalance, hcounter, hopen, State.sweep_hideSecrets]
  refine Prod.ext ?_ rfl
  by_cases h : st = .revoked <;>
    simp only [h, if_true, if_false, ← State.cancelQueuedOf_hideSecrets, State.putCred_hideSecrets]

theorem blind_credLoadRule (c : CredNo) (st cls : Byte) (secret : BitVec 32) (counter balance overdraft : Word16)
    (keep : Byte) : Blind (credLoadRule c st cls secret counter balance overdraft keep) := by
  intro s
  have hlen : s.restartIdle.hideSecrets.creds.length = s.restartIdle.creds.length := List.length_map _
  unfold credLoadRule
  cases classOfCode cls with
  | none => simp [hideReply_hideReply]
  | some cl =>
    cases settableState st with
    | none => simp [hideReply_hideReply]
    | some cs =>
      simp only [State.restartIdle_hideSecrets, State.findCred_hideSecrets, Option.isNone_map, hlen, answer_hideSecrets]
      split
      · rw [hideReply_hideReply]
      · split
        · rw [hideReply_hideReply]
        · exact blind_loadCred c cs cl secret counter _ _ _ s.restartIdle

theorem blind_credStateRule (c : CredNo) (st : Byte) : Blind (credStateRule c st) := by
  refine .of_eq (fun s => ?_)
  unfold credStateRule
  cases settableState st with
  | none => simp
  | some cs =>
    have hupd := s.updCred_hideSecrets c (f := fun x => { x with state := cs }) (fun _ => rfl)
    cases h : s.findCred c <;> simp [h, hupd]

theorem blind_credBalanceRule (c : CredNo) (mode : Byte) (amount : Word16) : Blind (credBalanceRule c mode amount) := by
  refine .of_eq (fun s => ?_)
  unfold credBalanceRule
  cases h : s.findCred c with
  | none => simp [h]
  | some e =>
    cases hb : newBalance mode e.balance (signed amount) with
    | none => simp [h, hb]
    | some b =>
      have hupd := s.updCred_hideSecrets c (f := fun x => { x with balance := clampBalance x.overdraft b }) (fun _ => rfl)
      simp only [State.findCred_hideSecrets, h, Option.map_some, Cred.hidden_balance, hb, hupd]
      rfl

theorem blind_credRemoveRule (c : CredNo) : Blind (credRemoveRule c) := by
  refine .of_eq (fun s => ?_)
  have hupd := s.updCred_hideSecrets c (f := fun x => { x with state := .lapsed }) (fun _ => rfl)
  unfold credRemoveRule
  cases h : s.findCred c <;> simp [h, hupd]

theorem blind_readCredRule (c : CredNo) : Blind (readCredRule c) := by
  refine .of_eq (fun s => ?_)
  unfold readCredRule
  cases h : s.findCred c <;> simp [h]

theorem blind_sweepOpenRule (n : Byte) : Blind (sweepOpenRule n) := by
  refine .of_eq (fun s => ?_)
  unfold sweepOpenRule
  rw [State.abandonSweep_hideSecrets, answer_hideSecrets, apply_ite hideReply]
  rfl

theorem sweepCounts_map_hidden (n : Byte) (xs : List Cred) : sweepCounts n (xs.map Cred.hidden) = sweepCounts n xs := by
  unfold sweepCounts
  simp only [List.countP_map]
  rfl

theorem withdraw_map_hidden (n : Byte) (xs : List Cred) : withdraw n (xs.map Cred.hidden) = (withdraw n xs).map Cred.hidden := by
  unfold withdraw
  rw [List.filter_map, List.map_map, List.map_map]
  refine List.map_congr_left (fun e _ => ?_)
  show (if e.mark = n then e.hidden else _) = Cred.hidden (if e.mark = n then e else _)
  split <;> rfl

theorem State.withdrawn_hideSecrets (s : State) (n : Byte) : s.hideSecrets.withdrawn n = s.withdrawn n := by
  funext c
  unfold State.withdrawn
  rw [State.findCred_hideSecrets]
  cases s.findCred c <;> rfl

theorem State.withdrawCreds_hideSecrets (s : State) (n : Byte) :
    { s.hideSecrets with creds := withdraw n s.hideSecrets.creds } = State.hideSecrets { s with creds := withdraw n s.creds } :=
  congrArg (fun xs => { s with creds := xs }) (withdraw_map_hidden n s.creds)

theorem blind_closeSweep (n : Byte) : Blind (fun s => s.closeSweep n) := by
  refine .of_eq (fun s => ?_)
  have hcounts : sweepCounts n s.hideSecrets.creds = sweepCounts n s.creds := sweepCounts_map_hidden n s.creds
  unfold State.closeSweep
  simp only [State.withdrawCreds_hideSecrets, State.withdrawn_hideSecrets, State.cancelQueuedOf_hideSecrets, hcounts]
  unfold hideReply
  simp only [← State.latch_hideSecrets, ← State.notice_hideSecrets]
  rfl

theorem blind_sweepCloseRule (n : Byte) : Blind (sweepCloseRule n) := by
  intro s
  unfold sweepCloseRule
  simp only [State.sweep_hideSecrets, State.restartIdle_hideSecrets, answer_hideSecrets]
  split
  · exact hideReply_hideReply _
  · split
    · exact hideReply_hideReply _
    · exact blind_closeSweep n s

/-! ## Docks, lines and rides (chapters 4 to 7) -/

@[simp] theorem State.fitted_hideSecrets (s : State) (d : DockIx) : s.hideSecrets.fitted d = s.fitted d := rfl

theorem blind_dockFitRule (p : Port) (line : Byte) (addrs : List Byte) : Blind (dockFitRule p line addrs) := by
  refine .of_eq (fun s => ?_)
  have hbound (l : Line) : unfitsBound s.hideSecrets l addrs = unfitsBound s l addrs := rfl
  unfold dockFitRule
  cases lineOfCode line <;> simp [hbound]

theorem blind_dockHoldRule (p : Port) (b : Byte) : Blind (dockHoldRule p b) := by
  refine .of_eq (fun s => ?_)
  unfold dockHoldRule
  cases dockOfCode b with
  | none => rfl
  | some d =>
    dsimp only
    rw [apply_ite hideReply]
    rfl

theorem blind_dockFreeRule (b : Byte) : Blind (dockFreeRule b) := by
  refine .of_eq (fun s => ?_)
  unfold dockFreeRule
  cases dockOfCode b <;> simp

theorem blind_readDockRule (b : Byte) : Blind (readDockRule b) := by
  refine .of_eq (fun s => ?_)
  unfold readDockRule
  cases dockOfCode b <;> simp

theorem blind_lineRestartRule (b : Byte) : Blind (lineRestartRule b) := by
  refine .of_eq (fun s => ?_)
  unfold lineRestartRule
  cases lineOfCode b <;> simp

theorem blind_rideCloseRule (g : BikeTag) (m : Minute) : Blind (rideCloseRule g m) := by
  refine .of_eq (fun s => ?_)
  unfold rideCloseRule
  cases h : s.rideOfTag g <;> simp [h]

theorem blind_rideCancelRule (n : RideNo) : Blind (rideCancelRule n) := by
  refine .of_eq (fun s => ?_)
  unfold rideCancelRule
  cases h : s.findRide n with
  | none => simp [h]
  | some r => cases hr : r.state <;> simp [h, hr]

theorem blind_readRideRule (sel : Byte) (v : BitVec 32) : Blind (readRideRule sel v) := by
  refine .of_eq (fun s => ?_)
  have hnamed : rideNamed s.hideSecrets sel v = rideNamed s sel v := rfl
  unfold readRideRule
  rw [hnamed]
  cases rideNamed s sel v <;> simp

/-! ## Ports, records and the station (chapters 1, 3, 8, 10, 11) -/

theorem blind_tokenPresentRule (t : Token) (preferred : Byte) : Blind (tokenPresentRule t preferred) := by
  refine .of_eq (fun s => ?_)
  unfold tokenPresentRule
  cases preferredOfCode preferred with
  | none => rfl
  | some d =>
    dsimp only
    rw [apply_ite hideReply]
    rfl

theorem blind_clockSetRule (minute : Word16) (second : Byte) : Blind (clockSetRule minute second) := .of_eq (fun _ => rfl)

theorem blind_classSetRule (cls incl unit : Byte) (price cap minBal : Word16) (limit : Byte) (life : Word16) (held : Byte) :
    Blind (classSetRule cls incl unit price cap minBal limit life held) := by
  refine .of_eq (fun s => ?_)
  unfold classSetRule
  cases classOfCode cls <;> rfl

theorem blind_readStationRule (p : Port) : Blind (readStationRule p) := by
  refine .of_eq (fun s => ?_)
  have hreport : s.hideSecrets.report p = s.report p := by
    unfold State.report
    rw [State.creds_hideSecrets, List.length_map]
    rfl
  unfold readStationRule
  rw [hreport, answer_hideSecrets]

theorem blind_maskSetRule (p : Port) (e : Byte) : Blind (maskSetRule p e) := by
  refine .of_eq (fun s => ?_)
  unfold maskSetRule
  simp

theorem blind_maskClearRule (p : Port) (e : Byte) : Blind (maskClearRule p e) := by
  refine .of_eq (fun s => ?_)
  unfold maskClearRule
  simp

theorem blind_eventClearRule (p : Port) (e : Byte) : Blind (eventClearRule p e) := by
  refine .of_eq (fun s => ?_)
  unfold eventClearRule
  simp

theorem blind_portClearRule (p : Port) : Blind (portClearRule p) := by
  refine .of_eq (fun s => ?_)
  unfold portClearRule
  simp

theorem blind_takeRule (p : Port) : Blind (takeRule p) := by
  refine .of_eq (fun s => ?_)
  unfold takeRule
  cases h : s.postList p <;> simp [h]

theorem blind_giveBackRule (p : Port) (n : Word16) : Blind (giveBackRule p n) := by
  refine .of_eq (fun s => ?_)
  unfold giveBackRule
  simp

theorem blind_kindSetRule (kind level : Byte) : Blind (kindSetRule kind level) := by
  refine .of_eq (fun s => ?_)
  unfold kindSetRule
  cases kindOfCode kind <;> rfl

/-- New settings beside hidden secrets. -/
theorem State.withSettings_hideSecrets (s : State) (x : Settings) :
    { s.hideSecrets with settings := x } = State.hideSecrets { s with settings := x } := rfl

theorem State.setNumber_hideSecrets (s : State) (name : Byte) (n : NumSetting) (v : Nat) :
    s.hideSecrets.setNumber name n v = hideReply (s.setNumber name n v) := by
  unfold State.setNumber
  simp only [State.settings_hideSecrets, State.withSettings_hideSecrets, State.afterNum_hideSecrets, pair_hideSecrets]
  rw [apply_ite hideReply]
  rfl

theorem State.setQuietEnable_hideSecrets (s : State) (name : Byte) (l : Line) (q : Bool) :
    s.hideSecrets.setQuietEnable name l q = hideReply (s.setQuietEnable name l q) := by
  unfold State.setQuietEnable
  simp only [State.settings_hideSecrets, State.line_hideSecrets, State.withSettings_hideSecrets, State.updLine_hideSecrets,
    State.ite_hideSecrets, State.quietReturn_hideSecrets, pair_hideSecrets]
  rw [apply_ite hideReply]

theorem State.setLineRate_hideSecrets (s : State) (name : Byte) (l : Line) (r : Rate) :
    s.hideSecrets.setLineRate name l r = hideReply (s.setLineRate name l r) := by
  unfold State.setLineRate
  simp only [State.settings_hideSecrets, State.line_hideSecrets, State.withSettings_hideSecrets, State.enterBreak_hideSecrets,
    State.ite_hideSecrets, pair_hideSecrets]
  rw [apply_ite hideReply]

theorem blind_stationSetRule (setting line : Byte) (value : Word16) : Blind (stationSetRule setting line value) := by
  refine .of_eq (fun s => ?_)
  unfold stationSetRule
  cases settingOfCode setting with
  | none => rfl
  | some x =>
    cases x with
    | num n => exact s.setNumber_hideSecrets setting n _
    | quietEnable =>
      cases lineOfCode line with
      | none => rfl
      | some l => exact s.setQuietEnable_hideSecrets setting l _
    | lineRate =>
      cases lineOfCode line with
      | none => rfl
      | some l =>
        cases rateOfCode value.toNat with
        | none => rfl
        | some r => exact s.setLineRate_hideSecrets setting l r

/-! ## Commands -/

/-- A command that reads no secret: on hidden secrets it answers the next state with its secrets hidden. -/
def SecretFree (run : State → Outcome) : Prop :=
  ∀ s t, run s = .next t → ∃ u, run s.hideSecrets = .next u ∧ u.hideSecrets = t.hideSecrets

theorem SecretFree.of_next {run : State → Outcome} (f : State → State) (hrun : ∀ s, run s = .next (f s))
    (hf : ∀ s, (f s.hideSecrets).hideSecrets = (f s).hideSecrets) : SecretFree run := by
  intro s t h
  rw [hrun] at h
  injection h with h
  exact ⟨f s.hideSecrets, hrun _, h ▸ hf s⟩

/-- An event whose change reads no secret, STORE_LOW included. -/
theorem secretFree_event {f : State → State} (hf : ∀ s, (f s.hideSecrets).hideSecrets = (f s).hideSecrets) :
    SecretFree (event f) := by
  refine .of_next (fun s => latchStoreLow s.free.length (f s)) (fun _ => rfl) (fun s => ?_)
  rw [State.free_hideSecrets, ← latchStoreLow_hideSecrets, hf, latchStoreLow_hideSecrets]

/-- An event whose change goes on beside hidden secrets. -/
theorem secretFree_event_of_eq {f : State → State} (hf : ∀ s, f s.hideSecrets = (f s).hideSecrets) : SecretFree (event f) :=
  secretFree_event (fun s => by rw [hf, State.hideSecrets_hideSecrets])

@[simp] theorem State.respond_hideSecrets (s : State) (p : Port) (code : Byte) (frame : Nat) (r : Reply) :
    s.hideSecrets.respond p code frame r = (s.respond p code frame r).hideSecrets := by
  unfold State.respond
  simp

theorem SecretFree.branch {a b : State → Outcome} {c : State → Prop} [DecidablePred c] (hc : ∀ s, c s.hideSecrets ↔ c s)
    (ha : SecretFree a) (hb : SecretFree b) : SecretFree (fun s => if c s then a s else b s) := by
  intro s t h
  by_cases hs : c s
  · simp only [if_pos hs] at h
    simpa only [if_pos ((hc s).2 hs)] using ha s t h
  · simp only [if_neg hs] at h
    simpa only [if_neg (mt (hc s).1 hs)] using hb s t h

theorem secretFree_endTransaction (p : Port) (out : List Byte) : SecretFree (fun s => .next (s.endTransaction p out)) :=
  .of_next _ (fun _ => rfl) (fun s => by rw [State.endTransaction_hideSecrets, State.hideSecrets_hideSecrets])

theorem secretFree_request {rule : State → State × Reply} (h : Blind rule) (p : Port) (code : Byte) (frame : Nat) :
    SecretFree (request p code frame rule) := by
  refine .branch (c := fun s => (s.port p).trans = .ignored) (fun _ => Iff.rfl) (secretFree_endTransaction p [])
    (secretFree_event (fun s => ?_))
  obtain ⟨hstate, hreply⟩ := Prod.ext_iff.mp (h s)
  simp only [hideReply] at hstate hreply
  rw [hreply, ← State.respond_hideSecrets, hstate, State.respond_hideSecrets]

/-! ## Events of the docks, the lines and the ports -/

theorem secretFree_powerOnOrPinReset (selN selK : Bool) : SecretFree (execPowerOnOrPinReset selN selK) :=
  .of_next _ (fun _ => rfl) (fun _ => rfl)

theorem secretFree_collect (p : Port) (bytes : Nat) : SecretFree (execCollect p bytes) := by
  have hcollect (s : State) (present masks : Byte) :
      s.hideSecrets.collect p present masks bytes = (s.collect p present masks bytes).hideSecrets := by
    unfold State.collect
    dsimp only
    rw [State.updPort_hideSecrets, State.endTransaction_hideSecrets]
    rfl
  intro s t h
  unfold execCollect at h ⊢
  rw [State.port_hideSecrets]
  cases htrans : (s.port p).trans with
  | ignored =>
    simp only [htrans] at h
    exact secretFree_endTransaction p [] s t h
  | started present masks =>
    simp only [htrans] at h
    exact secretFree_event_of_eq (hcollect · present masks) s t h
  | idle =>
    simp only [htrans] at h
    exact secretFree_event_of_eq (f := fun s => s.collect p (s.present p) (s.port p).masks bytes) (fun u => hcollect u _ _) s t h

theorem secretFree_badFrame (p : Port) (bytes : List Byte) (tail : List Bool) : SecretFree (execBadFrame p bytes tail) := by
  refine .branch (c := fun _ => badFrameWf p bytes tail = true) (fun _ => Iff.rfl)
    (secretFree_request (.answer .badFrame .none) p _ _) (.of_next id (fun _ => rfl) State.hideSecrets_hideSecrets)

theorem secretFree_turnStart (l : Line) : SecretFree (execTurnStart l) := by
  refine secretFree_event_of_eq (fun s => ?_)
  dsimp only
  rw [State.line_hideSecrets]
  cases (s.line l).pos with
  | none => rfl
  | some a =>
    cases (s.line l).turn with
    | some t => rfl
    | none =>
      dsimp only
      rw [apply_ite State.hideSecrets, ← State.startTurn_hideSecrets]
      rfl

/-- An event at the turn in flight. -/
theorem secretFree_onTurn (l : Line) {c : State → Turn → Prop} [∀ s t, Decidable (c s t)] {f : State → Turn → State}
    (hc : ∀ s t, c s.hideSecrets t ↔ c s t) (hf : ∀ s t, f s.hideSecrets t = (f s t).hideSecrets) :
    SecretFree (event (fun s => match (s.line l).turn with
      | some t => if c s t then f s t else s
      | none => s)) := by
  refine secretFree_event_of_eq (fun s => ?_)
  rw [State.line_hideSecrets]
  cases (s.line l).turn with
  | none => rfl
  | some t =>
    dsimp only
    rw [apply_ite State.hideSecrets, ← hf]
    exact if_congr (hc s t) rfl rfl

/-- An event whose change takes place under a condition that reads no secret. -/
theorem secretFree_when {c : State → Prop} [DecidablePred c] {f : State → State} (hc : ∀ s, c s.hideSecrets ↔ c s)
    (hf : ∀ s, f s.hideSecrets = (f s).hideSecrets) : SecretFree (event (fun s => if c s then f s else s)) := by
  refine secretFree_event_of_eq (fun s => ?_)
  rw [apply_ite State.hideSecrets, ← hf]
  exact if_congr (hc s) rfl rfl

/-- An expiry of a ride. -/
theorem secretFree_onRide (n : RideNo) {c : Ride → Prop} [DecidablePred c] {f : State → Ride → State}
    (hf : ∀ s r, f s.hideSecrets r = (f s r).hideSecrets) :
    SecretFree (event (fun s => match s.findRide n with
      | some r => if c r then f s r else s
      | none => s)) := by
  refine secretFree_event_of_eq (fun s => ?_)
  rw [State.findRide_hideSecrets]
  cases s.findRide n with
  | none => rfl
  | some r => simp [hf]

theorem secretFree_minuteRollover : SecretFree execMinuteRollover := by
  refine secretFree_event_of_eq (fun s => ?_)
  simp

theorem secretFree_replyGapTimeout (l : Line) : SecretFree (execReplyGapTimeout l) := by
  refine secretFree_event_of_eq (fun s => ?_)
  simp only [State.line_hideSecrets, State.phase_hideSecrets, State.endFailed_hideSecrets]
  split <;> rfl

theorem secretFree_errorPeriodBoundary (l : Line) : SecretFree (execErrorPeriodBoundary l) := by
  refine secretFree_event_of_eq (fun s => ?_)
  simp only [State.line_hideSecrets, State.updLine_hideSecrets]
  cases (s.line l).errTimer <;> simp

theorem secretFree_quietIntervalExpiry (l : Line) : SecretFree (execQuietIntervalExpiry l) := by
  refine secretFree_event_of_eq (fun s => ?_)
  simp only [State.line_hideSecrets, State.settings_hideSecrets, State.updLine_hideSecrets, State.startRound_hideSecrets]
  cases (s.line l).quietInterval <;> simp

theorem secretFree_wake (l : Line) : SecretFree (execWake l) := by
  refine secretFree_event_of_eq (fun s => ?_)
  simp only [State.line_hideSecrets, State.phase_hideSecrets, State.quietReturn_hideSecrets, State.endFailed_hideSecrets]
  cases (s.line l).turn <;> simp

theorem secretFree_quietEntry (l : Line) : SecretFree (execQuietEntry l) := by
  refine secretFree_event_of_eq (fun s => ?_)
  simp

theorem secretFree_emptyTransactionEnd (p : Port) : SecretFree (execEmptyTransactionEnd p) := by
  refine secretFree_event_of_eq (fun s => ?_)
  simp

/-- Every command but the admission decision. -/
theorem exec_secretFree {c : Instr} (hc : c ≠ .admissionDecision) : SecretFree (exec c) := by
  cases c with
  | powerOnOrPinReset selN selK => exact secretFree_powerOnOrPinReset selN selK
  | secondTick => exact secretFree_event_of_eq State.tick_hideSecrets
  | minuteRollover => exact secretFree_minuteRollover
  | clockSet p minute second => exact secretFree_request ((blind_clockSetRule minute second).onlyN p) p _ _
  | classSet p cls incl unit price cap minBal limit life held =>
    exact secretFree_request ((blind_classSetRule cls incl unit price cap minBal limit life held).onlyN p) p _ _
  | credLoad p cred state cls secret counter balance overdraft keep =>
    exact secretFree_request ((blind_credLoadRule cred state cls secret counter balance overdraft keep).onlyN p) p _ _
  | credState p cred state => exact secretFree_request ((blind_credStateRule cred state).onlyN p) p _ _
  | credBalance p cred mode amount => exact secretFree_request ((blind_credBalanceRule cred mode amount).onlyN p) p _ _
  | credRemove p cred => exact secretFree_request ((blind_credRemoveRule cred).onlyN p) p _ _
  | readCred p cred => exact secretFree_request (blind_readCredRule cred) p _ _
  | sweepOpen p number => exact secretFree_request ((blind_sweepOpenRule number).onlyN p) p _ _
  | sweepClose p number => exact secretFree_request ((blind_sweepCloseRule number).onlyN p) p _ _
  | sweepIdleExpiry =>
    exact secretFree_when (c := fun s => timerDue s.sweep.idle = true) (fun _ => Iff.rfl)
      (State.abandonSweep_hideSecrets · .idle none)
  | stationSet p setting line value => exact secretFree_request ((blind_stationSetRule setting line value).onlyN p) p _ _
  | kindSet p kind level => exact secretFree_request ((blind_kindSetRule kind level).onlyN p) p _ _
  | dockFit p line addrs => exact secretFree_request (blind_dockFitRule p line addrs) p _ _
  | rideClose p tag endMinute => exact secretFree_request ((blind_rideCloseRule tag endMinute).onlyN p) p _ _
  | lineRestart p line => exact secretFree_request ((blind_lineRestartRule line).onlyN p) p _ _
  | tokenPresent p token preferred => exact secretFree_request ((blind_tokenPresentRule token preferred).onlyK p) p _ _
  | dockHold p dock => exact secretFree_request (blind_dockHoldRule p dock) p _ _
  | dockFree p dock => exact secretFree_request (blind_dockFreeRule dock) p _ _
  | readDock p dock => exact secretFree_request (blind_readDockRule dock) p _ _
  | rideCancel p ride => exact secretFree_request (blind_rideCancelRule ride) p _ _
  | readRide p selector value => exact secretFree_request (blind_readRideRule selector value) p _ _
  | take p => exact secretFree_request (blind_takeRule p) p _ _
  | giveBack p slot => exact secretFree_request (blind_giveBackRule p slot) p _ _
  | readStation p => exact secretFree_request (blind_readStationRule p) p _ _
  | maskSet p events => exact secretFree_request (blind_maskSetRule p events) p _ _
  | maskClear p events => exact secretFree_request (blind_maskClearRule p events) p _ _
  | eventClear p events => exact secretFree_request (blind_eventClearRule p events) p _ _
  | portClear p => exact secretFree_request (blind_portClearRule p) p _ _
  | collect p bytes => exact secretFree_collect p bytes
  | badFrame p bytes tail => exact secretFree_badFrame p bytes tail
  | admissionDecision => exact absurd rfl hc
  | queueWaitExpiry ride =>
    exact secretFree_onRide ride (c := fun r => r.state = .queued ∧ r.waitLeft = some 0)
      (f := fun s r => s.cancelRide r .queueTimeout) (fun s r => s.cancelRide_hideSecrets r _)
  | takeUpWindowExpiry ride =>
    exact secretFree_onRide ride (c := fun r => r.state = .releasing ∧ r.windowLeft = some 0)
      State.relatchRide_hideSecrets
  | turnStart l => exact secretFree_turnStart l
  | commandDelivered l =>
    exact secretFree_when (c := fun s => s.phase l = some .sending) (fun _ => Iff.rfl) (State.setPhase_hideSecrets · l _)
  | statusReply l r =>
    exact secretFree_onTurn l (c := fun s t => s.replyOpen l (replyMark t.addr) = true) (fun _ _ => Iff.rfl)
      (fun s t => s.endStatus_hideSecrets l t r)
  | busyReply l =>
    exact secretFree_onTurn l (c := fun s t => s.replyOpen l (replyMark t.addr) = true) (fun _ _ => Iff.rfl)
      (fun s t => s.endBusy_hideSecrets l t)
  | badReply l marked rest =>
    exact secretFree_onTurn l
      (c := fun s t => s.replyOpen l marked = true ∧ (judgeReply t.addr marked rest).bad = true) (fun _ _ => Iff.rfl)
      (fun s t => s.endFailed_hideSecrets l t true)
  | replyGapTimeout l => exact secretFree_replyGapTimeout l
  | replyWindowExpiry l =>
    exact secretFree_onTurn l (c := fun s _ => s.phase l = some .awaiting) (fun _ _ => Iff.rfl)
      (f := fun s t => s.endFailed l t (decide ((s.dock (dockIx l t.addr)).link = .online)))
      (fun s t => s.endFailed_hideSecrets l t _)
  | errorPeriodBoundary l => exact secretFree_errorPeriodBoundary l
  | breakTimeEnd l =>
    exact secretFree_when (c := fun s => (s.line l).state = .brk ∧ (s.line l).breakTimer = .breakTime) (fun _ => Iff.rfl)
      (State.updLine_hideSecrets · l _)
  | recoveryEnd l =>
    exact secretFree_when (c := fun s => (s.line l).state = .brk ∧ (s.line l).breakTimer = .recovery) (fun _ => Iff.rfl)
      (State.recover_hideSecrets · l)
  | quietEntry l => exact secretFree_quietEntry l
  | quietIntervalExpiry l => exact secretFree_quietIntervalExpiry l
  | wake l => exact secretFree_wake l
  | replyStart l marked =>
    exact secretFree_when (c := fun s => s.phase l = some .awaiting) (fun _ => Iff.rfl) (State.setPhase_hideSecrets · l _)
  | transactionStart p =>
    exact secretFree_when (c := fun s => (s.port p).trans = .idle)
      (f := fun s => s.updPort p (fun x => { x with trans := .started (s.present p) x.masks, dataOut := [] }))
      (fun _ => Iff.rfl) (fun s => s.updPort_hideSecrets p _)
  | emptyTransactionEnd p => exact secretFree_emptyTransactionEnd p

end Sys2Proof.Machine

namespace Sys2Proof.Proofs

open Sys2Proof.Machine

/-- Settles O6: every operation over the tables commutes with hiding the secrets, and the rules carry none out. -/
theorem secretHidden : Obligations.SecretHidden := by
  intro c s t hc hexec
  exact exec_secretFree hc s t hexec

end Sys2Proof.Proofs
end

section
/-! PROOFS. The presentation queue with hold-off, the ride table and the tags of bound docks: what each shared operation
does to the three (R43, R44, R57, R64, R94). -/

namespace Sys2Proof.Machine

/-! ## The ride table as a list (R64) -/

/-- The ride table: ascending distinct numbers, distinct real tags, docks of rides not OPEN distinct, and the two bounds. -/
structure RidesSound (xs : List Ride) : Prop where
  sorted : xs.Pairwise (fun a b => a.number < b.number)
  apart  : xs.Pairwise (fun a b => a.tag ≠ b.tag ∧ (a.state ≠ .opened → b.state ≠ .opened → a.dock ≠ b.dock))
  tagged : ∀ r ∈ xs, r.tag ≠ 0#32
  bound  : xs.length ≤ 256 ∧ xs.countP (fun r => decide (r.state ≠ .opened)) ≤ 60

namespace RidesSound

variable {xs ys : List Ride}

theorem nil : RidesSound [] := ⟨.nil, .nil, fun _ h => absurd h List.not_mem_nil, by decide⟩

theorem sublist (h : RidesSound xs) (k : ys.Sublist xs) : RidesSound ys where
  sorted := h.sorted.sublist k
  apart := h.apart.sublist k
  tagged r hr := h.tagged r (k.mem hr)
  bound := ⟨k.length_le.trans h.bound.1, (k.countP_le).trans h.bound.2⟩

/-- A change that keeps number, tag and dock of every ride, and keeps OPEN rides OPEN. -/
theorem map (h : RidesSound xs) (f : Ride → Ride)
    (hf : ∀ x ∈ xs, (f x).number = x.number ∧ (f x).tag = x.tag ∧ (f x).dock = x.dock ∧
      (x.state = .opened → (f x).state = .opened)) : RidesSound (xs.map f) where
  sorted := List.pairwise_map.mpr (h.sorted.imp_of_mem (fun {a b} ha hb k => by
    rwa [(hf a ha).1, (hf b hb).1]))
  apart := List.pairwise_map.mpr (h.apart.imp_of_mem (fun {a b} ha hb k => by
    obtain ⟨-, ta, da, oa⟩ := hf a ha
    obtain ⟨-, tb, db, ob⟩ := hf b hb
    rw [ta, tb, da, db]
    exact ⟨k.1, fun na nb => k.2 (mt oa na) (mt ob nb)⟩))
  tagged := by
    intro r hr
    obtain ⟨x, hx, rfl⟩ := List.mem_map.mp hr
    rw [(hf x hx).2.1]
    exact h.tagged x hx
  bound := by
    refine ⟨by simpa using h.bound.1, ?_⟩
    rw [List.countP_map]
    refine (List.countP_mono_left (fun x hx hopen => ?_)).trans h.bound.2
    have ho : (f x).state ≠ .opened := of_decide_eq_true hopen
    exact decide_eq_true (mt (hf x hx).2.2.2 ho)

/-- Only number, tag, dock and state of each ride matter. -/
theorem of_map (f : Ride → Ride)
    (hf : ∀ x, (f x).number = x.number ∧ (f x).tag = x.tag ∧ (f x).dock = x.dock ∧ (f x).state = x.state)
    (h : RidesSound (xs.map f)) : RidesSound xs where
  sorted := (List.pairwise_map.mp h.sorted).imp (fun {a b} k => by rwa [(hf a).1, (hf b).1] at k)
  apart := (List.pairwise_map.mp h.apart).imp (fun {a b} k => by
    obtain ⟨-, ta, da, sa⟩ := hf a
    obtain ⟨-, tb, db, sb⟩ := hf b
    rwa [ta, tb, da, db, sa, sb] at k)
  tagged r hr := (hf r).2.1 ▸ h.tagged _ (List.mem_map_of_mem hr)
  bound := by
    have hbound := h.bound
    rw [List.length_map, List.countP_map] at hbound
    refine ⟨hbound.1, (Nat.le_of_eq (List.countP_congr (fun x _ => ?_))).trans hbound.2⟩
    rw [Function.comp, (hf x).2.2.2]

/-- Numbers name rides. -/
theorem unique (h : RidesSound xs) {x y : Ride} (hx : x ∈ xs) (hy : y ∈ xs) (hn : x.number = y.number) : x = y := by
  have hsymm : Std.Symm (fun a b : Ride => a.number ≠ b.number) := ⟨fun _ _ k => k.symm⟩
  have hdistinct : xs.Pairwise (fun a b => a.number ≠ b.number) :=
    h.sorted.imp (fun {a b} hlt heq => by rw [heq] at hlt; exact BitVec.lt_irrefl _ hlt)
  by_contra hne
  exact hdistinct.forall hx hy hne hn

/-- What the order of two rides of the table does not matter for: their tags and docks. -/
theorem apart_symm : Std.Symm (fun a b : Ride =>
    a.tag ≠ b.tag ∧ (a.state ≠ .opened → b.state ≠ .opened → a.dock ≠ b.dock)) :=
  ⟨fun _ _ k => ⟨k.1.symm, fun ob oa => (k.2 oa ob).symm⟩⟩

/-- A dock is named by at most one ride that is not OPEN (R66). -/
theorem dock_unique (h : RidesSound xs) {x y : Ride} (hx : x ∈ xs) (hy : y ∈ xs) (ox : x.state ≠ .opened)
    (oy : y.state ≠ .opened) (hd : x.dock = y.dock) : x = y := by
  have hsymm := apart_symm
  by_contra hne
  exact (h.apart.forall hx hy hne).2 ox oy hd

/-- A ride with a fresh number, a fresh real tag and a dock that no ride binds joins a table with room. -/
theorem insert (h : RidesSound xs) {r : Ride} (hn : ∀ x ∈ xs, x.number ≠ r.number) (ht : ∀ x ∈ xs, x.tag ≠ r.tag)
    (h0 : r.tag ≠ 0#32) (hd : ∀ x ∈ xs, x.state ≠ .opened → x.dock ≠ r.dock) (hlen : xs.length < 256)
    (hcount : xs.countP (fun r => decide (r.state ≠ .opened)) < 60) : RidesSound (insertRide r xs) where
  sorted := sorted_insertRide r h.sorted
  apart := by
    refine (perm_insertRide r hn).pairwise_iff (fun {a b} k => apart_symm.symm a b k) |>.mpr ?_
    exact List.pairwise_cons.mpr ⟨fun x hx => ⟨(ht x hx).symm, fun _ ox => (hd x hx ox).symm⟩, h.apart⟩
  tagged x hx := by
    rcases mem_insertRide hx with rfl | hx
    · exact h0
    · exact h.tagged x hx
  bound := by
    have hperm := perm_insertRide r hn
    refine ⟨by rw [hperm.length_eq, List.length_cons]; omega, ?_⟩
    rw [hperm.countP_eq, List.countP_cons]
    split <;> omega

end RidesSound

/-! ## The invariants together -/

/-- Queue and marks are as they were. -/
structure QueueFrame (s t : State) : Prop where
  queue   : t.queue = s.queue
  holdOff : t.holdOff = s.holdOff
  high    : t.settings.high = s.settings.high
  low     : t.settings.low = s.settings.low

theorem QueueFrame.refl (s : State) : QueueFrame s s := ⟨rfl, rfl, rfl, rfl⟩

theorem SameStation.queueFrame {s t : State} (h : SameStation s t) : QueueFrame s t := by
  obtain ⟨⟨-, -, -, -, -, -, -, hset, -⟩, hq, hh⟩ := h
  exact ⟨hq, hh, by rw [hset], by rw [hset]⟩

theorem QueueFrame.queueInv {s t : State} (k : QueueFrame s t) (h : QueueInv s) : QueueInv t := by
  unfold QueueInv
  rw [k.queue, k.holdOff, k.high, k.low]
  exact h

/-- The queue with its marks, the ride table, and the tags of bound docks, each where it is asked for: one walk over the
commands serves the three. -/
structure TablesSound (queued bound tagged : Prop) (s : State) : Prop where
  queue : queued → QueueInv s
  rides : bound → RidesSound s.rides
  tags  : bound → tagged → DockTagInv s

/-- A ride of the table that is not OPEN has this number and this dock. -/
def State.Binds (s : State) (r : Ride) : Prop :=
  ∃ x ∈ s.rides, x.number = r.number ∧ x.dock = r.dock ∧ x.state ≠ .opened

theorem State.binds_of_mem {s : State} {r : Ride} (h : r ∈ s.rides) (ho : r.state ≠ .opened) : s.Binds r :=
  ⟨r, h, rfl, rfl, ho⟩

theorem State.binds_congr {s t : State} {r : Ride} (h : s.Binds r) (hr : t.rides = s.rides) : t.Binds r := by
  unfold State.Binds
  rwa [hr]

/-- No ride that is not OPEN names a dock. -/
theorem State.rideAt_none {s : State} {d : DockIx} :
    s.rideAt d = none ↔ ∀ x ∈ s.rides, x.state ≠ .opened → x.dock ≠ d := by
  simp only [State.rideAt, List.find?_eq_none, decide_eq_true_eq]
  exact ⟨fun h x hx ho hd => h x hx ⟨hd, ho⟩, fun h x hx a => h x hx a.2 a.1⟩

theorem State.rideAt_none_congr {s t : State} {d : DockIx} (h : s.rideAt d = none) (hr : t.rides = s.rides) :
    t.rideAt d = none := by
  unfold State.rideAt at h ⊢
  rwa [hr]

namespace TablesSound

variable {q b c : Prop} {s t : State}

/-- What keeps the queue, the soundness of the table and, for every ride not OPEN that is left, dock and tag. -/
theorem change (h : TablesSound q b c s) (hq : QueueFrame s t) (hr : RidesSound s.rides → RidesSound t.rides)
    (hd : b → ∀ r ∈ t.rides, r.state ≠ .opened →
      (∃ x ∈ s.rides, x.state ≠ .opened ∧ x.dock = r.dock ∧ x.tag = r.tag) ∧
      (t.dock r.dock).tag = (s.dock r.dock).tag) : TablesSound q b c t where
  queue a := hq.queueInv (h.queue a)
  rides a := hr (h.rides a)
  tags a e := by
    intro r hmem ho
    obtain ⟨⟨x, hx, ox, hdock, htag⟩, hsame⟩ := hd a r hmem ho
    rw [hsame, ← hdock, h.tags a e x hx ox, htag]

/-- Rides and the tags of docks stand. -/
theorem same (h : TablesSound q b c s) (hq : QueueFrame s t) (hr : t.rides = s.rides)
    (hd : ∀ d, (t.dock d).tag = (s.dock d).tag) : TablesSound q b c t :=
  h.change hq (fun k => hr ▸ k) (fun _ r hm ho => ⟨⟨r, hr ▸ hm, ho, rfl, rfl⟩, hd _⟩)

/-- Rides, docks, queue and settings stand. -/
theorem of_eq (h : TablesSound q b c s) (hr : t.rides = s.rides) (hd : t.docks = s.docks) (hq : t.queue = s.queue)
    (hh : t.holdOff = s.holdOff) (hset : t.settings = s.settings) : TablesSound q b c t :=
  h.same ⟨hq, hh, by rw [hset], by rw [hset]⟩ hr (fun d => by unfold State.dock; rw [hd])

theorem pool (h : TablesSound q b c s) (k : PoolFrame s t) : TablesSound q b c t :=
  h.same k.station.queueFrame k.rides (fun d => by rw [k.dock])

theorem line (h : TablesSound q b c s) (k : LineFrame s t) : TablesSound q b c t :=
  h.same k.station.queueFrame k.rides (fun d => by rw [k.dock d])

/-- How far OPEN has come matters to none of the three. -/
theorem own {l : Line} (h : TablesSound q b c s) (k : OwnLine s t l) : TablesSound q b c t := by
  have hsame : ∀ r ∈ t.rides, ∃ x ∈ s.rides, x.number = r.number ∧ x.tag = r.tag ∧ x.dock = r.dock ∧ x.state = r.state := by
    intro r hr
    have hmem : { r with progress := OpenProgress.notSent } ∈ t.rides.map (fun r => { r with progress := .notSent }) :=
      List.mem_map.mpr ⟨r, hr, rfl⟩
    rw [k.rides] at hmem
    obtain ⟨x, hx, e⟩ := List.mem_map.mp hmem
    injection e with e1 e2 e3 e4 e5 e6
    exact ⟨x, hx, e1, e5, e4, e6⟩
  refine h.change k.station.queueFrame (fun hs => ?_) (fun _ r hr ho => ?_)
  · refine RidesSound.of_map (fun r => { r with progress := .notSent }) (fun _ => ⟨rfl, rfl, rfl, rfl⟩) ?_
    rw [k.rides]
    exact hs.map _ (fun _ _ => ⟨rfl, rfl, rfl, id⟩)
  · obtain ⟨x, hx, -, htag, hdock, hstate⟩ := hsame r hr
    exact ⟨⟨x, hx, by rwa [hstate], hdock, htag⟩, by rw [k.dock]⟩

theorem ite {p : Prop} [Decidable p] {x y : State} (hx : TablesSound q b c x) (hy : TablesSound q b c y) :
    TablesSound q b c (if p then x else y) := by
  split
  · exact hx
  · exact hy

/-! ## Single writes -/

/-- A dock record is written but for its tag. -/
theorem updDock (h : TablesSound q b c s) (d : DockIx) (f : Dock → Dock)
    (hf : (f (s.dock d)).tag = (s.dock d).tag := by rfl) : TablesSound q b c (s.updDock d f) := by
  refine h.same ⟨rfl, rfl, rfl, rfl⟩ rfl (fun j => ?_)
  rw [State.dock_updDock]
  split
  · next e => rw [hf, e]
  · rfl

/-- A dock that no ride binds is written, its tag too. -/
theorem updFree (h : TablesSound q b c s) {d : DockIx} (hd : b → s.rideAt d = none) (f : Dock → Dock) :
    TablesSound q b c (s.updDock d f) := by
  refine h.change ⟨rfl, rfl, rfl, rfl⟩ id (fun hb r hr ho => ⟨⟨r, hr, ho, rfl, rfl⟩, ?_⟩)
  rw [State.dock_updDock, if_neg (State.rideAt_none.mp (hd hb) r hr ho)]

/-- A ride is written, but for its number, tag and dock, and an OPEN ride stays OPEN. -/
theorem updRide (h : TablesSound q b c s) (n : RideNo) (f : Ride → Ride)
    (hf : ∀ x, (f x).number = x.number ∧ (f x).tag = x.tag ∧ (f x).dock = x.dock)
    (ho : b → ∀ x ∈ s.rides, x.number = n → x.state = .opened → (f x).state = .opened) :
    TablesSound q b c (s.updRide n f) where
  queue a := h.queue a
  rides a := (h.rides a).map _ (fun x hx => by
    split
    · next e => exact ⟨(hf x).1, (hf x).2.1, (hf x).2.2, ho a x hx e⟩
    · exact ⟨rfl, rfl, rfl, id⟩)
  tags a e := by
    intro r hr hopen
    obtain ⟨x, hx, rfl⟩ := List.mem_map.mp hr
    split at hopen <;> rename_i hn
    · rw [if_pos hn, (hf x).2.1, (hf x).2.2]
      exact h.tags a e x hx (fun k => hopen (ho a x hx hn k))
    · rw [if_neg hn]
      exact h.tags a e x hx hopen

theorem dropRide (h : TablesSound q b c s) (n : RideNo) : TablesSound q b c (s.dropRide n) :=
  h.change ⟨rfl, rfl, rfl, rfl⟩ (fun k => k.sublist List.filter_sublist)
    (fun _ r hr ho => ⟨⟨r, (List.mem_filter.mp hr).1, ho, rfl, rfl⟩, rfl⟩)

theorem updLine (h : TablesSound q b c s) (l : Line) (f : LineCtl → LineCtl) : TablesSound q b c (s.updLine l f) :=
  h.own (s.updLine_own l f)

theorem updPort (h : TablesSound q b c s) (p : Port) (f : PortState → PortState) : TablesSound q b c (s.updPort p f) := by
  cases p <;> exact h.of_eq rfl rfl rfl rfl rfl

theorem endTransaction (h : TablesSound q b c s) (p : Port) (out : List Byte) :
    TablesSound q b c (s.endTransaction p out) := h.updPort p _

theorem respond (h : TablesSound q b c s) (p : Port) (code : Byte) (n : Nat) (r : Reply) :
    TablesSound q b c (s.respond p code n r) := (h.updPort p _).endTransaction p _

theorem latch (h : TablesSound q b c s) (p : Port) (e : Byte) : TablesSound q b c (s.latch p e) := h.updPort p _

theorem startRound (h : TablesSound q b c s) (l : Line) : TablesSound q b c (s.startRound l) := h.updLine l _

theorem leaveQueue (h : TablesSound q b c s) (d : DockIx) : TablesSound q b c (s.leaveQueue d) :=
  h.of_eq rfl rfl rfl rfl rfl

theorem endRideOf (h : TablesSound q b c s) (n : CredNo) : TablesSound q b c (s.endRideOf n) :=
  h.same (s.endRideOf_ride n).station.queueFrame (s.endRideOf_rides n)
    (fun d => by unfold State.dock; rw [s.endRideOf_docks n])

/-! ## Grants, lines and records -/

theorem issueGrants (h : TablesSound q b c s) : TablesSound q b c s.issueGrants := h.line s.issueGrants_frame

theorem returnGrant (h : TablesSound q b c s) (d : DockIx) : TablesSound q b c (s.returnGrant d) :=
  h.line (s.returnGrant_frame d)

theorem setPending (h : TablesSound q b c s) (d : DockIx) (x : Pending) : TablesSound q b c (s.setPending d x) :=
  h.line (s.setPending_frame d x)

theorem quietReturn (h : TablesSound q b c s) (l : Line) : TablesSound q b c (s.quietReturn l) :=
  h.line (s.quietReturn_frame l)

theorem postK (h : TablesSound q b c s) (x : Body) : TablesSound q b c (s.postK x) := h.pool (s.postK_pool x)

theorem notice (h : TablesSound q b c s) (sub : Subject) (x : NoticeBody) : TablesSound q b c (s.notice sub x) :=
  h.pool (s.notice_pool sub x)

theorem untake (h : TablesSound q b c s) (p : Port) : TablesSound q b c (s.untake p) := by
  have htrim : ∀ (k : Nat) {u : State}, TablesSound q b c u → TablesSound q b c (u.trimK k) := by
    intro k
    induction k with
    | zero => exact fun hu => hu
    | succ k ih =>
      intro u hu
      unfold State.trimK
      exact .ite (ih (hu.pool u.evictK_pool)) hu
  cases p
  · exact h.of_eq rfl rfl rfl rfl rfl
  · refine htrim _ ?_
    exact h.of_eq rfl rfl rfl rfl rfl

/-! ## Rides -/

theorem relatchDock (h : TablesSound q b c s) (d : DockIx) : TablesSound q b c (s.relatchDock d) :=
  (h.updDock d _).setPending d _

/-- The state of a ride that binds its dock is written (R68, R71). -/
theorem updBinding (h : TablesSound q b c s) {r : Ride} (hr : s.Binds r) (f : Ride → Ride)
    (hf : ∀ x, (f x).number = x.number ∧ (f x).tag = x.tag ∧ (f x).dock = x.dock) :
    TablesSound q b c (s.updRide r.number f) := by
  obtain ⟨x, hx, hn, -, ho⟩ := hr
  refine h.updRide _ f hf (fun hb y hy hny hopen => ?_)
  rw [(h.rides hb).unique hy hx (hny.trans hn.symm)] at hopen
  exact absurd hopen ho

theorem relatchRide (h : TablesSound q b c s) {r : Ride} (hr : s.Binds r) : TablesSound q b c (s.relatchRide r) := by
  have hride : TablesSound q b c (s.updRide r.number (fun x => { x with state := .relatching, windowLeft := none })) :=
    h.updBinding hr _ (fun _ => ⟨rfl, rfl, rfl⟩)
  exact (hride.returnGrant r.dock).relatchDock r.dock

theorem cancelRide (h : TablesSound q b c s) (r : Ride) (o : RideOutcome) : TablesSound q b c (s.cancelRide r o) := by
  have hslot : TablesSound q b c (s.freeSlot r.slot) := h.of_eq rfl rfl rfl rfl rfl
  exact (((((hslot.endRideOf r.cred).postK _).dropRide r.number).leaveQueue r.dock).updDock r.dock Dock.toDocked).returnGrant
    r.dock

/-- A cancelled ride leaves its dock unbound (R74). -/
theorem cancelRide_rideAt (h : TablesSound q b c s) (hb : b) {r : Ride} (hr : s.Binds r) (o : RideOutcome) :
    (s.cancelRide r o).rideAt r.dock = none := by
  obtain ⟨x, hx, hn, hd, ho⟩ := hr
  refine State.rideAt_none.mpr (fun y hy oy hdock => ?_)
  rw [(s.cancelRide_spec r o).rides, List.mem_filter] at hy
  have hxy := (h.rides hb).dock_unique hy.1 hx oy ho (hdock.trans hd.symm)
  exact absurd (hxy ▸ hn) (of_decide_eq_true hy.2)

theorem cancelForCred (h : TablesSound q b c s) (n : RideNo) : TablesSound q b c (s.cancelForCred n) := by
  unfold State.cancelForCred
  split
  · exact .ite (h.cancelRide _ _) h
  · exact h

theorem cancelQueuedOf (h : TablesSound q b c s) (f : CredNo → Bool) : TablesSound q b c (s.cancelQueuedOf f) := by
  unfold State.cancelQueuedOf
  generalize s.queuedRidesOf f = ns
  induction ns generalizing s with
  | nil => exact h
  | cons n ns ih => exact ih (h.cancelForCred n)

theorem acknowledge (h : TablesSound q b c s) {r : Ride} (hr : s.Binds r) : TablesSound q b c (s.acknowledge r) := by
  have hride : TablesSound q b c (s.updRide r.number (fun x => { x with
      state := .releasing, release := some s.minute, waitLeft := none, windowLeft := some s.settings.takeUpWindow })) :=
    h.updBinding hr _ (fun _ => ⟨rfl, rfl, rfl⟩)
  exact (hride.updDock r.dock _).leaveQueue r.dock

theorem acknowledge_binds {r : Ride} (hr : s.Binds r) : (s.acknowledge r).Binds r := by
  obtain ⟨x, hx, hn, hd, -⟩ := hr
  refine ⟨_, List.mem_map.mpr ⟨x, hx, rfl⟩, ?_⟩
  rw [if_pos hn]
  exact ⟨hn, hd, RideState.noConfusion⟩

/-- A ride taken up is OPEN, so that its dock is unbound when its tag goes (R69, R72). -/
theorem takeUp (h : TablesSound q b c s) {r : Ride} (hr : s.Binds r) (late : Bool) :
    TablesSound q b c (s.takeUp r late) := by
  have hride : TablesSound q b c (s.updRide r.number (fun x => { x with
      state := .opened, takeUp := some s.minute, late := x.late || late, windowLeft := none })) :=
    h.updRide _ _ (fun _ => ⟨rfl, rfl, rfl⟩) (fun _ _ _ _ _ => rfl)
  refine (((hride.updFree (fun hb => ?_) Dock.toTaken).returnGrant r.dock).postK _).notice _ _
  obtain ⟨x, hx, hn, hd, ho⟩ := hr
  refine State.rideAt_none.mpr (fun y hy oy hdock => ?_)
  obtain ⟨z, hz, rfl⟩ := List.mem_map.mp hy
  split at oy
  · exact oy rfl
  · next hne =>
    rw [if_neg hne] at hdock
    exact hne ((h.rides hb).dock_unique hz hx oy ho (hdock.trans hd.symm) ▸ hn)

theorem closeRide (h : TablesSound q b c s) (r : Ride) (k : TripKind) (d : Option DockIx) (m : Minute) (x : Bool) :
    TablesSound q b c (s.closeRide r k d m x) := by
  have hcred : TablesSound q b c (s.updCred r.cred (fun e => e.debited (s.figures r m))) := h.of_eq rfl rfl rfl rfl rfl
  exact ((hcred.endRideOf r.cred).pool (State.postN_pool _ _ _ _)).dropRide r.number

theorem finishRide (h : TablesSound q b c s) (r : Ride) (k : TripKind) (d : Option DockIx) (m : Minute) :
    TablesSound q b c (s.finishRide r k d m) := by
  unfold State.finishRide State.closeEarly
  exact .ite (h.closeRide _ _ _ _ _) ((((h.closeRide _ _ _ _ _).postK _).returnGrant _).relatchDock _)

theorem ageOut (h : TablesSound q b c s) : TablesSound q b c s.ageOut := by
  unfold State.ageOut
  split
  · exact h
  · exact ((h.endRideOf _).pool (State.postN_pool _ _ _ _)).dropRide _

theorem returnBike (h : TablesSound q b c s) (d : DockIx) (g : BikeTag) : TablesSound q b c (s.returnBike d g) := by
  have hforeign : TablesSound q b c (s.foreignReturn d g) := h.pool (s.foreignReturn_pool d g)
  unfold State.returnBike
  split
  · exact hforeign
  · split
    · exact hforeign
    · exact .ite hforeign (h.finishRide _ _ _ _)

/-! ## Replies -/

theorem loseLink (h : TablesSound q b c s) (d : DockIx) : TablesSound q b c (s.loseLink d) := by
  have hlost : TablesSound q b c (s.updDock d (fun x => { x with link := .lost })) := h.updDock d _
  unfold State.loseLink
  dsimp only
  split
  · exact hlost.notice _ _
  · next r hr =>
    obtain ⟨hmem, -, ho⟩ := State.rideAt_some hr
    split
    · exact (hlost.cancelRide _ _).notice _ _
    · exact (hlost.relatchRide (State.binds_of_mem hmem ho)).notice _ _
    · exact hlost.notice _ _
    · exact hlost

theorem failTurn (h : TablesSound q b c s) (d : DockIx) : TablesSound q b c (s.failTurn d) := by
  have hfail : TablesSound q b c (s.updDock d (fun x => { x with failed := (s.dock d).failed + 1 })) := h.updDock d _
  unfold State.failTurn
  exact .ite h (.ite (hfail.loseLink d) hfail)

theorem jamDock (h : TablesSound q b c s) (d : DockIx) (x : JamCause) (n : Option RideNo) :
    TablesSound q b c (s.jamDock d x n) := by
  unfold State.jamDock
  exact .ite h ((h.updDock d _).notice _ _)

theorem bikeGone (h : TablesSound q b c s) {d : DockIx} (hd : b → s.rideAt d = none) (n : Option RideNo) :
    TablesSound q b c (s.bikeGone d n) := (h.updFree hd Dock.toEmpty).notice _ _

theorem retag (h : TablesSound q b c s) {d : DockIx} (hd : b → s.rideAt d = none) (g : BikeTag) :
    TablesSound q b c (s.retag d g) := by
  have htag : TablesSound q b c (s.updDock d (fun x => { x with tag := g, since := s.minute })) := h.updFree hd _
  unfold State.retag
  exact .ite h (.ite (htag.returnBike d g) htag)

theorem relatchAttempt (h : TablesSound q b c s) (d : DockIx) (x : Bool) (n : Option RideNo) :
    TablesSound q b c (s.relatchAttempt d x n) := by
  unfold State.relatchAttempt
  exact .ite (.ite (h.jamDock _ _ _) (h.updDock d _)) h

theorem rideReply (h : TablesSound q b c s) (d : DockIx) {x : Ride} (hx : s.Binds x) (r : StatusReply) (cl : Bool) :
    TablesSound q b c (s.rideReply d x r cl) := by
  unfold State.rideReply
  split
  · exact .ite (.ite (h.acknowledge hx) ((h.acknowledge hx).takeUp (acknowledge_binds hx) false)) h
  · exact .ite h (h.takeUp hx false)
  · exact .ite (h.relatchAttempt _ _ _) (h.takeUp hx true)
  · exact h

theorem afterCancel (h : TablesSound q b c s) {d : DockIx} (hd : b → s.rideAt d = none) (x : Ride) (r : StatusReply) :
    TablesSound q b c (s.afterCancel d x r) := by
  unfold State.afterCancel
  exact .ite (h.jamDock _ _ _) (.ite (.ite (h.retag hd _) (h.jamDock _ _ _)) (h.bikeGone hd _))

theorem clearFault (h : TablesSound q b c s) {d : DockIx} (hd : b → s.rideAt d = none) (r : StatusReply) :
    TablesSound q b c (s.clearFault d r) := by
  unfold State.clearFault
  exact .ite ((h.updDock d _).retag (fun hb => hd hb) _) (.ite (h.updFree hd _) (h.bikeGone hd _))

theorem plainReply (h : TablesSound q b c s) {d : DockIx} (hd : b → s.rideAt d = none) (r : StatusReply) (cl : Bool) :
    TablesSound q b c (s.plainReply d r cl) := by
  have hbike : TablesSound q b c (s.dockBike d r.tag) := h.updFree hd _
  unfold State.plainReply
  split
  case h_1 => exact .ite (h.updFree hd _) (.ite hbike (hbike.relatchDock d))
  case h_2 => exact .ite (hbike.returnBike d _) h
  case h_3 => exact .ite (h.bikeGone hd _) (.ite (h.retag hd _) (h.relatchDock d))
  case h_4 => exact .ite (h.updFree hd _) (.ite ((h.updDock d _).retag (fun hb => hd hb) _) (h.relatchAttempt _ _ _))
  case h_5 => exact .ite h (h.clearFault hd r)
  all_goals exact h

theorem dockReply (h : TablesSound q b c s) {d : DockIx} (hd : b → s.rideAt d = none) (r : StatusReply) (cl : Bool) :
    TablesSound q b c (s.dockReply d r cl) := by
  unfold State.dockReply
  exact .ite (h.jamDock _ _ _) (.ite ((h.updDock d _).notice _ _) (h.plainReply hd r cl))

/-- An accepted presentation joins a queue in which hold-off is not in force, at most the high mark long (R43). -/
theorem enqueue (h : TablesSound q b c s) (hh : s.holdOff = false) (x : Presentation) : TablesSound q b c (s.enqueue x) where
  queue a := by
    obtain ⟨hhigh, hlow, hlen, hoff, -⟩ := h.queue a
    have hle := hoff hh
    have hnew : (s.enqueue x).queue.length = s.queue.length + 1 := by simp [State.enqueue]
    have hhold : (s.enqueue x).holdOff = decide (s.settings.high < s.queue.length + 1) := by simp [State.enqueue, hh]
    refine ⟨hhigh, hlow, ?_, fun hf => ?_, fun ht => ?_⟩
    · rw [hnew]; show s.queue.length + 1 ≤ 24; omega
    · rw [hhold, decide_eq_false_iff_not] at hf
      rw [hnew]; show s.queue.length + 1 ≤ s.settings.high; omega
    · rw [hhold, decide_eq_true_eq] at ht
      rw [hnew]; show s.settings.low < s.queue.length + 1; omega
  rides := h.rides
  tags := h.tags

/-- The head leaves, and hold-off ends at the low mark (R43). -/
theorem dequeue (h : TablesSound q b c s) : TablesSound q b c s.dequeue where
  queue a := by
    obtain ⟨hhigh, hlow, hlen, hoff, hon⟩ := h.queue a
    have hnew : s.dequeue.queue.length = s.queue.length - 1 := by simp [State.dequeue]
    have hhold : s.dequeue.holdOff = (s.holdOff && decide (s.settings.low < s.queue.length - 1)) := by
      simp [State.dequeue]
    refine ⟨hhigh, hlow, by omega, fun hf => ?_, fun ht => ?_⟩
    · rw [hnew]
      show s.queue.length - 1 ≤ s.settings.high
      rw [hhold, Bool.and_eq_false_iff, decide_eq_false_iff_not] at hf
      rcases hf with hf | hf
      · have := hoff hf; omega
      · omega
    · rw [hhold, Bool.and_eq_true, decide_eq_true_eq] at ht
      rw [hnew]
      exact ht.2
  rides := h.rides
  tags := h.tags

theorem offerToken (h : TablesSound q b c s) (d : DockIx) (r : StatusReply) : TablesSound q b c (s.offerToken d r) := by
  unfold State.offerToken
  split
  · refine .ite h ?_
    unfold State.offer
    split
    · exact h
    · next hh => exact (h.enqueue (by simpa using hh) _).updDock d _
  · exact h

theorem handleStatus (h : TablesSound q b c s) (d : DockIx) (r : StatusReply) (cl : Bool) :
    TablesSound q b c (s.handleStatus d r cl) := by
  unfold State.handleStatus
  extract_lets before s1 s2
  have h2 : TablesSound q b c s2 := ((h.updDock d _).offerToken d r).updDock d _
  clear_value s2
  split
  · next x hx =>
    obtain ⟨hmem, hdock, ho⟩ := State.rideAt_some hx
    have hbind : s2.Binds x := State.binds_of_mem hmem ho
    split
    · refine ((h2.cancelRide _ _).pool (State.linkNotices_pool _ _ _ _)).afterCancel (fun hb => ?_) x r
      exact State.rideAt_none_congr (hdock ▸ h2.cancelRide_rideAt hb hbind _) (State.linkNotices_pool _ _ _ _).rides
    · exact (h2.pool (State.linkNotices_pool _ _ _ _)).rideReply d
        (State.binds_congr hbind (State.linkNotices_pool _ _ _ _).rides) r cl
  · next hx =>
    exact (h2.pool (State.linkNotices_pool _ _ _ _)).dockReply
      (fun _ => State.rideAt_none_congr hx (State.linkNotices_pool _ _ _ _).rides) r cl

/-! ## Lines -/

theorem settleOpen (h : TablesSound q b c s) (d : DockIx) (x : Bool) : TablesSound q b c (settleOpen s d x) :=
  h.own (settleOpen_own s d x .a)

theorem broken {l : Line} {x : LineCtl} {y : Bool} (h : TablesSound q b c s) (k : BreakSpec s t l x y) :
    TablesSound q b c t := by
  have hown : TablesSound q b c { s with rides := t.rides } := h.own (l := .a) ⟨rfl, k.rides, rfl⟩
  obtain ⟨hq, hh, hhigh, hlow⟩ := k.frame.station.queueFrame
  exact hown.same ⟨hq, hh, hhigh, hlow⟩ rfl (fun d => by unfold State.dock; rw [k.docks])

theorem enterBreak (h : TablesSound q b c s) (l : Line) (x : BreakCause) : TablesSound q b c (s.enterBreak l x) :=
  h.broken (s.enterBreak_spec l x)

theorem lineError (h : TablesSound q b c s) (l : Line) : TablesSound q b c (s.lineError l) := by
  have hcount : TablesSound q b c (s.updLine l (fun x => { x with errors := (s.line l).errors + 1 })) := h.updLine l _
  unfold State.lineError
  exact .ite ((hcount.notice _ _).enterBreak l _) hcount

theorem endFailed (h : TablesSound q b c s) (l : Line) (x : Turn) (e : Bool) : TablesSound q b c (s.endFailed l x e) := by
  have hturn := (((h.settleOpen (dockIx l x.addr) true).own (State.endTurn_own _ l)).updDock (dockIx l x.addr)
    (fun y => { y with busy := 0 })).failTurn (dockIx l x.addr)
  unfold State.endFailed
  exact .ite (hturn.lineError l) hturn

theorem endBusy (h : TablesSound q b c s) (l : Line) (x : Turn) : TablesSound q b c (s.endBusy l x) := by
  have hturn := (h.settleOpen (dockIx l x.addr) false).own (State.endTurn_own _ l)
  unfold State.endBusy
  extract_lets d before s1 s2
  have h1 : TablesSound q b c s1 := hturn.updDock d _
  have h2 : TablesSound q b c s2 := .ite (h1.notice _ _) h1
  exact .ite ((h2.updDock d _).failTurn d) (h2.updDock d _)

theorem openAfterShow (h : TablesSound q b c s) (d : DockIx) : TablesSound q b c (s.openAfterShow d) := by
  unfold State.openAfterShow
  exact .ite (h.setPending d _) h

theorem endStatus (h : TablesSound q b c s) (l : Line) (x : Turn) (r : StatusReply) :
    TablesSound q b c (s.endStatus l x r) := by
  have hturn := (h.settleOpen (dockIx l x.addr) true).own (State.endTurn_own _ l)
  have hclear : TablesSound q b c (((Machine.settleOpen s (dockIx l x.addr) true).endTurn l).clearCounts
      (dockIx l x.addr) x) := hturn.updDock _ _
  have hdone := (hclear.handleStatus (dockIx l x.addr) r (decide (x.cmd = .closeCmd))).openAfterShow (dockIx l x.addr)
  unfold State.endStatus
  exact .ite ((hdone.updLine l _).quietReturn l) hdone

theorem recover (h : TablesSound q b c s) (l : Line) : TablesSound q b c (s.recover l) :=
  (((h.updLine l _).latch _ _).notice _ _).issueGrants.startRound l

theorem startTurn (h : TablesSound q b c s) (l : Line) (a : Addr) : TablesSound q b c (s.startTurn l a) := by
  have hturn : TablesSound q b c (s.updLine l (fun x => { x with
      turn := some ⟨a, (s.dock (dockIx l a)).pending, (s.dock (dockIx l a)).ack, s.settings.replyWindow, .sending⟩ })) :=
    h.updLine l _
  unfold State.startTurn
  exact .ite (hturn.own (l := .a) ⟨rfl, State.sendOpen_sameRides _ _, rfl⟩) hturn

end TablesSound

end Sys2Proof.Machine
end

section
/-! PROOFS. Every step keeps the queue with hold-off, the ride table and the tags of bound docks (R41, R43, R44, R57, R64,
R66, R94). -/

namespace Sys2Proof.Machine

/-- The ride table is sound where the three invariants of it are kept. -/
theorem ridesSound_of_inv {s : State} (hbind : BindInv s) (htag : TagInv s) (hbound : RideBound s) : RidesSound s.rides := by
  obtain ⟨hsorted, -, hdocks, -⟩ := hbind
  exact ⟨hsorted, htag.1.imp₂ (fun _ _ => And.intro) hdocks, htag.2, hbound⟩

/-- A DOCKED dock, as any other that is not QUEUED, RELEASING or RELATCHING, is bound by no ride (R66). -/
theorem BindInv.rideAt_none {s : State} (h : BindInv s) {d : DockIx} (hd : boundDock (s.dock d) = false) :
    s.rideAt d = none := by
  obtain ⟨-, hstate, -⟩ := h
  refine State.rideAt_none.mpr (fun x hx ho hdock => ?_)
  have hsame := hstate x hx ho
  rw [hdock] at hsame
  unfold boundDock at hd
  cases hs : x.state with
  | opened => exact ho hs
  | _ => simp [hs, RideState.dockState] at hsame; simp [hsame] at hd

/-- The rides that are not OPEN stand at distinct docks; one dock that they leave bounds their number (R57, R66). -/
theorem RidesSound.room {xs : List Ride} (h : RidesSound xs) {d : DockIx}
    (hd : ∀ x ∈ xs, x.state ≠ .opened → x.dock ≠ d) : xs.countP (fun r => decide (r.state ≠ .opened)) < 60 := by
  have hnodup : (d :: (xs.filter (fun r => decide (r.state ≠ .opened))).map (fun r => r.dock)).Nodup := by
    refine List.nodup_cons.mpr ⟨fun hmem => ?_, List.pairwise_map.mpr ?_⟩
    · obtain ⟨x, hx, e⟩ := List.mem_map.mp hmem
      exact hd x (List.mem_filter.mp hx).1 (of_decide_eq_true (List.mem_filter.mp hx).2) e
    · refine (h.apart.sublist List.filter_sublist).imp_of_mem (fun {a b} ha hb k => ?_)
      exact k.2 (of_decide_eq_true (List.mem_filter.mp ha).2) (of_decide_eq_true (List.mem_filter.mp hb).2)
  have hlen := hnodup.length_le_card
  rw [List.length_cons, List.length_map, ← List.countP_eq_length_filter, Fintype.card_fin] at hlen
  omega

/-- With a full table and a dock to be had, some ride is OPEN, so that one is aged out (R67). -/
theorem oldestOpen_some {now : Minute} {xs : List Ride} {r : Ride} (hr : r ∈ xs) (ho : r.state = .opened) :
    ∃ x, oldestOpen now xs = some x := by
  have key : ∀ (rs : List Ride) (best : Option Ride), best.isSome ∨ rs ≠ [] →
      (rs.foldl (fun best r => match best with
        | none => some r
        | some x => if takeUpAge now x < takeUpAge now r then some r else some x) best).isSome := by
    intro rs
    induction rs with
    | nil => exact fun best hb => hb.resolve_right (fun k => k rfl)
    | cons y ys ih =>
      intro best _
      refine ih _ (.inl ?_)
      dsimp only
      split
      · rfl
      · split <;> rfl
  refine Option.isSome_iff_exists.mp (key _ none (.inr (List.ne_nil_of_mem (a := r) ?_)))
  exact List.mem_filter.mpr ⟨hr, decide_eq_true ho⟩

theorem State.ageOut_docks (s : State) : s.ageOut.docks = s.docks := by
  unfold State.ageOut
  split
  · rfl
  · exact s.endRideOf_docks _

theorem State.ageOut_rides (s : State) : s.ageOut.rides.Sublist s.rides := by
  unfold State.ageOut
  split
  · exact List.Sublist.refl _
  · next r _ =>
    show ((s.endRideOf r.cred).rides.filter _).Sublist _
    rw [State.endRideOf_rides]
    exact List.filter_sublist

/-- An ageing out makes room where some ride is OPEN (R67). -/
theorem State.ageOut_length_lt {s : State} {r : Ride} (hr : r ∈ s.rides) (ho : r.state = .opened) :
    s.ageOut.rides.length < s.rides.length := by
  unfold State.ageOut
  obtain ⟨x, hx⟩ := oldestOpen_some (now := s.minute) hr ho
  rw [hx]
  show ((s.endRideOf x.cred).rides.filter _).length < _
  rw [State.endRideOf_rides]
  exact List.length_filter_lt_length_iff_exists.mpr ⟨x, oldestOpen_mem hx, by simp⟩

/-- Room for one ride more: the table as an admission finds it, one ride aged out at 256 (R67). -/
def State.withRoom (s : State) : State := if Config.rideCapacity ≤ s.rides.length then s.ageOut else s

theorem State.withRoom_docks (s : State) : s.withRoom.docks = s.docks := by
  unfold State.withRoom
  split
  · exact s.ageOut_docks
  · rfl

theorem State.withRoom_rides (s : State) : s.withRoom.rides.Sublist s.rides := by
  unfold State.withRoom
  split
  · exact s.ageOut_rides
  · exact List.Sublist.refl _

theorem State.withRoom_length {s : State} (h : RidesSound s.rides) {d : DockIx} (hd : s.rideAt d = none) :
    s.withRoom.rides.length < 256 := by
  unfold State.withRoom
  split
  · next hfull =>
    have hcount := h.room (State.rideAt_none.mp hd)
    by_contra hlong
    have hall : s.rides.length = s.rides.countP (fun r => decide (r.state ≠ .opened)) := by
      refine (List.countP_eq_length.mpr (fun r hr => ?_)).symm
      refine decide_eq_true (fun ho => ?_)
      have := s.ageOut_length_lt hr ho
      have := h.bound.1
      omega
    simp only [Config.rideCapacity] at hfull
    omega
  · next hroom => simpa [Config.rideCapacity] using hroom

namespace TablesSound

variable {q b c : Prop} {s : State}

/-! ## The admission decision -/

theorem showRefuse (h : TablesSound q b c s) (o : Origin) : TablesSound q b c (s.showRefuse o) := by
  unfold State.showRefuse
  split
  · exact h
  · split
    case h_5 => exact h.setPending _ _
    all_goals exact h

theorem showAdmitted (h : TablesSound q b c s) (o : Origin) : TablesSound q b c (s.showAdmitted o) := by
  unfold State.showAdmitted
  split
  · exact h
  · exact h.setPending _ _

theorem burstNotice (h : TablesSound q b c s) (d : DockIx) (n : CredNo) : TablesSound q b c (s.burstNotice d n) :=
  .ite (h.notice _ _) h

theorem refuse (h : TablesSound q b c s) (x : Presentation) (r : Reason) : TablesSound q b c (s.refuse x r) := by
  unfold State.refuse
  dsimp only
  split
  · next d _ _ =>
    have hcount : TablesSound q b c (s.countMismatch d) := by
      unfold State.countMismatch
      exact h.updDock d _
    exact (TablesSound.ite (h.postK _)
      (.ite ((hcount.burstNotice d _).postK _) ((hcount.postK _).burstNotice d _))).showRefuse _
  · exact (h.postK _).showRefuse _

theorem withRoom (h : TablesSound q b c s) : TablesSound q b c s.withRoom := .ite h.ageOut h

/-- An admission at a DOCKED dock whose real tag no ride holds (R57): the new ride has a free number, that tag, and that
dock to itself. -/
theorem admitRide (h : TablesSound q b c s) (x : Presentation) (e : Cred) {d : DockIx} (hd : b → s.rideAt d = none)
    (h0 : (s.dock d).tag ≠ 0#32) (ht : s.rideOfTag (s.dock d).tag = none) : TablesSound q b c (s.admitRide x e d) := by
  have h1 := h.withRoom
  have hdock : s.withRoom.dock d = s.dock d := by unfold State.dock; rw [s.withRoom_docks]
  have hfresh : ∀ y ∈ s.withRoom.rides, y.tag ≠ (s.dock d).tag := by
    intro y hy
    simpa using List.find?_eq_none.mp ht y (s.withRoom_rides.mem hy)
  unfold State.admitRide
  extract_lets s1 n
  change TablesSound q b c s1 at h1
  change s1.dock d = _ at hdock
  split
  · exact h1
  · next slot rest _ =>
    extract_lets s2 s3 s4 s5
    have h3 : TablesSound q b c (s2.putRide (newRide s1 x e d n slot)) := by
      refine ⟨h1.queue, fun hb => ?_, fun hb hc => ?_⟩
      · have hlen : s1.rides.length < 256 := State.withRoom_length (h.rides hb) (hd hb)
        have hfree : ∀ y ∈ s1.rides, y.state ≠ .opened → y.dock ≠ d :=
          fun y hy => State.rideAt_none.mp (hd hb) y (s.withRoom_rides.mem hy)
        have htag : (newRide s1 x e d n slot).tag = (s.dock d).tag := congrArg Dock.tag hdock
        refine (h1.rides hb).insert (fun y hy => ?_) ?_ ?_ hfree hlen ((h1.rides hb).room hfree)
        · have hnone : s1.findRide n = none := freeNumber_fresh (s := s1) (by omega)
          exact of_decide_eq_false (Bool.eq_false_iff.mpr (List.find?_eq_none.mp hnone y hy))
        · exact fun y hy => htag ▸ hfresh y hy
        · exact htag ▸ h0
      · intro y hy ho
        rcases mem_insertRide hy with rfl | hy
        · rfl
        · exact h1.tags hb hc y hy ho
    have h4 : TablesSound q b c s4 := by
      have hcount : TablesSound q b c s3 := h3.of_eq rfl rfl rfl rfl rfl
      show TablesSound q b c (s3.updDock d _)
      exact hcount.updDock d _
    have h5 : TablesSound q b c s5 := by
      refine issueGrants ?_
      exact h4.of_eq rfl rfl rfl rfl rfl
    exact (h5.postK _).showAdmitted _

theorem decideOn (h : TablesSound q b c s) (hb : b → BindInv s) (x : Presentation) : TablesSound q b c (s.decideOn x) := by
  have hspend : TablesSound q b c (s.spend x.token) := h.of_eq rfl rfl rfl rfl rfl
  unfold State.decideOn
  split
  · exact h.refuse _ _
  · split
    · exact hspend.refuse _ _
    · next hlater =>
      obtain ⟨-, hdocked, -, htag, hnone, -⟩ := laterChecks_ok hlater
      exact hspend.admitRide x _ (fun k => (hb k).rideAt_none (by simp [boundDock, hdocked])) htag hnone

/-! ## Credentials and sweeps -/

theorem restartIdle (h : TablesSound q b c s) : TablesSound q b c s.restartIdle := .ite h (h.of_eq rfl rfl rfl rfl rfl)

theorem abandonSweep (h : TablesSound q b c s) (x : AbandonCause) (n : Option Byte) :
    TablesSound q b c (s.abandonSweep x n) := by
  by_cases hopen : s.sweep.openNo = 0#8
  · rw [State.abandonSweep_none hopen]
    exact h
  · rw [State.abandonSweep_eq hopen]
    have hdrop : TablesSound q b c s.sweepDropped := h.of_eq rfl rfl rfl rfl rfl
    exact (hdrop.notice _ _).latch _ _

theorem loadCred (h : TablesSound q b c s) (n : CredNo) (st : CredState) (cls : Fin 4) (secret : BitVec 32)
    (counter : Word16) (balance : Int) (overdraft : Nat) (keep : Bool) :
    TablesSound q b c (s.loadCred n st cls secret counter balance overdraft keep).1 := by
  unfold State.loadCred
  extract_lets old d bal e s1
  have h1 : TablesSound q b c s1 := h.of_eq rfl rfl rfl rfl rfl
  exact .ite (h1.cancelQueuedOf _) h1

theorem credLoadRule (h : TablesSound q b c s) (n : CredNo) (st cls : Byte) (secret : BitVec 32)
    (counter balance overdraft : Word16) (keep : Byte) :
    TablesSound q b c (credLoadRule n st cls secret counter balance overdraft keep s).1 := by
  unfold Machine.credLoadRule
  dsimp only
  split
  · exact h.restartIdle
  · split
    · exact h.restartIdle
    · split
      · exact h.restartIdle
      · split
        · exact h.restartIdle
        · exact h.restartIdle.loadCred _ _ _ _ _ _ _ _

theorem updCred (h : TablesSound q b c s) (n : CredNo) (f : Cred → Cred) : TablesSound q b c (s.updCred n f) :=
  h.of_eq rfl rfl rfl rfl rfl

theorem credStateRule (h : TablesSound q b c s) (n : CredNo) (st : Byte) : TablesSound q b c (credStateRule n st s).1 := by
  unfold Machine.credStateRule
  split
  · exact h
  · split
    · exact h
    · split
      · exact h
      · exact .ite ((h.updCred _ _).cancelQueuedOf _) (h.updCred _ _)

theorem credBalanceRule (h : TablesSound q b c s) (n : CredNo) (mode : Byte) (amount : Word16) :
    TablesSound q b c (credBalanceRule n mode amount s).1 := by
  unfold Machine.credBalanceRule
  split
  · exact h
  · split
    · exact h
    · exact h.updCred _ _

theorem credRemoveRule (h : TablesSound q b c s) (n : CredNo) : TablesSound q b c (credRemoveRule n s).1 := by
  unfold Machine.credRemoveRule
  split
  · exact h
  · split
    · exact h.of_eq rfl rfl rfl rfl rfl
    · split
      · exact h
      · exact (h.updCred _ _).cancelQueuedOf _

theorem sweepOpenRule (h : TablesSound q b c s) (n : Byte) : TablesSound q b c (sweepOpenRule n s).1 := by
  by_cases hn : n = 0#8
  · rw [Machine.sweepOpenRule, if_pos hn]
    exact h
  · rw [sweepOpenRule_opens hn]
    exact (h.abandonSweep .reopen (some n)).of_eq rfl rfl rfl rfl rfl

theorem sweepCloseRule (h : TablesSound q b c s) (n : Byte) : TablesSound q b c (sweepCloseRule n s).1 := by
  unfold Machine.sweepCloseRule
  split
  · exact h
  · split
    · exact h.restartIdle
    · unfold State.closeSweep
      extract_lets counts s1 s2 s3 s4
      have h1 : TablesSound q b c s1 := h.of_eq rfl rfl rfl rfl rfl
      have h3 : TablesSound q b c s3 := (h1.cancelQueuedOf _).of_eq rfl rfl rfl rfl rfl
      have h4 : TablesSound q b c s4 := (h3.notice _ _).latch _ _
      exact h4

/-! ## Docks, lines and rides -/

/-- A new map writes docks of which no ride is bound: those it fits were UNFITTED, and check 3 turns away a map that
would unfit a bound dock (R88, R89). -/
theorem writeMap (h : TablesSound q b c s) (hb : b → BindInv s) {l : Line} {addrs : List Byte}
    (hcheck : ¬ unfitsBound s l addrs = true) : TablesSound q b c (s.writeMap l addrs) := by
  unfold State.writeMap
  generalize hwritten : (fun (d : DockIx) (x : Dock) =>
    if lineOf d = l then x.refit (inMap addrs (addrOf d)) else x) = f
  have hframe : QueueFrame s (s.mapDocks f) := ⟨by simp, by simp, by simp, by simp⟩
  refine h.change hframe (fun k => by rwa [State.mapDocks_rides]) (fun k r hr ho => ?_)
  rw [State.mapDocks_rides] at hr
  refine ⟨⟨r, hr, ho, rfl, rfl⟩, ?_⟩
  rw [State.dock_mapDocks, ← hwritten]
  dsimp only
  split
  · next hl =>
    have hbound : boundDock (s.dock r.dock) = true := by
      by_contra hnot
      exact State.rideAt_none.mp ((hb k).rideAt_none (by simpa using hnot)) r hr ho rfl
    have hlisted : inMap addrs (addrOf r.dock) = true := by
      by_contra hnot
      refine hcheck (List.any_eq_true.mpr ⟨addrOf r.dock, List.mem_finRange _, ?_⟩)
      rw [← hl, dockIx_lineOf_addrOf]
      rw [Bool.not_eq_true] at hnot
      rw [hnot, hbound]
      rfl
    have hfit : (s.dock r.dock).state ≠ .unfitted := by
      intro hun
      simp [boundDock, hun] at hbound
    rw [Dock.refit, if_pos hlisted, if_neg hfit]
  · rfl

theorem dockFitRule (h : TablesSound q b c s) (hb : b → BindInv s) (p : Port) (line : Byte) (addrs : List Byte) :
    TablesSound q b c (dockFitRule p line addrs s).1 := by
  unfold Machine.dockFitRule
  split
  · exact h
  · split
    · exact h
    · split
      · exact h
      · split
        · exact h
        · split
          · exact h
          · next hcheck =>
            have hmap := h.writeMap hb hcheck
            split
            · exact hmap.broken (State.disableLine_spec _ _)
            · exact hmap.enterBreak _ _

theorem dockHoldRule (h : TablesSound q b c s) (p : Port) (x : Byte) : TablesSound q b c (dockHoldRule p x s).1 := by
  unfold Machine.dockHoldRule
  split
  · exact h
  · split
    · exact h.updDock _ (fun x => { x with hold := some (holdOrigin p) })
    · exact h

theorem dockFreeRule (h : TablesSound q b c s) (x : Byte) : TablesSound q b c (dockFreeRule x s).1 := by
  unfold Machine.dockFreeRule
  split
  · exact h
  · exact h.updDock _ (fun x => { x with hold := none })

theorem lineRestartRule (h : TablesSound q b c s) (x : Byte) : TablesSound q b c (lineRestartRule x s).1 := by
  unfold Machine.lineRestartRule
  split
  · exact h
  · split
    · exact h
    · exact h.enterBreak _ _

theorem rideCloseRule (h : TablesSound q b c s) (g : BikeTag) (m : Minute) : TablesSound q b c (rideCloseRule g m s).1 := by
  unfold Machine.rideCloseRule
  split
  · exact h
  · split
    · exact h
    · split
      · exact h
      · exact h.finishRide _ _ _ _

theorem rideCancelRule (h : TablesSound q b c s) (n : RideNo) : TablesSound q b c (rideCancelRule n s).1 := by
  unfold Machine.rideCancelRule
  split
  · exact h
  · next r hr =>
    split
    · exact h.cancelRide _ _
    · next hrel => exact h.relatchRide (State.binds_of_mem (State.findRide_some hr).1 (by rw [hrel]; exact RideState.noConfusion))
    · exact h
    · exact h

/-- TOKEN PRESENT joins the queue only while hold-off is not in force (R46). -/
theorem tokenPresentRule (h : TablesSound q b c s) (x : Token) (y : Byte) : TablesSound q b c (tokenPresentRule x y s).1 := by
  unfold Machine.tokenPresentRule
  split
  · exact h
  · split
    · exact h
    · next hh => exact h.enqueue (by simpa using hh) _

/-! ## Records and ports -/

theorem takeRule (h : TablesSound q b c s) (p : Port) : TablesSound q b c (takeRule p s).1 := by
  have hdrop : TablesSound q b c (s.dropHead p) := by cases p <;> exact h.of_eq rfl rfl rfl rfl rfl
  unfold Machine.takeRule
  split
  · exact h
  · split
    · exact h
    · next x _ _ => exact hdrop.updPort p (fun y => { y with taken := y.taken ++ [x] })

theorem giveBackRule (h : TablesSound q b c s) (p : Port) (n : Word16) : TablesSound q b c (giveBackRule p n s).1 := by
  unfold Machine.giveBackRule
  split
  · exact h
  · split
    · exact (h.updPort p _).of_eq rfl rfl rfl rfl rfl
    · exact h

theorem portClearRule (h : TablesSound q b c s) (p : Port) : TablesSound q b c (portClearRule p s).1 :=
  .ite (((h.updPort p _).untake p).abandonSweep _ _) ((h.updPort p _).untake p)

/-! ## Station settings (R44, R186 to R188) -/

/-- The marks stand apart after a numeric setting is written, and each lies in its range (R186, R188). -/
theorem marks_setNum {t : Settings} (h : (4 ≤ t.high ∧ t.high ≤ 23) ∧ t.low < t.high) (n : NumSetting) (value : Nat) :
    let v := clampNat (n.range t).1 (n.range t).2 value
    let t' := ({ t with low := lowFor t n v } : Settings).setNum n v
    (4 ≤ t'.high ∧ t'.high ≤ 23) ∧ t'.low < t'.high := by
  intro v
  cases n
  case high =>
    have hv : 4 ≤ v ∧ v ≤ 23 := clampNat_mem (lo := 4) (hi := 23) (by decide) value
    refine ⟨hv, ?_⟩
    show lowFor t .high v < v
    unfold lowFor
    dsimp only
    split <;> omega
  case low =>
    refine ⟨h.1, ?_⟩
    show max 0 (min (t.high - 1) value) < t.high
    omega
  all_goals exact h

/-- Hold-off compared with new marks (R44). -/
theorem reholdOff (h : TablesSound q b c s) {x : Settings}
    (hx : q → (4 ≤ x.high ∧ x.high ≤ 23) ∧ x.low < x.high) :
    TablesSound q b c (State.reholdOff { s with settings := x }) := by
  have hrest : (State.reholdOff { s with settings := x }) =
      { s with settings := x, holdOff := if s.holdOff then decide (x.low < s.queue.length) else decide (x.high < s.queue.length) } := by
    unfold State.reholdOff
    dsimp only
    split <;> rfl
  rw [hrest]
  refine ⟨fun a => ?_, h.rides, h.tags⟩
  obtain ⟨hhigh, hlow⟩ := hx a
  obtain ⟨-, -, hlen, -, -⟩ := h.queue a
  refine ⟨hhigh, hlow, hlen, ?_, ?_⟩ <;> dsimp only <;> split <;> simp only [decide_eq_false_iff_not, decide_eq_true_eq] <;> omega

theorem setNumber (h : TablesSound q b c s) (name : Byte) (n : NumSetting) (value : Nat) :
    TablesSound q b c (s.setNumber name n value).1 := by
  have hmarks := fun a : q => marks_setNum (t := s.settings) ⟨(h.queue a).1, (h.queue a).2.1⟩ n value
  unfold State.setNumber
  dsimp only
  split
  · exact h
  · cases n
    case high => exact h.reholdOff hmarks
    case low => exact h.reholdOff hmarks
    case budget =>
      refine .ite (issueGrants ?_) ?_ <;> exact h.same ⟨rfl, rfl, rfl, rfl⟩ rfl (fun _ => rfl)
    all_goals exact h.same ⟨rfl, rfl, rfl, rfl⟩ rfl (fun _ => rfl)

theorem setQuietEnable (h : TablesSound q b c s) (name : Byte) (l : Line) (on : Bool) :
    TablesSound q b c (s.setQuietEnable name l on).1 := by
  have hset : TablesSound q b c { s with settings := s.settings.setQuiet l on } := by
    cases l <;> exact h.same ⟨rfl, rfl, rfl, rfl⟩ rfl (fun _ => rfl)
  unfold State.setQuietEnable
  extract_lets reply s1 s2
  have h2 : TablesSound q b c s2 := .ite (hset.updLine l _) hset
  split
  · exact h
  · exact .ite h2 (h2.quietReturn l)

theorem setLineRate (h : TablesSound q b c s) (name : Byte) (l : Line) (r : Rate) :
    TablesSound q b c (s.setLineRate name l r).1 := by
  have hset : TablesSound q b c { s with settings := s.settings.setRate l r } := by
    cases l <;> exact h.same ⟨rfl, rfl, rfl, rfl⟩ rfl (fun _ => rfl)
  unfold State.setLineRate
  dsimp only
  split
  · exact h
  · exact .ite hset (hset.enterBreak l _)

theorem stationSetRule (h : TablesSound q b c s) (setting line : Byte) (value : Word16) :
    TablesSound q b c (stationSetRule setting line value s).1 := by
  unfold Machine.stationSetRule
  split
  · exact h
  · exact h.setNumber _ _ _
  · split
    · exact h
    · exact h.setQuietEnable _ _ _
  · split
    · exact h
    · split
      · exact h
      · exact h.setLineRate _ _ _

/-! ## The tick -/

/-- One second off its windows changes nothing else of a ride (R2). -/
theorem tick (h : TablesSound q b c s) : TablesSound q b c s.tick := by
  have hdock : ∀ d, (s.tick.dock d).tag = (s.dock d).tag := by
    intro d
    rw [State.tick_dock, State.tickMismatch_dock]
    split <;> rfl
  have hrides : s.tick.rides = s.rides.map Ride.tick := by
    rw [State.tick_rest, State.ticked_rest]
  refine h.change ?_ (fun hs => ?_) (fun _ r hr ho => ?_)
  · rw [State.tick_rest, State.ticked_rest]
    exact ⟨rfl, rfl, rfl, rfl⟩
  · rw [hrides]
    exact hs.map _ (fun _ _ => ⟨rfl, rfl, rfl, id⟩)
  · rw [hrides] at hr
    obtain ⟨x, hx, rfl⟩ := List.mem_map.mp hr
    exact ⟨⟨x, hx, ho, rfl, rfl⟩, hdock _⟩

end TablesSound

/-! ## Commands -/

/-- The next state that a command answers has sound tables. -/
def TablesNext (q b c : Prop) (o : Outcome) : Prop := ∀ t, o = .next t → TablesSound q b c t

namespace TablesNext

variable {q b c : Prop} {s t : State}

theorem next (h : TablesSound q b c s) : TablesNext q b c (.next s) := by
  intro t e
  injection e with e
  exact e ▸ h

theorem event {f : State → State} (h : TablesSound q b c (f s)) : TablesNext q b c (event f s) :=
  next (h.pool (latchStoreLow_pool _ _))

theorem request (h : TablesSound q b c s) {rule : State → State × Reply} (hr : TablesSound q b c (rule s).1) (p : Port)
    (code : Byte) (n : Nat) : TablesNext q b c (request p code n rule s) := by
  unfold Machine.request
  split
  · exact next (h.endTransaction p [])
  · exact event (hr.respond p code n _)

theorem onlyN (h : TablesSound q b c s) {rule : State → State × Reply} (hr : TablesSound q b c (rule s).1) (p : Port)
    (code : Byte) (n : Nat) : TablesNext q b c (Machine.request p code n (onlyN p rule) s) := by
  cases p
  · exact request h hr .n code n
  · exact request h h .k code n

/-- A request whose rule answers without a change of the state. -/
theorem reads (h : TablesSound q b c s) {rule : State → State × Reply} (hr : (rule s).1 = s) (p : Port) (code : Byte)
    (n : Nat) : TablesNext q b c (Machine.request p code n rule s) := request h (hr.symm ▸ h) p code n

theorem powerOnOrPinReset (s : State) (selN selK : Bool) : TablesNext q b c (exec (.powerOnOrPinReset selN selK) s) := by
  rw [exec_reset]
  have hqueue : QueueInv State.reset := by decide
  exact next ⟨fun _ => hqueue, fun _ => RidesSound.nil, fun _ _ r hr => absurd hr List.not_mem_nil⟩

theorem minuteRollover (h : TablesSound q b c s) : TablesNext q b c (execMinuteRollover s) := by
  refine event ?_
  exact .ite h h.tick

theorem emptyTransactionEnd (h : TablesSound q b c s) (p : Port) : TablesNext q b c (execEmptyTransactionEnd p s) := by
  refine event ?_
  exact .ite h (h.endTransaction p [])

theorem collect (h : TablesSound q b c s) (p : Port) (bytes : Nat) : TablesNext q b c (execCollect p bytes s) := by
  have hcollect : ∀ present masks, TablesSound q b c (s.collect p present masks bytes) :=
    fun _ _ => (h.updPort p _).endTransaction p _
  unfold execCollect
  split
  · exact next (h.endTransaction p [])
  · exact event (hcollect _ _)
  · exact event (hcollect _ _)

theorem badFrame (h : TablesSound q b c s) (p : Port) (bytes : List Byte) (tail : List Bool) :
    TablesNext q b c (execBadFrame p bytes tail s) := by
  unfold execBadFrame
  split
  · exact request h h p _ _
  · exact next h

theorem admissionDecision (h : TablesSound q b c s) (hb : b → BindInv s) : TablesNext q b c (execAdmissionDecision s) := by
  refine event ?_
  split
  · exact h
  · exact h.dequeue.decideOn hb _

theorem queueWaitExpiry (h : TablesSound q b c s) (n : RideNo) : TablesNext q b c (execQueueWaitExpiry n s) := by
  refine event ?_
  split
  · exact .ite (h.cancelRide _ _) h
  · exact h

theorem takeUpWindowExpiry (h : TablesSound q b c s) (n : RideNo) : TablesNext q b c (execTakeUpWindowExpiry n s) := by
  refine event ?_
  split
  · next r hr =>
    split
    · next hrel =>
      exact h.relatchRide (State.binds_of_mem (State.findRide_some hr).1 (by rw [hrel.1]; exact RideState.noConfusion))
    · exact h
  · exact h

theorem turnStart (h : TablesSound q b c s) (l : Line) : TablesNext q b c (execTurnStart l s) := by
  refine event ?_
  dsimp only
  split
  · exact .ite (h.startTurn l _) h
  · exact h

theorem statusReply (h : TablesSound q b c s) (l : Line) (r : StatusReply) : TablesNext q b c (execStatusReply l r s) := by
  refine event ?_
  split
  · exact .ite (h.endStatus l _ r) h
  · exact h

theorem busyReply (h : TablesSound q b c s) (l : Line) : TablesNext q b c (execBusyReply l s) := by
  refine event ?_
  split
  · exact .ite (h.endBusy l _) h
  · exact h

theorem badReply (h : TablesSound q b c s) (l : Line) (marked : Byte) (rest : List Byte) :
    TablesNext q b c (execBadReply l marked rest s) := by
  refine event ?_
  split
  · exact .ite (h.endFailed l _ true) h
  · exact h

theorem replyGapTimeout (h : TablesSound q b c s) (l : Line) : TablesNext q b c (execReplyGapTimeout l s) := by
  refine event ?_
  split
  · exact h.endFailed l _ true
  · exact h

theorem replyWindowExpiry (h : TablesSound q b c s) (l : Line) : TablesNext q b c (execReplyWindowExpiry l s) := by
  refine event ?_
  split
  · exact .ite (h.endFailed l _ _) h
  · exact h

theorem errorPeriodBoundary (h : TablesSound q b c s) (l : Line) : TablesNext q b c (execErrorPeriodBoundary l s) := by
  refine event ?_
  split
  · exact .ite (h.updLine l _) h
  · exact h

theorem quietIntervalExpiry (h : TablesSound q b c s) (l : Line) : TablesNext q b c (execQuietIntervalExpiry l s) := by
  refine event ?_
  dsimp only
  split
  · exact .ite (.ite (h.updLine l _) ((h.updLine l _).startRound l)) h
  · exact h

theorem wake (h : TablesSound q b c s) (l : Line) : TablesNext q b c (execWake l s) := by
  refine event ?_
  split
  · exact h.quietReturn l
  · exact .ite (h.endFailed l _ true) h

end TablesNext

/-- Every command keeps the tables sound. Rides and docks that agree before it are asked for by the two commands that
read docks for their rides: an admission and a new map. -/
theorem exec_tablesSound {q b c : Prop} {s : State} (h : TablesSound q b c s) (hb : b → BindInv s) (i : Instr) :
    TablesNext q b c (exec i s) := by
  cases i with
  | powerOnOrPinReset selN selK => exact .powerOnOrPinReset s selN selK
  | secondTick => exact .event h.tick
  | minuteRollover => exact .minuteRollover h
  | clockSet p minute second => exact .onlyN h (rule := clockSetRule minute second) (h.of_eq rfl rfl rfl rfl rfl) p _ _
  | classSet p cls incl unit price cap minBal limit life held =>
    refine .onlyN h ?_ p _ _
    unfold classSetRule
    split
    · exact h
    · exact h.of_eq rfl rfl rfl rfl rfl
  | credLoad p cred state cls secret counter balance overdraft keep =>
    exact .onlyN h (h.credLoadRule cred state cls secret counter balance overdraft keep) p _ _
  | credState p cred state => exact .onlyN h (h.credStateRule cred state) p _ _
  | credBalance p cred mode amount => exact .onlyN h (h.credBalanceRule cred mode amount) p _ _
  | credRemove p cred => exact .onlyN h (h.credRemoveRule cred) p _ _
  | readCred p cred => exact .reads h (by unfold readCredRule; split <;> rfl) p _ _
  | sweepOpen p number => exact .onlyN h (h.sweepOpenRule number) p _ _
  | sweepClose p number => exact .onlyN h (h.sweepCloseRule number) p _ _
  | sweepIdleExpiry => exact .event (.ite (h.abandonSweep _ _) h)
  | stationSet p setting line value => exact .onlyN h (h.stationSetRule setting line value) p _ _
  | kindSet p kind level =>
    refine .onlyN h ?_ p _ _
    unfold kindSetRule
    split
    · exact h
    · exact h.of_eq rfl rfl rfl rfl rfl
  | dockFit p line addrs => exact .request h (h.dockFitRule hb p line addrs) p _ _
  | rideClose p tag endMinute => exact .onlyN h (h.rideCloseRule tag endMinute) p _ _
  | lineRestart p line => exact .onlyN h (h.lineRestartRule line) p _ _
  | tokenPresent p token preferred =>
    cases p
    · exact .request h h .n _ _
    · exact .request h (h.tokenPresentRule token preferred) .k _ _
  | dockHold p dock => exact .request h (h.dockHoldRule p dock) p _ _
  | dockFree p dock => exact .request h (h.dockFreeRule dock) p _ _
  | readDock p dock => exact .reads h (by unfold readDockRule; split <;> rfl) p _ _
  | rideCancel p ride => exact .request h (h.rideCancelRule ride) p _ _
  | readRide p selector value => exact .reads h (by unfold readRideRule; split <;> [rfl; (split <;> rfl)]) p _ _
  | take p => exact .request h (h.takeRule p) p _ _
  | giveBack p slot => exact .request h (h.giveBackRule p slot) p _ _
  | readStation p => exact .reads h (rule := readStationRule p) rfl p _ _
  | maskSet p events =>
    refine .request h ?_ p _ _
    unfold maskSetRule
    split
    · exact h.updPort p (fun x => { x with masks := x.masks ||| events })
    · exact h
  | maskClear p events =>
    refine .request h ?_ p _ _
    unfold maskClearRule
    split
    · exact h.updPort p (fun x => { x with masks := x.masks &&& ~~~events })
    · exact h
  | eventClear p events =>
    refine .request h ?_ p _ _
    unfold eventClearRule
    split
    · exact h.updPort p (fun x => { x with latched := x.latched &&& ~~~events })
    · exact h
  | portClear p => exact .request h (h.portClearRule p) p _ _
  | collect p bytes => exact .collect h p bytes
  | badFrame p bytes tail => exact .badFrame h p bytes tail
  | admissionDecision => exact .admissionDecision h hb
  | queueWaitExpiry ride => exact .queueWaitExpiry h ride
  | takeUpWindowExpiry ride => exact .takeUpWindowExpiry h ride
  | turnStart l => exact .turnStart h l
  | commandDelivered l => exact .event (.ite (h.updLine l _) h)
  | statusReply l r => exact .statusReply h l r
  | busyReply l => exact .busyReply h l
  | badReply l marked rest => exact .badReply h l marked rest
  | replyGapTimeout l => exact .replyGapTimeout h l
  | replyWindowExpiry l => exact .replyWindowExpiry h l
  | errorPeriodBoundary l => exact .errorPeriodBoundary h l
  | breakTimeEnd l => exact .event (.ite (h.updLine l _) h)
  | recoveryEnd l => exact .event (.ite (h.recover l) h)
  | quietEntry l => exact .event (.ite ((h.updLine l _).latch _ _) h)
  | quietIntervalExpiry l => exact .quietIntervalExpiry h l
  | wake l => exact .wake h l
  | replyStart l marked => exact .event (.ite (h.updLine l _) h)
  | transactionStart p => exact .event (.ite (h.updPort p _) h)
  | emptyTransactionEnd p => exact .emptyTransactionEnd h p

/-- A step is a command on the rest of the queue of commands, or idles. -/
theorem step_tablesSound {q b c : Prop} {s t : State} (h : TablesSound q b c s) (hb : b → BindInv s)
    (hstep : step s = .next t) : TablesSound q b c t := by
  unfold step at hstep
  split at hstep
  · exact TablesNext.next h t hstep
  · next rest _ =>
    exact exec_tablesSound (h.of_eq (t := { s with pending := rest }) rfl rfl rfl rfl rfl) hb _ t hstep

end Sys2Proof.Machine

namespace Sys2Proof.Proofs

open Sys2Proof.Machine

/-- Settles O52: of the sound tables the queue alone is asked for. -/
theorem queueKept : Obligations.QueueKept := by
  intro s t hqueue hstep
  have h : TablesSound True False False s := ⟨fun _ => hqueue, False.elim, False.elim⟩
  exact (step_tablesSound h False.elim hstep).queue trivial

/-- Settles O55: only an admission adds a ride, and a dock's tag is written only where no ride binds the dock. -/
theorem rideTableKept : Obligations.RideTableKept := by
  intro s t hrelease htag hbound hstep
  have h : TablesSound False True (DockTagInv s) s :=
    ⟨False.elim, fun _ => ridesSound_of_inv hrelease.1 htag hbound, fun _ k => k⟩
  obtain ⟨-, hrides, htags⟩ := step_tablesSound h (fun _ => hrelease.1) hstep
  obtain ⟨-, hapart, htagged, hbound'⟩ := hrides trivial
  exact ⟨⟨hapart.imp And.left, htagged⟩, hbound', htags trivial⟩

end Sys2Proof.Proofs
end

section
/-! PROOFS. STATION SET of a numeric setting: what is stored, and what a mark or a raised budget causes (R44, R113, R187,
R188). -/

namespace Sys2Proof.Machine

/-! ## What is stored (R187, R188) -/

theorem clampNat_eq (lo hi x : Nat) : clampNat lo hi x = max lo (min hi x) := by
  unfold clampNat
  omega

theorem lowFor_eq (x : Settings) (n : NumSetting) (v : Nat) :
    lowFor x n v = if n = .high ∧ v ≤ x.low then v - 1 else x.low := by
  cases n <;> simp [lowFor]

theorem Settings.getNum_setNum (x : Settings) (n : NumSetting) (v : Nat) : (x.setNum n v).getNum n = v := by
  cases n <;> rfl

/-- A numeric setting with the low mark that goes with it (R188). -/
def Settings.store (x : Settings) (n : NumSetting) (v : Nat) : Settings := ({ x with low := lowFor x n v }).setNum n v

/-- The value held already is stored again without a change. -/
theorem SettingsInRange.store_getNum {x : Settings} (h : SettingsInRange x) (n : NumSetting) :
    x.store n (x.getNum n) = x := by
  have hlow : x.low < x.high := h.2.2.2.2.2.2.1
  cases n with
  | high => simp [Settings.store, lowFor, Settings.setNum, Settings.getNum, Nat.not_le.mpr hlow]
  | _ => rfl

/-- Hold-off once a numeric setting is stored: compared with the marks where one of them has changed (R44). -/
def State.heldOff (s : State) (n : NumSetting) (v : Nat) : Bool :=
  if (n = .high ∨ n = .low) ∧ v ≠ s.settings.getNum n then
    if s.holdOff then decide ((s.settings.store n v).low < s.queue.length)
    else decide ((s.settings.store n v).high < s.queue.length)
  else s.holdOff

/-- The station with a numeric setting stored, before grants. -/
def State.storeNum (s : State) (n : NumSetting) (v : Nat) : State :=
  { s with settings := s.settings.store n v, holdOff := s.heldOff n v }

theorem State.heldOff_getNum (s : State) (n : NumSetting) : s.heldOff n (s.settings.getNum n) = s.holdOff :=
  if_neg (fun h => h.2 rfl)

theorem State.storeNum_getNum {s : State} (h : SettingsInRange s.settings) (n : NumSetting) :
    s.storeNum n (s.settings.getNum n) = s := by
  unfold State.storeNum
  rw [h.store_getNum, s.heldOff_getNum]

/-- A changed value is stored; a raised budget runs the grant procedure besides (R44, R113, R189). -/
theorem State.afterNum_eq (s : State) (n : NumSetting) {v : Nat} (h : v ≠ s.settings.getNum n) :
    ({ s with settings := s.settings.store n v } : State).afterNum n (s.settings.getNum n) v =
      if n = .budget ∧ s.settings.budget < v then (s.storeNum n v).issueGrants else s.storeNum n v := by
  have hmark : n = .high ∨ n = .low → s.storeNum n v = ({ s with settings := s.settings.store n v } : State).reholdOff := by
    intro hn
    unfold State.reholdOff State.storeNum State.heldOff
    rw [if_pos ⟨hn, h⟩]
    cases s.holdOff <;> rfl
  have hother : n ≠ .high → n ≠ .low → s.storeNum n v = { s with settings := s.settings.store n v } := by
    intro hhigh hlow
    unfold State.storeNum State.heldOff
    rw [if_neg (fun a => a.1.elim hhigh hlow)]
  cases n with
  | high => exact (hmark (.inl rfl)).symm
  | low => exact (hmark (.inr rfl)).symm
  | budget =>
    rw [hother NumSetting.noConfusion NumSetting.noConfusion]
    simp only [true_and]
    rfl
  | _ => exact (hother NumSetting.noConfusion NumSetting.noConfusion).symm

/-- The state that STATION SET of a numeric setting leaves. -/
theorem State.setNumber_state {s : State} (h : SettingsInRange s.settings) (b : Byte) (n : NumSetting) (x : Nat) :
    (s.setNumber b n x).1 =
      if n = .budget ∧ s.settings.budget < clampNat (n.range s.settings).1 (n.range s.settings).2 x then
        (s.storeNum n (clampNat (n.range s.settings).1 (n.range s.settings).2 x)).issueGrants
      else s.storeNum n (clampNat (n.range s.settings).1 (n.range s.settings).2 x) := by
  unfold State.setNumber
  dsimp only
  generalize clampNat (n.range s.settings).1 (n.range s.settings).2 x = v
  by_cases hv : v = s.settings.getNum n
  · have hsame : ¬(n = .budget ∧ s.settings.budget < v) := by
      rintro ⟨rfl, hlt⟩
      exact Nat.lt_irrefl _ (hv ▸ hlt)
    rw [if_pos hv, if_neg hsame, hv, State.storeNum_getNum h]
  · rw [if_neg hv]
    exact s.afterNum_eq n hv

theorem State.setNumber_reply (s : State) (b : Byte) (n : NumSetting) (x : Nat) :
    (s.setNumber b n x).2 =
      let v := clampNat (n.range s.settings).1 (n.range s.settings).2 x
      ⟨if v = x ∧ lowFor s.settings n v = s.settings.low then .ok else .clamped,
        .setting b none v (if lowFor s.settings n v = s.settings.low then none else some (lowFor s.settings n v))⟩ := by
  unfold State.setNumber
  dsimp only
  generalize clampNat (n.range s.settings).1 (n.range s.settings).2 x = v
  generalize lowFor s.settings n v = low
  have hstatus : okOr (decide (v ≠ x ∨ low ≠ s.settings.low)) =
      if v = x ∧ low = s.settings.low then Status.ok else .clamped := by
    by_cases hv : v = x <;> by_cases hl : low = s.settings.low <;> simp [okOr, hv, hl]
  have hfield : (if low ≠ s.settings.low then some low else none) =
      if low = s.settings.low then none else some low := ite_not _ _ _
  rw [hstatus, hfield]
  split <;> rfl

/-! ## What a raised budget causes (R105, R108, R113) -/

/-- With no dock gone the new grants are those of the procedure. -/
theorem newGrants_nil (s : State) : newGrants s [] = s.granting := by
  have hgrants : s.grants.filter (fun d => decide (d ∉ ([] : List DockIx))) = s.grants := by simp
  have hqueue : s.releaseQ.filter (fun e => decide (e.dock ∉ ([] : List DockIx) ∧ e.granted = false)) =
      s.releaseQ.filter (fun e => !e.granted) := by simp
  unfold newGrants
  rw [hgrants, hqueue]
  rfl

/-- The procedure moves grants to the oldest waiting entries and takes no dock out. -/
theorem State.issueGrants_moved (s : State) : QueueMoved s s.issueGrants [] ∧ DocksMoved s s.issueGrants [] [] := by
  have hgranted := s.issueGrants_granted
  unfold QueueMoved DocksMoved
  rw [newGrants_nil]
  refine ⟨⟨?_, ?_⟩, fun d _ => hgranted.docks d⟩
  · rw [hgranted.queue]
    simp
  · rw [hgranted.grants]
    simp

/-! ## What STATION SET of a numeric setting leaves alone -/

/-- Everything but settings, hold-off, grants and what grants cause. -/
structure StoreFrame (s t : State) : Prop where
  queue    : t.queue = s.queue
  rides    : t.rides = s.rides
  creds    : t.creds = s.creds
  classes  : t.classes = s.classes
  clock    : t.minute = s.minute ∧ t.second = s.second ∧ t.clockSet = s.clockSet
  sweep    : t.sweep = s.sweep
  nextRide : t.nextRide = s.nextRide
  levels   : t.levels = s.levels
  pool     : SamePool s t
  ports    : PortsKept s t

theorem State.storeNum_frame (s : State) (n : NumSetting) (v : Nat) : StoreFrame s (s.storeNum n v) :=
  ⟨rfl, rfl, rfl, rfl, ⟨rfl, rfl, rfl⟩, rfl, rfl, rfl, ⟨rfl, rfl, rfl⟩, PortsKept.refl s⟩

theorem StoreFrame.line {s t u : State} (h : StoreFrame s t) (k : LineFrame t u) : StoreFrame s u := by
  obtain ⟨⟨hmin, hsec, hclock, hclass, hsweep, hnext, hlevels, -, -⟩, hqueue, -⟩ := k.station
  obtain ⟨hfree, hn, hk⟩ := k.pool
  obtain ⟨hfree', hn', hk'⟩ := h.pool
  obtain ⟨hmin', hsec', hclock'⟩ := h.clock
  exact ⟨hqueue.trans h.queue, k.rides.trans h.rides, k.creds.trans h.creds, hclass.trans h.classes,
    ⟨hmin.trans hmin', hsec.trans hsec', hclock.trans hclock'⟩, hsweep.trans h.sweep, hnext.trans h.nextRide,
    hlevels.trans h.levels, ⟨hfree.trans hfree', hn.trans hn', hk.trans hk'⟩, PortsKept.trans h.ports k.ports⟩

/-- An answer after a storing. -/
theorem StoreFrame.answered {s t : State} (h : StoreFrame s t) (p : Port) (c : Byte) (k : Nat) (st : Status)
    (f : Fields) : Answers s (t.answered p c k st f) p ⟨c, st, f⟩ k := answers_answered h.ports c k st f

/-- An answer that latches no event leaves the lines to their pending commands. -/
theorem LineTrace.answer {s t : State} (h : LineTrace s t) (p : Port) (c : Byte) (k : Nat) (st : Status) (f : Fields) :
    LineTrace s (t.answered p c k st f) := by
  have hanswered := h.answered 0 p c k st f
  rwa [latchStoreLow_of_le (Nat.zero_le _)] at hanswered

end Sys2Proof.Machine

namespace Sys2Proof.Proofs

open Sys2Proof.Machine

/-- Settles O43: the rule stores the clamped value and runs the grant procedure exactly where the budget is raised. -/
theorem stationSetStores : Obligations.StationSetStores := by
  unfold Obligations.StationSetStores
  intro s b line n value hs hrange hn
  dsimp only
  rw [← clampNat_eq, ← lowFor_eq]
  have hinrange := hrange.setNum n value.toNat
  have hstate := State.setNumber_state hrange b n value.toNat
  have hreply := s.setNumber_reply b n value.toNat
  dsimp only at hreply
  generalize clampNat (n.range s.settings).1 (n.range s.settings).2 value.toNat = v at hinrange hstate hreply ⊢
  generalize ht : (s.setNumber b n value.toNat).1 = t at hstate
  have hframe : StoreFrame s t := by
    rw [hstate]
    split
    · exact (s.storeNum_frame n v).line (State.issueGrants_frame _)
    · exact s.storeNum_frame n v
  have hsettings : t.settings = s.settings.store n v := by
    rw [hstate]
    split
    · exact (State.issueGrants_frame _).station.1.2.2.2.2.2.2.2.1
    · rfl
  have hhold : t.holdOff = s.heldOff n v := by
    rw [hstate]
    split
    · exact (State.issueGrants_frame _).station.2.2
    · rfl
  have hrule : onlyN .n (stationSetRule b line value) s = (t, (s.setNumber b n value.toNat).2) := by
    rw [onlyN_n, stationSetRule, hn, ← ht]
  rw [hreply] at hrule
  obtain ⟨hmin, hsec, hclock⟩ := hframe.clock
  refine ⟨_, request_next hs _ _ hrule (by rw [hframe.pool.1]), hframe.answered .n _ _ _ _, hsettings, ?_, ?_, ?_, ?_,
    ?_, ?_, hframe.queue, hframe.rides, hframe.creds, hframe.classes, hmin, hsec, hclock, hframe.sweep,
    hframe.nextRide, hframe.levels, hframe.pool⟩
  · exact hsettings ▸ hinrange
  · show t.settings.getNum n = v
    rw [hsettings]
    exact Settings.getNum_setNum _ n v
  · intro hmark
    refine hhold.trans ?_
    unfold State.heldOff
    by_cases hv : v = s.settings.getNum n
    · rw [if_pos hv, if_neg (fun a => a.2 hv)]
    · rw [if_neg hv, if_pos ⟨hmark, hv⟩]
      rfl
  · intro hhigh hlow
    exact hhold.trans (if_neg (fun a => a.1.elim hhigh hlow))
  · intro hbudget hraised
    rw [if_pos ⟨hbudget, hraised⟩] at hstate
    refine ⟨?_, fun _ => ?_⟩
    · rw [hstate]
      exact State.issueGrants_issued _
    · have hstored : s.storeNum n v = { s with settings := t.settings } := by
        rw [hsettings, hbudget]
        rfl
      rw [hstored] at hstate
      obtain ⟨hqueue, hdocks⟩ := State.issueGrants_moved { s with settings := t.settings }
      rw [← hstate] at hqueue hdocks
      refine ⟨hqueue, hdocks, ?_⟩
      have htrace : LineTrace s t := hstate ▸ (State.issueGrants_trace _).of_before (fun l => by cases l <;> rfl)
        (fun _ => rfl) rfl
      exact (htrace.answer .n _ _ _ _).linesFollow
  · intro hkept
    rw [if_neg (fun a => hkept.elim (fun k => k a.1) (fun k => Nat.not_lt.mpr k a.2))] at hstate
    rw [hstate]
    exact ⟨rfl, rfl, rfl, rfl, rfl⟩

end Sys2Proof.Proofs
end

section
/-! PROOFS. Presentations: TOKEN PRESENT at Port K, and the token of a good STATUS reply (R43, R45, R46, R126, R135). -/

namespace Sys2Proof.Machine

/-! ## The preferred dock of TOKEN PRESENT (R46) -/

theorem preferredOfCode_dock (d : DockIx) : preferredOfCode (BitVec.ofNat 8 d.val) = some (some d) := by
  have hd := d.isLt
  have hne : BitVec.ofNat 8 d.val ≠ 0xFF#8 := by
    intro h
    have hval := congrArg BitVec.toNat h
    simp at hval
    omega
  rw [preferredOfCode, if_neg hne, dockOfCode_ofNat]
  rfl

theorem preferredOfCode_outside {b : Byte} (hlow : 60 ≤ b.toNat) (hhigh : b.toNat ≤ 254) : preferredOfCode b = none := by
  have hne : b ≠ 0xFF#8 := by
    rintro rfl
    simp at hhigh
  rw [preferredOfCode, if_neg hne, dockOfCode_of_le hlow]
  rfl

theorem preferredOfCode_isSome {b : Byte} (h : b.toNat < 60 ∨ b = 0xFF#8) : ∃ p, preferredOfCode b = some p := by
  by_cases hff : b = 0xFF#8
  · exact ⟨none, if_pos hff⟩
  · have hb : b.toNat < 60 := h.resolve_right hff
    refine ⟨some ⟨b.toNat, hb⟩, ?_⟩
    rw [preferredOfCode, if_neg hff, dockOfCode, dif_pos hb]
    rfl

/-- With hold-off not in force a presentation from the kiosk joins the tail (R43, R46). -/
theorem tokenPresentRule_accepts {s : State} (t : Token) (hopen : s.holdOff = false) {b : Byte} {p : Option DockIx}
    (hp : preferredOfCode b = some p) :
    tokenPresentRule t b s = ({ s with
      queue := s.queue ++ [⟨.kiosk p, t⟩], holdOff := decide (s.settings.high < s.queue.length + 1) }, ⟨.ok, .none⟩) := by
  rw [tokenPresentRule, hp]
  dsimp only
  rw [hopen, if_neg Bool.false_ne_true, State.enqueue, hopen]
  simp

/-! ## What the handling of a reply leaves of acknowledgements and line states -/

/-- Every acknowledgement stands; a line stands in its state or has returned from QUIET to RUNNING. -/
structure ReplyFrame (s t : State) : Prop where
  acks : ∀ d : DockIx, (t.dock d).ack = (s.dock d).ack
  on   : ∀ l : Line, (t.line l).state = (s.line l).state ∨ ((s.line l).state = .quiet ∧ (t.line l).state = .running)

namespace ReplyFrame

variable {s t u : State}

theorem refl (s : State) : ReplyFrame s s := ⟨fun _ => rfl, fun _ => .inl rfl⟩

theorem trans (h : ReplyFrame s t) (k : ReplyFrame t u) : ReplyFrame s u := by
  refine ⟨fun d => (k.acks d).trans (h.acks d), fun l => ?_⟩
  rcases h.on l with e | ⟨hq, hr⟩
  · rw [← e]
    exact k.on l
  · rcases k.on l with e | ⟨hq', -⟩
    · exact .inr ⟨hq, e.trans hr⟩
    · rw [hr] at hq'
      cases hq'

/-- A line that was RUNNING or QUIET still is. -/
theorem runs (h : ReplyFrame s t) {l : Line} (hl : (s.line l).state = .running ∨ (s.line l).state = .quiet) :
    (t.line l).state = .running ∨ (t.line l).state = .quiet := by
  rcases h.on l with e | ⟨-, hr⟩
  · rwa [e]
  · exact .inl hr

theorem of_eq (hd : t.docks = s.docks := by rfl) (ha : t.lineA = s.lineA := by rfl)
    (hb : t.lineB = s.lineB := by rfl) : ReplyFrame s t :=
  ⟨fun d => by unfold State.dock; rw [hd], fun l => .inl (by rw [State.line_of_eq ha hb])⟩

theorem pool (h : PoolFrame s t) : ReplyFrame s t := of_eq h.docks h.lineA h.lineB

theorem line (h : LineFrame s t) : ReplyFrame s t := ⟨fun d => by rw [h.dock d], h.on⟩

theorem updDock (s : State) (d : DockIx) {f : Dock → Dock} (hf : ∀ x, (f x).ack = x.ack := by intro; rfl) :
    ReplyFrame s (s.updDock d f) := by
  refine ⟨fun j => ?_, fun l => .inl (by rw [State.updDock_line])⟩
  rw [State.dock_updDock]
  split
  · next e => rw [hf, e]
  · rfl

theorem endRideOf (s : State) (c : CredNo) : ReplyFrame s (s.endRideOf c) :=
  of_eq (s.endRideOf_docks c) (s.endRideOf_lines c).1 (s.endRideOf_lines c).2

theorem relatchDock (s : State) (d : DockIx) : ReplyFrame s (s.relatchDock d) :=
  (updDock s d).trans (line (State.setPending_frame _ _ _))

theorem cancelRide (s : State) (r : Ride) (o : RideOutcome) : ReplyFrame s (s.cancelRide r o) := by
  unfold State.cancelRide
  extract_lets s1 s2 s3
  have h1 : ReplyFrame s s1 := (pool (s.freeSlot_pool r.slot)).trans (endRideOf _ _)
  have h3 : ReplyFrame s s3 := (h1.trans (pool (s1.postK_pool _))).trans of_eq
  exact (h3.trans (updDock _ _)).trans (line (State.returnGrant_frame _ _))

theorem takeUp (s : State) (r : Ride) (late : Bool) : ReplyFrame s (s.takeUp r late) := by
  unfold State.takeUp
  extract_lets s1 s2
  have h1 : ReplyFrame s s1 := of_eq
  have h2 : ReplyFrame s s2 := (h1.trans (updDock s1 r.dock)).trans (line (State.returnGrant_frame _ _))
  exact (h2.trans (pool (s2.postK_pool _))).trans (pool (State.notice_pool _ _ _))

theorem acknowledge (s : State) (r : Ride) : ReplyFrame s (s.acknowledge r) := by
  unfold State.acknowledge
  extract_lets s1
  have h1 : ReplyFrame s s1 := of_eq
  have h2 := h1.trans (updDock s1 r.dock (f := fun x => { x with state := .releasing, pending := .none }))
  exact h2.trans of_eq

theorem closeRide (s : State) (r : Ride) (k : TripKind) (d : Option DockIx) (m : Minute) (q : Bool) :
    ReplyFrame s (s.closeRide r k d m q) := by
  unfold State.closeRide
  extract_lets f s1
  have hdebit : ReplyFrame s (s.updCred r.cred (fun e => e.debited f)) := of_eq
  have h1 : ReplyFrame s s1 := hdebit.trans (endRideOf _ _)
  exact (h1.trans (pool (s1.postN_pool r.slot k.kind (.trip k (tripOf r d m f q))))).trans of_eq

theorem finishRide (s : State) (r : Ride) (k : TripKind) (d : Option DockIx) (m : Minute) :
    ReplyFrame s (s.finishRide r k d m) := by
  unfold State.finishRide
  split
  · exact closeRide s r k d m false
  · unfold State.closeEarly
    extract_lets r' s1 s2
    have h2 : ReplyFrame s s2 := (closeRide s r' k d m true).trans (pool (s1.postK_pool _))
    exact (h2.trans (line (s2.returnGrant_frame r.dock))).trans (relatchDock _ _)

theorem returnBike (s : State) (d : DockIx) (g : BikeTag) : ReplyFrame s (s.returnBike d g) := by
  unfold State.returnBike
  split
  · exact pool (s.foreignReturn_pool d g)
  · split
    · exact pool (s.foreignReturn_pool d g)
    · split
      · exact pool (s.foreignReturn_pool d g)
      · exact finishRide _ _ _ _ _

theorem jamDock (s : State) (d : DockIx) (c : JamCause) (n : Option RideNo) : ReplyFrame s (s.jamDock d c n) := by
  unfold State.jamDock
  split
  · exact refl s
  · exact (updDock s d).trans (pool (State.notice_pool _ _ _))

theorem bikeGone (s : State) (d : DockIx) (n : Option RideNo) : ReplyFrame s (s.bikeGone d n) :=
  (updDock s d).trans (pool (State.notice_pool _ _ _))

theorem retag (s : State) (d : DockIx) (g : BikeTag) : ReplyFrame s (s.retag d g) := by
  unfold State.retag
  extract_lets old s1
  have h1 : ReplyFrame s s1 := updDock s d
  split
  · exact refl s
  · split
    · exact h1.trans (returnBike s1 d g)
    · exact h1

theorem relatchAttempt (s : State) (d : DockIx) (c : Bool) (n : Option RideNo) :
    ReplyFrame s (s.relatchAttempt d c n) := by
  unfold State.relatchAttempt
  split
  · split
    · exact jamDock s d _ n
    · exact updDock s d
  · exact refl s

theorem rideReply (s : State) (d : DockIx) (x : Ride) (r : StatusReply) (c : Bool) :
    ReplyFrame s (s.rideReply d x r c) := by
  unfold State.rideReply
  split
  · split
    · split
      · exact acknowledge s x
      · exact (acknowledge s x).trans (takeUp _ _ _)
    · exact refl s
  · split
    · exact refl s
    · exact takeUp s x _
  · split
    · exact relatchAttempt s d c _
    · exact takeUp s x _
  · exact refl s

theorem afterCancel (s : State) (d : DockIx) (x : Ride) (r : StatusReply) : ReplyFrame s (s.afterCancel d x r) := by
  unfold State.afterCancel
  split
  · exact jamDock s d _ _
  · split
    · split
      · exact retag s d _
      · exact jamDock s d _ _
    · exact bikeGone s d _

theorem clearFault (s : State) (d : DockIx) (r : StatusReply) : ReplyFrame s (s.clearFault d r) := by
  unfold State.clearFault
  split
  · exact (updDock s d).trans (retag _ d _)
  · split
    · exact updDock s d
    · exact bikeGone s d _

theorem plainReply (s : State) (d : DockIx) (r : StatusReply) (c : Bool) : ReplyFrame s (s.plainReply d r c) := by
  have hdocked : ReplyFrame s (s.dockBike d r.tag) := updDock s d
  unfold State.plainReply
  split
  · split
    · exact updDock s d
    · split
      · exact hdocked
      · exact hdocked.trans (relatchDock _ d)
  · split
    · exact hdocked.trans (returnBike _ d _)
    · exact refl s
  · split
    · exact bikeGone s d _
    · split
      · exact retag s d _
      · exact relatchDock s d
  · split
    · exact updDock s d
    · split
      · exact (updDock s d).trans (retag _ d _)
      · exact relatchAttempt s d c _
  · split
    · exact refl s
    · exact clearFault s d r
  all_goals exact refl s

theorem dockReply (s : State) (d : DockIx) (r : StatusReply) (c : Bool) : ReplyFrame s (s.dockReply d r c) := by
  unfold State.dockReply
  split
  · exact jamDock s d _ _
  · split
    · exact (updDock s d).trans (pool (State.notice_pool _ _ _))
    · exact plainReply s d r c

/-- Beyond the offer of the token, the handling of a good STATUS reply acknowledges nothing. -/
theorem handleStatus (s : State) (d : DockIx) (r : StatusReply) (c : Bool) :
    ReplyFrame ((s.updDock d (fun x => { x with link := .online })).offerToken d r) (s.handleStatus d r c) := by
  unfold State.handleStatus
  extract_lets before s1 s2
  have h2 : ReplyFrame s1 s2 := updDock s1 d
  refine h2.trans ?_
  split
  · split
    · exact ((cancelRide s2 _ _).trans (pool (State.linkNotices_pool _ _ _ _))).trans (afterCancel _ _ _ _)
    · exact (pool (s2.linkNotices_pool d before r)).trans (rideReply _ _ _ _ _)
  · exact (pool (s2.linkNotices_pool d before r)).trans (dockReply _ _ _ _)

theorem openAfterShow (s : State) (d : DockIx) : ReplyFrame s (s.openAfterShow d) := by
  unfold State.openAfterShow
  split
  · exact line (s.setPending_frame d _)
  · exact refl s

theorem quietActivity (s : State) (l : Line) : ReplyFrame s (s.quietActivity l) := by
  refine ReplyFrame.trans (t := s.updLine l (fun c => { c with quietTimer := 0, quietDue := false }))
    ⟨fun d => by rw [State.updLine_dock], fun m => .inl ?_⟩ (line (State.quietReturn_frame _ l))
  rw [State.line_updLine]
  split
  · next e => rw [e]
  · rfl

end ReplyFrame

/-! ## The offer of a token (R45, R126) -/

/-- A new token is taken unless hold-off is in force: it joins the tail, and its sequence is acknowledged. -/
theorem State.offerToken_new {s : State} {d : DockIx} {r : StatusReply} {k : TokenRead} (hk : r.token = some k)
    (hnew : k.seq ≠ (s.dock d).ack) (hopen : s.holdOff = false) :
    (s.offerToken d r).queue = s.queue ++ [⟨.dock d k.seq, k.token⟩] ∧
    (s.offerToken d r).holdOff = decide (s.settings.high < s.queue.length + 1) ∧
    ((s.offerToken d r).dock d).ack = k.seq := by
  have hoffer : s.offerToken d r = (s.enqueue ⟨.dock d k.seq, k.token⟩).updDock d (fun x => { x with ack := k.seq }) := by
    unfold State.offerToken State.offer
    rw [hk]
    dsimp only
    rw [if_neg hnew, if_neg (by simp [hopen])]
  rw [hoffer]
  exact ⟨rfl, by simp [State.enqueue, hopen], by simp⟩

/-- Under hold-off, without a token, or with the one acknowledged last, nothing is offered. -/
theorem State.offerToken_idle {s : State} {d : DockIx} {r : StatusReply}
    (h : s.holdOff = true ∨ r.token = none ∨ ∃ k : TokenRead, r.token = some k ∧ k.seq = (s.dock d).ack) :
    s.offerToken d r = s := by
  unfold State.offerToken
  rcases h with hhold | hnone | ⟨k, hk, hseq⟩
  · have hoffer : ∀ k, s.offer d k = s := fun k => if_pos hhold
    cases r.token with
    | none => rfl
    | some k =>
      dsimp only
      rw [hoffer, ite_self]
  · rw [hnone]
  · rw [hk]
    dsimp only
    rw [if_pos hseq]

/-- The offer leaves the lines alone. -/
theorem State.offerToken_line (s : State) (d : DockIx) (r : StatusReply) (l : Line) : (s.offerToken d r).line l = s.line l := by
  unfold State.offerToken State.offer State.enqueue
  cases l <;> split <;> repeat' split
  all_goals rfl

/-! ## The end of a turn with a good STATUS reply (R122, R135) -/

/-- The state in which a good STATUS reply meets the dock table: the turn is over, the counts of R122 are written. -/
def State.turnOver (s : State) (l : Line) (x : Turn) : State :=
  ((settleOpen s (dockIx l x.addr) true).endTurn l).clearCounts (dockIx l x.addr) x

theorem State.turnOver_ride (s : State) (l : Line) (x : Turn) : RideFrame s (s.turnOver l x) :=
  ((settleOpen_ride s _ true).trans (State.endTurn_ride _ l)).trans (State.clearCounts_ride _ _ x)

theorem State.turnOver_ack (s : State) (l : Line) (x : Turn) (d : DockIx) :
    ((s.turnOver l x).dock d).ack = (s.dock d).ack := by
  have hturn := (settleOpen_own s (dockIx l x.addr) true l).trans (State.endTurn_own _ l)
  have hclear : ReplyFrame ((settleOpen s (dockIx l x.addr) true).endTurn l) (s.turnOver l x) := by
    unfold State.turnOver State.clearCounts
    exact ReplyFrame.updDock _ _
  rw [hclear.acks, hturn.dock]

theorem State.turnOver_state {s : State} {l : Line} {x : Turn} (h : (s.line l).turn = some x) :
    ((s.turnOver l x).line l).state = (s.line l).state := by
  have hturn : ((settleOpen s (dockIx l x.addr) true).line l).turn = some x := by rw [settleOpen_line, h]
  have hend := (State.endTurn_line hturn).2.1
  rw [settleOpen_line] at hend
  refine Eq.trans ?_ hend
  unfold State.turnOver State.clearCounts
  rw [State.updDock_line]

theorem State.openAfterShow_ride (s : State) (d : DockIx) : RideFrame s (s.openAfterShow d) := by
  unfold State.openAfterShow
  split
  · exact (s.setPending_frame d _).ride
  · exact RideFrame.refl s

theorem State.quietActivity_ride (s : State) (l : Line) : RideFrame s (s.quietActivity l) :=
  (s.updLine_ride l _).trans (State.quietReturn_frame _ l).ride

/-- Quiet activity leaves the line RUNNING with quiet timer 0 (R135, R137). -/
theorem State.quietActivity_line {s : State} {l : Line} (h : (s.line l).state = .running ∨ (s.line l).state = .quiet) :
    ((s.quietActivity l).line l).state = .running ∧ ((s.quietActivity l).line l).quietTimer = 0 := by
  have hs1 : (s.updLine l (fun c => { c with quietTimer := 0, quietDue := false })).line l =
      { s.line l with quietTimer := 0, quietDue := false } := by
    rw [State.line_updLine, if_pos rfl]
  unfold State.quietActivity State.quietReturn
  generalize s.updLine l (fun c => { c with quietTimer := 0, quietDue := false }) = s1 at hs1
  split
  · have hleft := s1.leaveQuiet_line l
    have hrun : ((s1.leaveQuiet l).line l).state ≠ .quiet := by
      rw [hleft]
      exact LineState.noConfusion
    rw [(State.issueGrants_frame _).same l hrun, hleft]
    exact ⟨rfl, rfl⟩
  · next hquiet =>
    rw [hs1] at hquiet ⊢
    exact ⟨h.resolve_right hquiet, rfl⟩

/-- The state in which the token of a good STATUS reply is offered: the link is ONLINE besides. -/
def State.beforeOffer (s : State) (l : Line) (x : Turn) : State :=
  (s.turnOver l x).updDock (dockIx l x.addr) (fun y => { y with link := .online })

theorem State.beforeOffer_ride (s : State) (l : Line) (x : Turn) : RideFrame s (s.beforeOffer l x) :=
  (s.turnOver_ride l x).trans (State.updDock_ride _ _ _)

theorem State.beforeOffer_ack (s : State) (l : Line) (x : Turn) (d : DockIx) :
    ((s.beforeOffer l x).dock d).ack = (s.dock d).ack := by
  have hlink : ReplyFrame (s.turnOver l x) (s.beforeOffer l x) := ReplyFrame.updDock _ _
  rw [hlink.acks, s.turnOver_ack]

theorem State.beforeOffer_state {s : State} {l : Line} {x : Turn} (h : (s.line l).turn = some x) :
    ((s.beforeOffer l x).line l).state = (s.line l).state := by
  rw [State.beforeOffer, State.updDock_line, State.turnOver_state h]

/-- A good STATUS reply, once the token has been offered: the queue stands, and so do the acknowledgements; where the
token was new the line is RUNNING with quiet timer 0. -/
theorem State.endStatus_offered {s : State} {l : Line} {x : Turn} (hon : (s.line l).state = .running ∨ (s.line l).state = .quiet)
    (hturn : (s.line l).turn = some x) (rep : StatusReply) :
    RideFrame ((s.beforeOffer l x).offerToken (dockIx l x.addr) rep) (s.endStatus l x rep) ∧
    ReplyFrame ((s.beforeOffer l x).offerToken (dockIx l x.addr) rep) (s.endStatus l x rep) ∧
    (newToken (s.dock (dockIx l x.addr)) rep = true →
      ((s.endStatus l x rep).line l).state = .running ∧ ((s.endStatus l x rep).line l).quietTimer = 0) := by
  have hride := ((s.turnOver l x).handleStatus_ride (dockIx l x.addr) rep (decide (x.cmd = .closeCmd))).trans
    (State.openAfterShow_ride _ (dockIx l x.addr))
  have hreply := (ReplyFrame.handleStatus (s.turnOver l x) (dockIx l x.addr) rep (decide (x.cmd = .closeCmd))).trans
    (ReplyFrame.openAfterShow _ (dockIx l x.addr))
  have hend : s.endStatus l x rep =
      if newToken (s.dock (dockIx l x.addr)) rep || bikeChange (s.dock (dockIx l x.addr)) rep then
        (((s.turnOver l x).handleStatus (dockIx l x.addr) rep (decide (x.cmd = .closeCmd))).openAfterShow
          (dockIx l x.addr)).quietActivity l
      else ((s.turnOver l x).handleStatus (dockIx l x.addr) rep (decide (x.cmd = .closeCmd))).openAfterShow
        (dockIx l x.addr) := rfl
  rw [hend]
  generalize ((s.turnOver l x).handleStatus (dockIx l x.addr) rep (decide (x.cmd = .closeCmd))).openAfterShow
    (dockIx l x.addr) = u at hride hreply ⊢
  have hruns : (u.line l).state = .running ∨ (u.line l).state = .quiet := by
    refine hreply.runs ?_
    rw [State.offerToken_line]
    exact (State.beforeOffer_state hturn).symm ▸ hon
  by_cases hbroken : (newToken (s.dock (dockIx l x.addr)) rep || bikeChange (s.dock (dockIx l x.addr)) rep) = true
  · rw [if_pos hbroken]
    exact ⟨hride.trans (State.quietActivity_ride u l), hreply.trans (ReplyFrame.quietActivity u l),
      fun _ => State.quietActivity_line hruns⟩
  · rw [if_neg hbroken]
    refine ⟨hride, hreply, fun hnew => absurd ?_ hbroken⟩
    rw [hnew, Bool.true_or]

end Sys2Proof.Machine

namespace Sys2Proof.Proofs

open Sys2Proof.Machine

/-- Settles O20: the request by the branches of its rule, the reply by what follows the offer of its token. -/
theorem tokenPresentQueues : Obligations.TokenPresentQueues := by
  unfold Obligations.TokenPresentQueues
  refine ⟨fun s t hs => ⟨fun pref hopen => ?_, fun b hlow hhigh => ?_, fun b hb hhold => ?_⟩, fun s l x rep hdue => ?_⟩
  · refine request_next hs _ _ ?_ (Nat.le_refl _)
    rw [onlyK_k]
    cases pref with
    | none => exact tokenPresentRule_accepts t hopen rfl
    | some d => exact tokenPresentRule_accepts t hopen (preferredOfCode_dock d)
  · refine request_refused hs _ _ ?_
    rw [onlyK_k, tokenPresentRule, preferredOfCode_outside hlow hhigh]
  · obtain ⟨p, hp⟩ := preferredOfCode_isSome hb
    refine request_refused hs _ _ ?_
    rw [onlyK_k, tokenPresentRule, hp]
    exact if_pos hhold
  · obtain ⟨hride, hreply, hrunning⟩ := State.endStatus_offered hdue.1 hdue.2.1 rep
    have hpool := latchStoreLow_pool s.free.length (s.endStatus l x rep)
    obtain ⟨-, hqueue, hhold⟩ := SameStation.trans hride.station hpool.station
    have hack := (hreply.trans (.pool hpool)).acks (dockIx l x.addr)
    obtain ⟨⟨-, -, -, -, -, -, -, hset, -⟩, hqueue0, hhold0⟩ := (s.beforeOffer_ride l x).station
    have hack0 := s.beforeOffer_ack l x (dockIx l x.addr)
    refine ⟨_, exec_statusReply_due hdue rep, fun k hk hnew => ?_, fun k hk hnew hopen => ?_, fun hidle => ?_⟩
    · rw [hpool.line]
      refine hrunning ?_
      rw [newToken, hk]
      exact decide_eq_true hnew
    · obtain ⟨hjoin, hstart, htaken⟩ := State.offerToken_new hk (hack0.symm ▸ hnew) (hhold0.trans hopen)
      rw [hqueue, hhold, hack, hjoin, hstart, hset, hqueue0]
      exact ⟨rfl, rfl, htaken⟩
    · have hsame : (s.beforeOffer l x).offerToken (dockIx l x.addr) rep = s.beforeOffer l x := by
        refine State.offerToken_idle ?_
        rw [hack0, hhold0]
        exact hidle
      rw [hqueue, hhold, hack, hsame]
      exact ⟨hqueue0, hhold0, hack0⟩

end Sys2Proof.Proofs
end

section
/-! PROOFS. The ten checks of the admission decision, from their statements to what the checks answer (R48 to R55). -/

namespace Sys2Proof.Machine

/-! ## Checks 1 to 5 (R49, R50) -/

theorem counterTest_none_of {last n : Word16} {w : Nat} (h1 : 1 ≤ (n - last).toNat) (hw : (n - last).toNat ≤ w)
    (hhalf : (n - last).toNat ≤ 32767) : counterTest last n w = none := by
  rcases counterTest_cases last n w with ⟨h, -⟩ | ⟨-, h⟩ | ⟨h, -⟩
  · omega
  · exact h
  · omega

theorem counterTest_stale {last n : Word16} {w : Nat} (h : n = last ∨ 32768 ≤ (n - last).toNat) :
    counterTest last n w = some .counterStale := by
  have hzero : (n - last).toNat = 0 ∨ 32768 ≤ (n - last).toNat := by
    refine h.imp ?_ id
    rintro rfl
    rw [BitVec.sub_self]
    rfl
  rcases counterTest_cases last n w with ⟨-, h⟩ | ⟨h, -⟩ | ⟨h, -⟩
  · exact h
  · omega
  · omega

theorem counterTest_far {last n : Word16} {w : Nat} (hw : w < (n - last).toNat) (hhalf : (n - last).toNat ≤ 32767) :
    counterTest last n w = some .counterFar := by
  rcases counterTest_cases last n w with ⟨h, -⟩ | ⟨h, -⟩ | ⟨-, h⟩
  · omega
  · omega
  · exact h

theorem timeTest_none_of {now issue : Minute} {life skew : Nat}
    (h : ((now - issue).toNat ≤ 32767 ∧ (now - issue).toNat ≤ life) ∨
      (32768 ≤ (now - issue).toNat ∧ 65536 - (now - issue).toNat ≤ skew)) : timeTest now issue life skew = none := by
  rcases timeTest_cases now issue life skew with ⟨-, h'⟩ | ⟨h', -⟩ | ⟨h', -⟩
  · exact h'
  · omega
  · omega

theorem timeTest_expired {now issue : Minute} {life skew : Nat} (hpast : (now - issue).toNat ≤ 32767)
    (hold : life < (now - issue).toNat) : timeTest now issue life skew = some .tokenExpired := by
  rcases timeTest_cases now issue life skew with ⟨h', -⟩ | ⟨-, h'⟩ | ⟨h', -⟩
  · omega
  · exact h'
  · omega

theorem timeTest_early {now issue : Minute} {life skew : Nat} (hahead : 32768 ≤ (now - issue).toNat)
    (hfar : skew < 65536 - (now - issue).toNat) : timeTest now issue life skew = some .tokenEarly := by
  rcases timeTest_cases now issue life skew with ⟨h', -⟩ | ⟨h', -⟩ | ⟨-, h'⟩
  · omega
  · omega
  · exact h'

/-- The checks of a token against the entry it names, the clock set: check word, counter window, time window. -/
theorem tokenChecks_entry {s : State} {t : Token} {e : Cred} (hclock : s.clockSet = true) (hcred : t.cred ≠ 0#24)
    (hfind : s.findCred t.cred = some e) :
    tokenChecks s t =
      if checkWord e.secret t.cred t.counter t.issue ≠ t.tag then .error .checkMismatch
      else match counterTest e.counter t.counter s.settings.lookAhead with
        | some r => .error r
        | none =>
          match timeTest s.minute t.issue (s.classOf e).life s.settings.skew with
          | some r => .error r
          | none => .ok e := by
  unfold tokenChecks
  rw [hclock, if_neg (by simp), hfind]
  exact if_neg hcred

section
variable {s : State} {t : Token} {e : Cred} (hclock : s.clockSet = true) (hcred : t.cred ≠ 0#24)
  (hfind : s.findCred t.cred = some e) (hword : checkWord e.secret t.cred t.counter t.issue = t.tag)
include hclock hcred hfind hword

/-- A counter outside the window is the reason. -/
theorem tokenChecks_counter {r : Reason} (h : counterTest e.counter t.counter s.settings.lookAhead = some r) :
    tokenChecks s t = .error r := by
  rw [tokenChecks_entry hclock hcred hfind, if_neg (fun a => a hword), h]

/-- A token outside its time window is the reason, its counter in the window. -/
theorem tokenChecks_time {r : Reason} (h : counterTest e.counter t.counter s.settings.lookAhead = none)
    (ht : timeTest s.minute t.issue (s.classOf e).life s.settings.skew = some r) : tokenChecks s t = .error r := by
  rw [tokenChecks_entry hclock hcred hfind, if_neg (fun a => a hword), h]
  dsimp only
  rw [ht]

theorem tokenChecks_ok_of (h : counterTest e.counter t.counter s.settings.lookAhead = none)
    (ht : timeTest s.minute t.issue (s.classOf e).life s.settings.skew = none) : tokenChecks s t = .ok e := by
  rw [tokenChecks_entry hclock hcred hfind, if_neg (fun a => a hword), h]
  dsimp only
  rw [ht]

end

theorem PassesFirstFive.tokenChecks {s : State} {t : Token} {e : Cred} (h : PassesFirstFive s t e) :
    Machine.tokenChecks s t = .ok e := by
  obtain ⟨hclock, hcred, hfind, hword, ⟨h1, hw, hhalf⟩, htime⟩ := h
  exact tokenChecks_ok_of hclock hcred hfind hword (counterTest_none_of h1 hw hhalf) (timeTest_none_of htime)

/-- The reason of the first failing check of 1 to 5 is the answer of the checks. -/
theorem FailsFirstFive.tokenChecks {s : State} {t : Token} {r : Reason} (h : FailsFirstFive s t r) :
    Machine.tokenChecks s t = .error r := by
  cases r with
  | clockUnset => exact if_pos h
  | unknownCredential =>
    obtain ⟨hclock, hnone⟩ := h
    unfold Machine.tokenChecks
    rw [hclock, if_neg (by simp)]
    cases hfind : s.findCred t.cred with
    | none => rfl
    | some e =>
      have hzero : t.cred = 0#24 := hnone.resolve_right (by simp [hfind])
      exact if_pos hzero
  | checkMismatch =>
    obtain ⟨hclock, hcred, e, hfind, hword⟩ := h
    rw [tokenChecks_entry hclock hcred hfind]
    exact if_pos hword
  | counterStale =>
    obtain ⟨hclock, hcred, e, hfind, hword, hstale⟩ := h
    exact tokenChecks_counter hclock hcred hfind hword (counterTest_stale hstale)
  | counterFar =>
    obtain ⟨hclock, hcred, e, hfind, hword, hw, hhalf, -⟩ := h
    exact tokenChecks_counter hclock hcred hfind hword (counterTest_far hw hhalf)
  | tokenExpired =>
    obtain ⟨hclock, hcred, e, hfind, hword, ⟨h1, hw, hhalf⟩, hpast, hold⟩ := h
    exact tokenChecks_time hclock hcred hfind hword (counterTest_none_of h1 hw hhalf) (timeTest_expired hpast hold)
  | tokenEarly =>
    obtain ⟨hclock, hcred, e, hfind, hword, ⟨h1, hw, hhalf⟩, hahead, hfar⟩ := h
    exact tokenChecks_time hclock hcred hfind hword (counterTest_none_of h1 hw hhalf) (timeTest_early hahead hfar)
  | _ => exact h.elim

/-! ## Check 7 at a dock (R52, R53) -/

theorem State.tagInRide_iff {s : State} {g : BikeTag} : s.tagInRide g = true ↔ ∃ r ∈ s.rides, r.tag = g := by
  simp [State.tagInRide, State.rideOfTag]

theorem State.tagInRide_eq_false {s : State} {g : BikeTag} : s.tagInRide g = false ↔ ∀ r ∈ s.rides, r.tag ≠ g := by
  rw [← Bool.not_eq_true, State.tagInRide_iff]
  simp

/-- The check of a DOCKED dock whose link is ONLINE: the tag first, then the hold. -/
theorem dockCheck_docked {s : State} {d : DockIx} (hdock : (s.dock d).state = .docked) (hlink : (s.dock d).link = .online)
    (mayHeld : Bool) :
    dockCheck s mayHeld d =
      if (s.dock d).tag = 0#32 ∨ s.tagInRide (s.dock d).tag = true then some .dockFaulted
      else if (s.dock d).hold.isSome ∧ mayHeld = false then some .dockHeld else none := by
  unfold dockCheck
  dsimp only
  rw [hdock]
  exact if_neg (fun a => a hlink)

theorem DockPasses.dockCheck {s : State} {mayHeld : Bool} {d : DockIx} (h : DockPasses s mayHeld d) :
    Machine.dockCheck s mayHeld d = none := by
  obtain ⟨hdock, hlink, htag, hfree, hhold⟩ := h
  have htags : ¬ ((s.dock d).tag = 0#32 ∨ s.tagInRide (s.dock d).tag = true) := by
    rw [State.tagInRide_eq_false.mpr hfree]
    simp [htag]
  have hheld : ¬ ((s.dock d).hold.isSome ∧ mayHeld = false) := by
    rintro ⟨hsome, hmay⟩
    rcases hhold with h | h
    · simp [h] at hsome
    · simp [h] at hmay
  rw [dockCheck_docked hdock hlink, if_neg htags, if_neg hheld]

/-- A link that is not ONLINE is a fault at every dock. -/
theorem dockCheck_offline {s : State} {d : DockIx} (h : (s.dock d).link ≠ .online) (mayHeld : Bool) :
    dockCheck s mayHeld d = some .dockFaulted := by
  unfold dockCheck
  dsimp only
  cases (s.dock d).state with
  | unfitted | unknown | faulted => rfl
  | queued | releasing | relatching | empty | docked => exact if_pos h

theorem DockFails.dockCheck {s : State} {mayHeld : Bool} {d : DockIx} {r : Reason} (h : DockFails s mayHeld d r) :
    Machine.dockCheck s mayHeld d = some r := by
  cases r with
  | dockFaulted =>
    rcases h with hstate | hlink | ⟨hdock, htag⟩
    · unfold Machine.dockCheck
      dsimp only
      rcases hstate with e | e | e | e <;> rw [e]
    · exact dockCheck_offline hlink mayHeld
    · by_cases hlink : (s.dock d).link = .online
      · rw [dockCheck_docked hdock hlink]
        exact if_pos (htag.imp id State.tagInRide_iff.mpr)
      · exact dockCheck_offline hlink mayHeld
  | dockBusy =>
    obtain ⟨hlink, hstate⟩ := h
    unfold Machine.dockCheck
    dsimp only
    rcases hstate with e | e | e <;> rw [e] <;> exact if_neg (fun a => a hlink)
  | noBike =>
    obtain ⟨hlink, hstate⟩ := h
    unfold Machine.dockCheck
    dsimp only
    rw [hstate]
    exact if_neg (fun a => a hlink)
  | dockHeld =>
    obtain ⟨hlink, hdock, htag, hfree, hhold, hmay⟩ := h
    have htags : ¬ ((s.dock d).tag = 0#32 ∨ s.tagInRide (s.dock d).tag = true) := by
      rw [State.tagInRide_eq_false.mpr hfree]
      simp [htag]
    rw [dockCheck_docked hdock hlink, if_neg htags, if_pos ⟨Option.isSome_iff_ne_none.mpr hhold, hmay⟩]
  | _ => exact h.elim

/-! ## The choice at the kiosk (R54) -/

theorem eligible_iff {s : State} {mayHeld : Bool} {d : DockIx} : eligible s mayHeld d = true ↔ Eligible s mayHeld d := by
  unfold eligible Eligible DockPasses State.lineRuns
  dsimp only
  rw [← State.tagInRide_eq_false]
  simp only [Bool.and_eq_true, Bool.or_eq_true, decide_eq_true_eq, Bool.not_eq_true', Option.isNone_iff_eq_none]
  tauto

/-- One step of the search for the first element with the largest value. -/
def firstLargest {α : Type} (f : α → Nat) (best : Option α) (x : α) : Option α :=
  match best with
  | none => some x
  | some b => if f b < f x then some x else some b

theorem foldl_firstLargest_keeps {α : Type} {f : α → Nat} {a : α} (xs : List α) (h : ∀ x ∈ xs, f x ≤ f a) :
    xs.foldl (firstLargest f) (some a) = some a := by
  induction xs with
  | nil => rfl
  | cons x xs ih =>
    rw [List.foldl_cons, firstLargest, if_neg (Nat.not_lt.mpr (h x List.mem_cons_self))]
    exact ih (fun y hy => h y (List.mem_cons_of_mem _ hy))

/-- The search finds the element above all before it and not below any after it. -/
theorem foldl_firstLargest {α : Type} {f : α → Nat} {a : α} {xs ys : List α} {best : Option α}
    (hbest : ∀ b ∈ best, f b < f a) (hx : ∀ x ∈ xs, f x < f a) (hy : ∀ y ∈ ys, f y ≤ f a) :
    (xs ++ a :: ys).foldl (firstLargest f) best = some a := by
  induction xs generalizing best with
  | nil =>
    rw [List.nil_append, List.foldl_cons]
    have hstep : firstLargest f best a = some a := by
      cases best with
      | none => rfl
      | some b => exact if_pos (hbest b rfl)
    rw [hstep]
    exact foldl_firstLargest_keeps ys hy
  | cons x xs ih =>
    rw [List.cons_append, List.foldl_cons]
    refine ih (fun b hb => ?_) (fun y hy => hx y (List.mem_cons_of_mem _ hy))
    have hx' := hx x List.mem_cons_self
    cases best with
    | none =>
      cases hb
      exact hx'
    | some c =>
      unfold firstLargest at hb
      dsimp only at hb
      split at hb
      · cases hb
        exact hx'
      · cases hb
        exact hbest _ rfl

/-- The element that comes first by an order among those of the largest value, in a list in that order. -/
theorem foldl_firstLargest_sorted {α : Type} {f key : α → Nat} {a : α} {xs : List α} (ha : a ∈ xs)
    (hsorted : xs.Pairwise (fun x y => key x < key y))
    (h : ∀ x ∈ xs, f x < f a ∨ (f x = f a ∧ key a ≤ key x)) : xs.foldl (firstLargest f) none = some a := by
  obtain ⟨ys, zs, rfl⟩ := List.append_of_mem ha
  obtain ⟨-, -, hbefore⟩ := List.pairwise_append.mp hsorted
  refine foldl_firstLargest (fun b hb => by cases hb) (fun y hy => ?_) (fun z hz => ?_)
  · have hkey := hbefore y hy a List.mem_cons_self
    rcases h y (List.mem_append_left _ hy) with hlt | ⟨-, hle⟩
    · exact hlt
    · omega
  · rcases h z (List.mem_append_right _ (List.mem_cons_of_mem _ hz)) with hlt | ⟨heq, -⟩
    · exact hlt.le
    · exact heq.le

theorem chooseDock_eq (s : State) (mayHeld : Bool) :
    chooseDock s mayHeld =
      ((List.finRange 60).filter (fun d => eligible s mayHeld d)).foldl (firstLargest (dockedFor s)) none := by
  have hstep : (fun (best : Option DockIx) (d : DockIx) => match best with
      | none => some d
      | some b => if dockedFor s b < dockedFor s d then some d else some b) = firstLargest (dockedFor s) := by
    funext best d
    cases best <;> rfl
  exact congrArg (fun step => List.foldl step none _) hstep

theorem Chosen.chooseDock {s : State} {mayHeld : Bool} {d : DockIx} (h : Chosen s mayHeld d) :
    Machine.chooseDock s mayHeld = some d := by
  obtain ⟨hd, hfirst⟩ := h
  rw [chooseDock_eq]
  refine foldl_firstLargest_sorted (key := Fin.val)
    (List.mem_filter.mpr ⟨List.mem_finRange d, eligible_iff.mpr hd⟩)
    ((List.pairwise_lt_finRange 60).filter _) (fun x hx => ?_)
  exact hfirst x (eligible_iff.mp (List.mem_filter.mp hx).2)

theorem chooseDock_none {s : State} {mayHeld : Bool} (h : ∀ d : DockIx, ¬ Eligible s mayHeld d) :
    chooseDock s mayHeld = none := by
  have hempty : (List.finRange 60).filter (fun d => eligible s mayHeld d) = [] :=
    List.filter_eq_nil_iff.mpr (fun d _ => fun a => h d (eligible_iff.mp a))
  rw [chooseDock_eq, hempty]
  rfl

theorem DockFor.dockFor {s : State} {mayHeld : Bool} {o : Origin} {d : DockIx} (h : DockFor s mayHeld o d) :
    Machine.dockFor s o mayHeld = .ok d := by
  unfold Machine.dockFor
  match o with
  | .dock d' q =>
    obtain ⟨rfl, hpass⟩ := h
    dsimp only
    rw [hpass.dockCheck]
  | .kiosk (some d') =>
    obtain ⟨rfl, hpass⟩ := h
    dsimp only
    rw [hpass.dockCheck]
  | .kiosk none =>
    dsimp only
    rw [Chosen.chooseDock h]

theorem DockReason.dockFor {s : State} {mayHeld : Bool} {o : Origin} {r : Reason} (h : DockReason s mayHeld o r) :
    Machine.dockFor s o mayHeld = .error r := by
  unfold Machine.dockFor
  match o with
  | .dock d' q =>
    dsimp only
    rw [DockFails.dockCheck h]
  | .kiosk (some d') =>
    dsimp only
    rw [DockFails.dockCheck h]
  | .kiosk none =>
    obtain ⟨rfl, hnone⟩ := h
    dsimp only
    rw [chooseDock_none hnone]

/-! ## Checks 6 to 10 (R51 to R55) -/

/-- An ACTIVE entry goes on to check 7. -/
theorem laterChecks_active {e : Cred} (h : e.state = .active) (s : State) (o : Origin) :
    laterChecks s o e =
      match dockFor s o (s.classOf e).mayHeld with
      | .error r => .error r
      | .ok d =>
        if (s.classOf e).limit ≤ e.openRides then .error .rideLimit
        else if e.balance < (s.classOf e).minBal then .error .balanceLow
        else if s.free = [] then .error .storeFull
        else .ok d := by
  have hcheck : stateCheck e = none := by rw [stateCheck, h]
  unfold laterChecks
  rw [hcheck] <;> rfl

theorem PassesLastFive.laterChecks {s : State} {o : Origin} {e : Cred} {d : DockIx} (h : PassesLastFive s o e d) :
    Machine.laterChecks s o e = .ok d := by
  obtain ⟨hactive, hdock, hlimit, hbal, hfree⟩ := h
  rw [laterChecks_active hactive, hdock.dockFor]
  dsimp only
  rw [if_neg (Nat.not_le.mpr hlimit), if_neg (Int.not_lt.mpr hbal), if_neg hfree]

/-- The reason of the first failing check of 6 to 10 is the answer of the checks. -/
theorem FailsLastFive.laterChecks {s : State} {o : Origin} {e : Cred} {r : Reason} (h : FailsLastFive s o e r) :
    Machine.laterChecks s o e = .error r := by
  have hstate : ∀ {x}, stateCheck e = some x → Machine.laterChecks s o e = .error x := by
    intro x hx
    rw [Machine.laterChecks, hx]
  have hdock : ∀ {x}, e.state = .active ∧ DockReason s (s.classOf e).mayHeld o x →
      Machine.laterChecks s o e = .error x := by
    rintro x ⟨hactive, hx⟩
    rw [laterChecks_active hactive, hx.dockFor]
  cases r with
  | suspended | revoked | lapsed =>
    refine hstate ?_
    have he : e.state = _ := h
    rw [stateCheck, he]
  | noBike | dockBusy | dockHeld | dockFaulted | noDockFree => exact hdock h
  | rideLimit =>
    obtain ⟨hactive, ⟨d, hd⟩, hlimit⟩ := h
    rw [laterChecks_active hactive, hd.dockFor]
    exact if_pos hlimit
  | balanceLow =>
    obtain ⟨hactive, ⟨d, hd⟩, hlimit, hbal⟩ := h
    rw [laterChecks_active hactive, hd.dockFor]
    dsimp only
    rw [if_neg (Nat.not_le.mpr hlimit), if_pos hbal]
  | storeFull =>
    obtain ⟨hactive, ⟨d, hd⟩, hlimit, hbal, hfree⟩ := h
    rw [laterChecks_active hactive, hd.dockFor]
    dsimp only
    rw [if_neg (Nat.not_le.mpr hlimit), if_neg (Int.not_lt.mpr hbal), if_pos hfree]
  | _ => exact h.elim

end Sys2Proof.Machine
end

section
/-! PROOFS. A refused decision: its records, the mismatch count of a dock source, and its SHOW (R59, R60, R62, R63). -/

namespace Sys2Proof.Machine

/-! ## Latched events of Port K -/

theorem State.latch_latched_k (s : State) (e : Byte) : (s.latch .k e).portK.latched &&& e = e := by
  show (s.portK.latched ||| e) &&& e = e
  rw [BitVec.or_comm]
  exact byte_or_keeps (BitVec.and_self)

/-- STORE_LOW clears no event of Port K. -/
theorem latchStoreLow_latched_k {s : State} {e : Byte} (h : s.portK.latched &&& e = e) (n : Nat) :
    (latchStoreLow n s).portK.latched &&& e = e := by
  rcases latchStoreLow_cases n s with hlow | hlow <;> rw [hlow]
  · exact h
  · exact byte_or_keeps h

/-- STORE_LOW leaves the lines to their pending commands. -/
theorem LineTrace.storeLow {s t : State} (h : LineTrace s t) (n : Nat) : LineTrace s (latchStoreLow n t) := by
  have hsame := latchStoreLow_sameTables n t
  refine h.trans ⟨fun d => State.fitted_of_dock (by rw [hsame.dock]), fun d => .inl (by rw [hsame.dock]),
    fun l _ => hsame.line l, fun l _ => .inl ⟨hsame.line l, fun a => by rw [hsame.dock]⟩, fun hl => ?_⟩
  exact latchStoreLow_latched hl n

/-! ## AUTH_BURST (R63, R155) -/

/-- No AUTH_BURST below the threshold, at level 0 or under suppression. -/
theorem State.burstNotice_idle {s : State} {d : DockIx} (h : ¬ s.settings.burst ≤ (s.dock d).mismatch ∨
    s.level .authBurst = 0 ∨ s.suppressed (.dock d) .authBurst = true) (c : CredNo) : s.burstNotice d c = s := by
  unfold State.burstNotice
  split
  · next hdue =>
    rcases s.notice_cases (.dock d) (.authBurst (s.dock d).mismatch c (s.dock d).hold) with ⟨-, e⟩ | ⟨hlevel, hsup, -⟩
    · exact e
    · rcases h with h | h | h
      · exact absurd hdue h
      · exact absurd h hlevel
      · rw [show NoticeBody.kind _ = Kind.authBurst from rfl, h] at hsup
        cases hsup
  · rfl

theorem State.burstNotice_pool (s : State) (d : DockIx) (c : CredNo) : PoolFrame s (s.burstNotice d c) := by
  unfold State.burstNotice
  split
  · exact s.notice_pool _ _
  · exact PoolFrame.refl s

theorem State.burstNotice_latching (s : State) (d : DockIx) (c : CredNo) : Latching s (s.burstNotice d c) :=
  .ite (s.notice_latching _ _) (.refl s)

/-- The AUTH_BURST notice of a dock as it stands. -/
def State.burstBody (s : State) (d : DockIx) (c : CredNo) : Body :=
  .notice (.dock d) s.minute s.second (.authBurst (s.dock d).mismatch c (s.dock d).hold)

/-- An AUTH_BURST that is due, with a level, not suppressed and with a slot, stands posted. -/
theorem State.burstNotice_posts {s : State} {d : DockIx} (hdue : s.settings.burst ≤ (s.dock d).mismatch)
    (hlevel : s.level .authBurst ≠ 0) (hsup : s.suppressed (.dock d) .authBurst = false) {n : Nat} {rest : List Nat}
    (hfree : s.free = n :: rest) (c : CredNo) :
    (s.burstNotice d c).free = rest ∧ (s.burstNotice d c).listK = s.listK ∧
    PostedN s (s.burstNotice d c) n .authBurst (s.burstBody d c) := by
  have heq : s.burstNotice d c = _ := (if_pos hdue).trans (State.notice_posts (s := s) (sub := .dock d)
    (b := .authBurst (s.dock d).mismatch c (s.dock d).hold) hlevel hsup hfree)
  rw [heq]
  exact ⟨rfl, rfl, mem_insertTail.mpr (.inl rfl)⟩

/-! ## A Port K posting among other records -/

/-- With a slot free, or a record to evict, a Port K record is the newest of its list (R147). -/
theorem State.postK_posted {s : State} (h : s.free ≠ []) (b : Body) : PostedK (s.postK b) b := by
  rcases s.postK_cases b with ⟨n, hlast, -⟩ | ⟨hfree, -⟩
  · exact ⟨n, hlast⟩
  · exact absurd hfree h

/-- A Port K record that finds two slots free takes the first and leaves the second at the head. -/
theorem State.postK_free {s : State} {m n : Nat} {rest : List Nat} (h : s.free = m :: n :: rest) (b : Body) :
    ∃ more : List Nat, (s.postK b).free = n :: more := by
  have hpost := congrArg Prod.fst (s.postK_postPool b)
  dsimp only at hpost
  rw [hpost, h]
  unfold postPool
  exact ⟨_, rfl⟩

/-- What a Port K posting leaves of what decides about a notice of Port N. -/
theorem State.postK_suppressed (s : State) (b : Body) (sub : Subject) (k : Kind) :
    (s.postK b).suppressed sub k = s.suppressed sub k := by
  unfold State.suppressed
  rw [s.postK_listN, s.postK_portN]

/-! ## The records of a refusal -/

theorem State.countMismatch_dock (s : State) (d j : DockIx) :
    (s.countMismatch d).dock j = if j = d then { s.dock d with
      mismatch := mismatchAfter (s.dock d), hold := holdAfter s.settings.burst (s.dock d) } else s.dock j :=
  State.dock_updDock _ _ _ _

/-- The records of a refused decision, before its SHOW: the decision record, and where the check word fails at a dock
source the mismatch count and AUTH_BURST. -/
def State.refusalRecords (s : State) (x : Presentation) (r : Reason) : State :=
  match r, x.origin with
  | .checkMismatch, .dock d _ => s.mismatchRecords x d (decisionRecord x r none none)
  | _, _ => s.postK (decisionRecord x r none none)

theorem State.refuse_eq (s : State) (x : Presentation) (r : Reason) :
    s.refuse x r = (s.refusalRecords x r).showRefuse x.origin := rfl

/-- A refusal that raises no mismatch count posts its decision record alone. -/
theorem State.refusalRecords_plain {s : State} {x : Presentation} {r : Reason} (h : ∀ d, ¬ Mismatched s x r d) :
    s.refusalRecords x r = s.postK (decisionRecord x r none none) := by
  unfold State.refusalRecords
  split
  · next d q horigin =>
    refine if_pos ?_
    by_contra hfit
    exact h d ⟨rfl, by rw [horigin]; rfl, hfit⟩
  · rfl

/-- AUTH_BURST is due at a dock whose count a refusal raises to the threshold (R63). -/
def BurstDue (s : State) (x : Presentation) (r : Reason) (d : DockIx) : Prop :=
  Mismatched s x r d ∧ s.settings.burst ≤ mismatchAfter (s.dock d)

/-- What the records of a refusal leave. -/
structure RefusalRecorded (s t : State) (x : Presentation) (r : Reason) : Prop where
  station  : SameStation s t
  creds    : t.creds = s.creds
  rides    : t.rides = s.rides
  releaseQ : t.releaseQ = s.releaseQ
  grants   : t.grants = s.grants
  lineA    : t.lineA = s.lineA
  lineB    : t.lineB = s.lineB
  ports    : PortsKept s t
  latching : Latching s t
  docks    : ∀ d : DockIx, t.dock d = { s.dock d with
    mismatch := if Mismatched s x r d then mismatchAfter (s.dock d) else (s.dock d).mismatch
    hold := if Mismatched s x r d then holdAfter s.settings.burst (s.dock d) else (s.dock d).hold }
  quiet    : (∀ d : DockIx, ¬ BurstDue s x r d ∨ s.level .authBurst = 0 ∨ s.suppressed (.dock d) .authBurst = true) →
    (t.free, t.listK) = postPool s.free s.listK (decisionRecord x r none none) ∧ t.listN = s.listN ∧
    (s.free = [] → s.listK = [] → Overflowed t .k)
  burst    : ∀ d : DockIx, BurstDue s x r d → s.level .authBurst ≠ 0 → s.suppressed (.dock d) .authBurst = false →
    2 ≤ s.free.length → PostedK t (decisionRecord x r none none) ∧
    ∃ slot ∈ s.free, PostedN s t slot .authBurst (.notice (.dock d) s.minute s.second
      (.authBurst (mismatchAfter (s.dock d)) x.token.cred (holdAfter s.settings.burst (s.dock d))))

/-- A Port K record posted on the state u, which differs from s in its docks alone. -/
theorem State.postK_pooled {s u : State} (hu : u = { s with docks := u.docks }) (b : Body) :
    ((u.postK b).free, (u.postK b).listK) = postPool s.free s.listK b ∧ (u.postK b).listN = s.listN ∧
    (s.free = [] → s.listK = [] → Overflowed (u.postK b) .k) := by
  have hpool : u.free = s.free ∧ u.listK = s.listK ∧ u.listN = s.listN := by
    rw [hu]
    exact ⟨rfl, rfl, rfl⟩
  obtain ⟨hfree, hlistK, hlistN⟩ := hpool
  refine ⟨?_, (u.postK_listN b).trans hlistN, fun hf hk => ?_⟩
  · rw [u.postK_postPool, hfree, hlistK]
  · rw [State.postK_dropped (hfree.trans hf) (hlistK.trans hk)]
    exact u.latch_latched_k _

/-- A decision record alone. -/
theorem State.refusalRecords_recorded_plain {s : State} {x : Presentation} {r : Reason}
    (h : ∀ d, ¬ Mismatched s x r d) : RefusalRecorded s (s.refusalRecords x r) x r := by
  rw [State.refusalRecords_plain h]
  have hpool := s.postK_pool (decisionRecord x r none none)
  refine ⟨hpool.station, hpool.creds, hpool.rides, hpool.releaseQ, hpool.grants, hpool.lineA, hpool.lineB, hpool.ports,
    s.postK_latching _, fun d => ?_, fun _ => State.postK_pooled rfl _, fun d hburst => absurd hburst.1 (h d)⟩
  rw [hpool.dock, if_neg (h d), if_neg (h d)]

/-- The mismatch count with both records, in either order (log 9). -/
theorem State.mismatchRecords_cases {s : State} {d : DockIx} (hfit : (s.dock d).state ≠ .unfitted) (x : Presentation)
    (b : Body) :
    s.mismatchRecords x d b = ((s.countMismatch d).burstNotice d x.token.cred).postK b ∨
    s.mismatchRecords x d b = ((s.countMismatch d).postK b).burstNotice d x.token.cred := by
  unfold State.mismatchRecords
  dsimp only
  rw [if_neg hfit]
  split
  · exact .inl rfl
  · exact .inr rfl

section
variable {s : State} {d : DockIx} {c : CredNo} (b : Body)

/-- Both records where AUTH_BURST is not posted: the decision record alone. -/
theorem State.burst_idle (h : ¬ s.settings.burst ≤ (s.dock d).mismatch ∨ s.level .authBurst = 0 ∨
    s.suppressed (.dock d) .authBurst = true) :
    (s.burstNotice d c).postK b = s.postK b ∧ (s.postK b).burstNotice d c = s.postK b := by
  have hpool := s.postK_pool b
  obtain ⟨⟨-, -, -, -, -, -, hlevels, hset, -⟩, -⟩ := hpool.station
  refine ⟨by rw [State.burstNotice_idle h], State.burstNotice_idle ?_ c⟩
  rw [hset, hpool.dock, State.postK_suppressed, State.level, hlevels]
  exact h

/-- Both records where AUTH_BURST is due and two slots are free: both stand posted, in either order (log 9). -/
theorem State.burst_posts (hdue : s.settings.burst ≤ (s.dock d).mismatch) (hlevel : s.level .authBurst ≠ 0)
    (hsup : s.suppressed (.dock d) .authBurst = false) {m n : Nat} {rest : List Nat} (hfree : s.free = m :: n :: rest) :
    (PostedK ((s.burstNotice d c).postK b) b ∧
      ∃ slot ∈ s.free, PostedN s ((s.burstNotice d c).postK b) slot .authBurst (s.burstBody d c)) ∧
    (PostedK ((s.postK b).burstNotice d c) b ∧
      ∃ slot ∈ s.free, PostedN s ((s.postK b).burstNotice d c) slot .authBurst (s.burstBody d c)) := by
  constructor
  · obtain ⟨hrest, -, hposted⟩ := State.burstNotice_posts hdue hlevel hsup hfree c
    refine ⟨State.postK_posted (by rw [hrest]; exact List.cons_ne_nil _ _) b, m, by rw [hfree]; exact List.mem_cons_self,
      ?_⟩
    unfold PostedN at hposted ⊢
    rwa [State.postK_listN]
  · have hpool := s.postK_pool b
    obtain ⟨⟨hmin, hsec, hclock, -, -, -, hlevels, hset, -⟩, -⟩ := hpool.station
    obtain ⟨more, hmore⟩ := State.postK_free hfree b
    have hbody : (s.postK b).burstBody d c = s.burstBody d c := by
      unfold State.burstBody
      rw [hmin, hsec, hpool.dock]
    have hlevel' : (s.postK b).level .authBurst = s.level .authBurst := by rw [State.level, hlevels, State.level]
    obtain ⟨-, hlist, hposted⟩ := State.burstNotice_posts (s := s.postK b) (d := d) (by rwa [hset, hpool.dock])
      (by rwa [hlevel']) (by rwa [State.postK_suppressed]) hmore c
    unfold PostedN at hposted
    rw [hlevel', hclock, hbody] at hposted
    refine ⟨?_, n, by rw [hfree]; simp, hposted⟩
    unfold PostedK
    rw [hlist]
    exact State.postK_posted (by rw [hfree]; exact List.cons_ne_nil _ _) b

theorem State.mismatchRecords_frame (hfit : (s.dock d).state ≠ .unfitted) (x : Presentation) :
    PoolFrame (s.countMismatch d) (s.mismatchRecords x d b) ∧ Latching (s.countMismatch d) (s.mismatchRecords x d b) := by
  rcases State.mismatchRecords_cases hfit x b with e | e <;> rw [e]
  · exact ⟨(State.burstNotice_pool _ _ _).trans (State.postK_pool _ _),
      (State.burstNotice_latching _ _ _).trans (State.postK_latching _ _)⟩
  · exact ⟨(State.postK_pool _ _).trans (State.burstNotice_pool _ _ _),
      (State.postK_latching _ _).trans (State.burstNotice_latching _ _ _)⟩

end

/-- A failed check word at a fitted dock source. -/
theorem State.refusalRecords_recorded_mismatch {s : State} {x : Presentation} {r : Reason} {d : DockIx}
    (h : Mismatched s x r d) : RefusalRecorded s (s.refusalRecords x r) x r := by
  obtain ⟨rfl, hsource, hfit⟩ := id h
  have honly : ∀ j, Mismatched s x .checkMismatch j ↔ j = d := by
    refine fun j => ⟨fun hj => ?_, fun hj => hj ▸ h⟩
    obtain ⟨-, hj, -⟩ := hj
    rw [hsource] at hj
    exact (Option.some.inj hj).symm
  have hrecords : s.refusalRecords x .checkMismatch =
      s.mismatchRecords x d (decisionRecord x .checkMismatch none none) := by
    unfold State.refusalRecords
    cases horigin : x.origin with
    | kiosk p =>
      rw [horigin] at hsource
      cases hsource
    | dock d' q =>
      rw [horigin] at hsource
      cases hsource
      rfl
  rw [hrecords]
  obtain ⟨hpool, hlatch⟩ := State.mismatchRecords_frame (decisionRecord x .checkMismatch none none) hfit x
  have hcases := State.mismatchRecords_cases hfit x (decisionRecord x .checkMismatch none none)
  have hdock := s.countMismatch_dock d
  have hself : (s.countMismatch d).dock d = _ := (hdock d).trans (if_pos rfl)
  refine ⟨SameStation.trans (SameStation.refl s) hpool.station, hpool.creds, hpool.rides, hpool.releaseQ, hpool.grants,
    hpool.lineA, hpool.lineB, PortsKept.trans (PortsKept.refl s) hpool.ports,
    Latching.trans (t := s.countMismatch d) (.of_ports rfl rfl) hlatch, fun j => ?_, fun hidle => ?_, fun j hburst hlevel hsup hroom => ?_⟩
  · rw [hpool.dock, hdock]
    by_cases hj : j = d
    · rw [if_pos hj, if_pos ((honly j).mpr hj), if_pos ((honly j).mpr hj), hj]
    · rw [if_neg hj, if_neg (fun a => hj ((honly j).mp a)), if_neg (fun a => hj ((honly j).mp a))]
  · have hnone : ¬ s.settings.burst ≤ ((s.countMismatch d).dock d).mismatch ∨ s.level .authBurst = 0 ∨
        s.suppressed (.dock d) .authBurst = true := by
      rw [hself]
      exact (hidle d).imp (fun a hdue => a ⟨h, hdue⟩) id
    obtain ⟨hfirst, hsecond⟩ := State.burst_idle (s := s.countMismatch d) (c := x.token.cred)
      (decisionRecord x .checkMismatch none none) hnone
    have heq : s.mismatchRecords x d (decisionRecord x .checkMismatch none none) =
        (s.countMismatch d).postK (decisionRecord x .checkMismatch none none) := by
      rcases hcases with e | e
      · exact e.trans hfirst
      · exact e.trans hsecond
    rw [heq]
    exact State.postK_pooled rfl _
  · obtain ⟨hj, hdue⟩ := hburst
    obtain rfl := (honly j).mp hj
    obtain ⟨m, n, rest, hfree⟩ : ∃ m n rest, s.free = m :: n :: rest := by
      match hf : s.free with
      | [] => rw [hf] at hroom; simp at hroom
      | [_] => rw [hf] at hroom; simp at hroom
      | m :: n :: rest => exact ⟨m, n, rest, rfl⟩
    have hbody : (s.countMismatch j).burstBody j x.token.cred = .notice (.dock j) s.minute s.second
        (.authBurst (mismatchAfter (s.dock j)) x.token.cred (holdAfter s.settings.burst (s.dock j))) := by
      unfold State.burstBody
      rw [hself]
      rfl
    have hposts := State.burst_posts (s := s.countMismatch j) (c := x.token.cred)
      (decisionRecord x .checkMismatch none none) (by rw [hself]; exact hdue) hlevel hsup hfree
    rw [hbody] at hposts
    rcases hcases with e | e <;> rw [e]
    · exact hposts.1
    · exact hposts.2

theorem State.refusalRecords_recorded (s : State) (x : Presentation) (r : Reason) :
    RefusalRecorded s (s.refusalRecords x r) x r := by
  by_cases h : ∃ d, Mismatched s x r d
  · obtain ⟨d, hd⟩ := h
    exact State.refusalRecords_recorded_mismatch hd
  · exact State.refusalRecords_recorded_plain (fun d hd => h ⟨d, hd⟩)

/-! ## The SHOW of a refusal (R60) -/

/-- The SHOW of a refusal at a dock source is set, or dropped where another command stands (R60). -/
theorem State.showRefuse_cases (s : State) (d : DockIx) (q : Byte) :
    (s.showRefuse (.dock d q) = s ∧ refusedPending (s.dock d) q = (s.dock d).pending) ∨
    (s.showRefuse (.dock d q) = s.setPending d (.showCmd .refuse q) ∧
      refusedPending (s.dock d) q = .showCmd .refuse q) := by
  unfold State.showRefuse refusedPending
  dsimp only
  cases (s.dock d).state with
  | unfitted => exact .inl ⟨rfl, rfl⟩
  | queued =>
    cases (s.dock d).pending with
    | none => exact .inr ⟨rfl, rfl⟩
    | openCmd | closeCmd | showCmd => exact .inl ⟨rfl, rfl⟩
  | unknown | empty | docked | releasing | relatching | faulted =>
    cases (s.dock d).pending with
    | none | showCmd => exact .inr ⟨rfl, rfl⟩
    | openCmd | closeCmd => exact .inl ⟨rfl, rfl⟩

/-- What the SHOW of a refusal leaves. -/
structure RefusalShown (s t : State) (o : Origin) : Prop where
  frame  : LineFrame s t
  trace  : LineTrace s t
  source : ∀ (d : DockIx) (q : Byte), o = .dock d q → (t.dock d).pending = refusedPending (s.dock d) q
  others : ∀ d : DockIx, o.source ≠ some d → (t.dock d).pending = (s.dock d).pending ∨
    (s.dock d).pending = .none ∧ (t.dock d).pending = .openCmd
  still  : (∀ d : DockIx, o.source = some d → (s.line (lineOf d)).state ≠ .quiet) →
    (∀ d : DockIx, o.source ≠ some d → (t.dock d).pending = (s.dock d).pending) ∧ t.grants = s.grants ∧
    t.releaseQ = s.releaseQ ∧ t.lineA = s.lineA ∧ t.lineB = s.lineB
  issued : GrantsIssued s → (∀ d : DockIx, o.source ≠ some d → (t.dock d).pending = (s.dock d).pending) ∧
    t.grants = s.grants ∧ t.releaseQ = s.releaseQ

/-- Where no SHOW is sent nothing changes. -/
theorem RefusalShown.none {s : State} {o : Origin}
    (h : ∀ (d : DockIx) (q : Byte), o = .dock d q → refusedPending (s.dock d) q = (s.dock d).pending) :
    RefusalShown s s o where
  frame := LineFrame.refl s
  trace := LineTrace.refl s
  source d q hd := (h d q hd).symm
  others _ _ := .inl rfl
  still _ := ⟨fun _ _ => rfl, rfl, rfl, rfl, rfl⟩
  issued _ := ⟨fun _ _ => rfl, rfl, rfl⟩

/-- On a line that is not QUIET a pending command changes its dock's record alone (R109). -/
theorem State.setPending_still {s : State} {d : DockIx} (h : (s.line (lineOf d)).state ≠ .quiet) (c : Pending) :
    s.setPending d c = s.updDock d (fun x => { x with pending := c }) := by
  unfold State.setPending State.markPending
  dsimp only
  rw [if_neg h, if_neg h]

/-- The SHOW at the dock source. -/
theorem RefusalShown.show {s : State} {d : DockIx} {q : Byte}
    (h : refusedPending (s.dock d) q = .showCmd .refuse q) :
    RefusalShown s (s.setPending d (.showCmd .refuse q)) (.dock d q) := by
  have hne : (Pending.showCmd .refuse q) ≠ .none := Pending.noConfusion
  have hother : ∀ j : DockIx, (Origin.dock d q).source ≠ some j → j ≠ d := by
    rintro j hj rfl
    exact hj rfl
  refine ⟨s.setPending_frame d _, s.setPending_trace d hne, fun j q' hj => ?_, fun j hj => ?_, fun hstill => ?_,
    fun hissued => ?_⟩
  · cases hj
    rw [State.setPending_dock hne, h]
  · exact (s.setPending_docksKept d _ j (by simpa using hother j hj)).2
  · rw [State.setPending_still (hstill d rfl)]
    refine ⟨fun j hj => ?_, rfl, rfl, rfl, rfl⟩
    rw [State.dock_updDock, if_neg (hother j hj)]
  · rw [hissued.setPending]
    refine ⟨fun j hj => ?_, State.markPending_grants _ _ _, State.markPending_releaseQ _ _ _⟩
    rw [State.markPending_dock, if_neg (hother j hj)]

theorem State.showRefuse_shown (s : State) (o : Origin) : RefusalShown s (s.showRefuse o) o := by
  cases o with
  | kiosk p => exact RefusalShown.none (fun d q hd => by cases hd)
  | dock d q =>
    rcases s.showRefuse_cases d q with ⟨e, h⟩ | ⟨e, h⟩ <;> rw [e]
    · refine RefusalShown.none (fun d' q' hd => ?_)
      cases hd
      exact h
    · exact RefusalShown.show h

theorem refusedPending_congr {x y : Dock} (hstate : x.state = y.state) (hpend : x.pending = y.pending) (q : Byte) :
    refusedPending x q = refusedPending y q := by
  unfold refusedPending
  rw [hstate, hpend]

/-! ## The whole of a refusal -/

/-- A state that differs in presentation queue, hold-off and credential entries alone. -/
def State.withQueue (s : State) (q : List Presentation) (hold : Bool) (creds : List Cred) : State :=
  { s with queue := q, holdOff := hold, creds := creds }

theorem State.refuse_refused (s : State) (x : Presentation) (rest : List Presentation) (r : Reason) (creds : List Cred)
    (n : Nat) : Refused s (latchStoreLow n
      ((s.withQueue rest (s.holdOff && decide (s.settings.low < rest.length)) creds).refuse x r)) x rest r := by
  rw [State.refuse_eq]
  have hrec := (s.withQueue rest (s.holdOff && decide (s.settings.low < rest.length)) creds).refusalRecords_recorded x r
  generalize (s.withQueue rest (s.holdOff && decide (s.settings.low < rest.length)) creds).refusalRecords x r = s1 at hrec
  have hshow := s1.showRefuse_shown x.origin
  generalize s1.showRefuse x.origin = s2 at hshow
  have hlow := latchStoreLow_sameTables n s2
  have hdock1 : ∀ d, s1.dock d = { s.dock d with
      mismatch := if Mismatched s x r d then mismatchAfter (s.dock d) else (s.dock d).mismatch
      hold := if Mismatched s x r d then holdAfter s.settings.burst (s.dock d) else (s.dock d).hold } := hrec.docks
  have hpend1 : ∀ d, (s1.dock d).pending = (s.dock d).pending := fun d => by rw [hdock1]
  have hline1 : ∀ l, s1.line l = s.line l := State.line_of_eq hrec.lineA hrec.lineB
  have hissued1 : GrantsIssued s → GrantsIssued s1 := fun h =>
    h.congr hrec.station.1.2.2.2.2.2.2.2.1 hrec.grants hrec.releaseQ (fun d => by unfold State.lineRuns; rw [hline1])
  obtain ⟨hfree, hlistN, hlistK⟩ := hshow.frame.pool
  obtain ⟨hbase, hqueue, hhold⟩ := SameStation.trans (SameStation.trans hrec.station hshow.frame.station) hlow.station
  have htrace : LineTrace s s2 := by
    refine LineTrace.trans (t := s1) ⟨fun d => State.fitted_of_dock (by rw [hdock1]), fun d => .inl (hpend1 d),
      fun l _ => hline1 l, fun l _ => .inl ⟨hline1 l, fun a => hpend1 _⟩, fun h => ?_⟩ hshow.trace
    exact hrec.latching.keepsN h
  refine ⟨hqueue, hhold, ?_, hbase, ?_, fun d => ?_, fun d q hd => ?_, fun d hd => ?_, fun hstill => ?_,
    fun hissued => ?_, (htrace.storeLow n).linesFollow, fun hidle => ?_, fun d hburst hlevel hsup hroom => ?_⟩
  · rw [hlow.rides, hshow.frame.rides]
    exact hrec.rides
  · exact PortsKept.trans (PortsKept.trans hrec.ports hshow.frame.ports) (latchStoreLow_pool n s2).ports
  · rw [hlow.dock, hshow.frame.dock d, hdock1]
  · rw [hlow.dock, hshow.source d q hd]
    exact refusedPending_congr (by rw [hdock1]) (hpend1 d) q
  · rw [hlow.dock, ← hpend1]
    exact hshow.others d hd
  · obtain ⟨hothers, hgrants, hreleaseQ, hlineA, hlineB⟩ := hshow.still (fun d hd => by rw [hline1]; exact hstill d hd)
    refine ⟨fun d hd => ?_, ?_, ?_, ?_, ?_⟩
    · rw [hlow.dock, hothers d hd, hpend1]
    · exact (hlow.grants.trans hgrants).trans hrec.grants
    · exact (hlow.releaseQ.trans hreleaseQ).trans hrec.releaseQ
    · exact (hlow.lineA.trans hlineA).trans hrec.lineA
    · exact (hlow.lineB.trans hlineB).trans hrec.lineB
  · obtain ⟨hothers, hgrants, hreleaseQ⟩ := hshow.issued (hissued1 hissued)
    refine ⟨fun d hd => ?_, (hlow.grants.trans hgrants).trans hrec.grants,
      (hlow.releaseQ.trans hreleaseQ).trans hrec.releaseQ⟩
    rw [hlow.dock, hothers d hd, hpend1]
  · have hidle' : ∀ d, ¬ BurstDue s x r d ∨ s.level .authBurst = 0 ∨ s.suppressed (.dock d) .authBurst = true := hidle
    obtain ⟨hpool, hlist, hover⟩ := hrec.quiet hidle'
    refine ⟨?_, (hlow.listN.trans hlistN).trans hlist, fun hf hk => ?_⟩
    · rw [hlow.free, hlow.listK, hfree, hlistK]
      exact hpool
    · refine latchStoreLow_latched_k ?_ n
      rw [hshow.frame.portK]
      exact hover hf hk
  · obtain ⟨hposted, slot, hslot, hnotice⟩ := hrec.burst d hburst hlevel hsup hroom
    refine ⟨?_, slot, hslot, ?_⟩
    · unfold PostedK
      rw [hlow.listK, hlistK]
      exact hposted
    · unfold PostedN
      rw [hlow.listN, hlistN]
      exact hnotice

end Sys2Proof.Machine

namespace Sys2Proof.Proofs

open Sys2Proof.Machine

/-- Settles O21: the checks answer the reason, and what the refusal leaves is the law of its records and its SHOW. -/
theorem refusedDecision : Obligations.RefusedDecision := by
  intro s x rest r hq
  have hexec : exec .admissionDecision s = .next (latchStoreLow s.free.length (s.dequeue.decideOn x)) := by
    show execAdmissionDecision s = _
    rw [execAdmissionDecision, event_eq, hq]
  have hdequeue : s.dequeue = s.withQueue rest (s.holdOff && decide (s.settings.low < rest.length)) s.creds := by
    unfold State.dequeue
    rw [hq]
    rfl
  refine ⟨fun hfails => ?_, fun e hpass hfails => ?_⟩
  · have hcheck : tokenChecks s.dequeue x.token = .error r := hfails.tokenChecks
    have hdecide : s.dequeue.decideOn x = s.dequeue.refuse x r := by
      unfold State.decideOn
      rw [hcheck]
    rw [hdecide, hdequeue] at hexec
    refine ⟨_, hexec, ?_, s.refuse_refused x rest r s.creds _⟩
    rw [(latchStoreLow_pool _ _).creds, State.refuse_creds]
    rfl
  · have hcheck : tokenChecks s.dequeue x.token = .ok e := hpass.tokenChecks
    have hlater : laterChecks s.dequeue x.origin e = .error r := hfails.laterChecks
    have hdecide : s.dequeue.decideOn x = (s.dequeue.spend x.token).refuse x r := by
      unfold State.decideOn
      rw [hcheck]
      dsimp only
      rw [hlater]
    rw [hdecide, hdequeue] at hexec
    refine ⟨_, hexec, ?_, s.refuse_refused x rest r _ _⟩
    rw [(latchStoreLow_pool _ _).creds, State.refuse_creds]
    rfl

end Sys2Proof.Proofs
end

section
/-! PROOFS. An admission: the ride aged out, the number, the entry, the dock, the grant, the SHOW and the record (R54, R56
to R60, R65, R67, R108, R109). -/

namespace Sys2Proof.Machine

/-! ## The ride number (R65) -/

theorem numberAfter_eq (k : Nat) (n : RideNo) : numberAfter k n = nextNumber^[k] n := by
  induction k generalizing n with
  | zero => rfl
  | succ k ih => exact ih (nextNumber n)

/-- With room in the table the search gives the first number in turn that no ride holds (R65). -/
theorem freeNumber_numberAfter {s : State} (hl : s.rides.length < 65535) (hn : s.nextRide ≠ 0#16) :
    ∃ k, freeNumber s (s.rides.length + 1) s.nextRide = numberAfter k s.nextRide ∧ numberAfter k s.nextRide ≠ 0#16 ∧
      (∀ y ∈ s.rides, y.number ≠ numberAfter k s.nextRide) ∧
      ∀ j < k, ∃ y ∈ s.rides, y.number = numberAfter j s.nextRide := by
  obtain ⟨k, -, hfound, hheld, -⟩ := freeNumber_cases s (s.rides.length + 1) s.nextRide
  obtain ⟨hfree, hne⟩ := freeNumber_free hl hn
  rw [hfound, ← numberAfter_eq] at hfree hne
  refine ⟨k, by rw [hfound, numberAfter_eq], hne, fun y hy => ?_, fun j hj => ?_⟩
  · simpa using List.find?_eq_none.mp hfree y hy
  · obtain ⟨y, hy⟩ := Option.ne_none_iff_exists'.mp (hheld j hj)
    obtain ⟨hmem, hnumber⟩ := State.findRide_some hy
    exact ⟨y, hmem, hnumber.trans (numberAfter_eq j _).symm⟩

/-! ## The ride aged out (R67) -/

theorem oldestOpen_eq (now : Minute) (xs : List Ride) :
    oldestOpen now xs = (xs.filter (fun r => decide (r.state = .opened))).foldl (firstLargest (takeUpAge now)) none := by
  have hstep : (fun (best : Option Ride) (r : Ride) => match best with
      | none => some r
      | some b => if takeUpAge now b < takeUpAge now r then some r else some b) = firstLargest (takeUpAge now) := by
    funext best r
    cases best <;> rfl
  exact congrArg (fun step => List.foldl step none _) hstep

theorem AgedOut.oldestOpen {s : State} {r : Ride} (h : AgedOut s (some r)) (hsorted : RidesSorted s) :
    Machine.oldestOpen s.minute s.rides = some r := by
  obtain ⟨-, hmem, hopen, hfirst⟩ := h
  rw [oldestOpen_eq]
  refine foldl_firstLargest_sorted (key := fun r : Ride => r.number.toNat)
    (List.mem_filter.mpr ⟨hmem, decide_eq_true hopen⟩) (List.Pairwise.filter _ hsorted) (fun y hy => ?_)
  obtain ⟨hy, ho⟩ := List.mem_filter.mp hy
  exact hfirst y hy (of_decide_eq_true ho)

/-- What making room for one ride more leaves. -/
structure RoomMade (s t : State) (aged : Option Ride) : Prop where
  rest  : t = { s with creds := t.creds, rides := t.rides, listN := t.listN }
  rides : t.rides = ridesLeft s aged
  fits  : t.rides.length < 256
  whole : aged = none → t = s
  cred  : ∀ r, aged = some r → ∀ c, t.findCred c =
    if c = r.cred then (s.findCred c).bind cancelledEntry else s.findCred c
  trip  : ∀ (r : Ride) (e : Cred) (rel : Minute), aged = some r → s.findCred r.cred = some e → r.release = some rel →
    t.listN = insertTail ⟨r.slot, ⟨(s.level .agedOut).val, s.clockSet,
      .trip .agedOut (settledTrip r none s.minute (agedFigures e rel s.minute) r.late false)⟩⟩ s.listN

theorem State.endRideOf_eq (s : State) (c : CredNo) : s.endRideOf c = { s with creds := (s.endRideOf c).creds } := by
  unfold State.endRideOf
  split
  · rfl
  · split <;> rfl

theorem ageFigures_eq (e : Cred) (release now : Minute) :
    ageFigures e.balance release now = agedFigures e release now := by
  unfold ageFigures agedFigures rideDuration
  dsimp only
  generalize (now - release).toNat = age
  by_cases h : age < 32768
  · rw [if_pos h, if_pos (Nat.le_of_lt_succ h), decide_eq_false (Nat.not_le.mpr h)]
  · rw [if_neg h, if_neg (fun a => h (Nat.lt_succ_of_le a)), decide_eq_true (Nat.not_lt.mp h)]

/-- The OPEN ride taken up longest ago leaves the table with its AGED_OUT record. -/
theorem AgedOut.ageOut {s : State} {r : Ride} (h : AgedOut s (some r)) (hsorted : RidesSorted s) :
    RoomMade s s.ageOut (some r) := by
  have hrest := s.endRideOf_eq r.cred
  have hlen := State.ageOut_length_lt h.2.1 h.2.2.1
  rw [h.1] at hlen
  unfold State.ageOut at hlen ⊢
  rw [h.oldestOpen hsorted] at hlen ⊢
  dsimp only at hlen ⊢
  refine ⟨?_, ?_, hlen, fun hnone => (by cases hnone), fun r' hr c => ?_, fun r' e rel hr he hrel => ?_⟩
  · unfold State.dropRide State.postN
    rw [hrest]
  · unfold State.dropRide State.postN
    rw [hrest]
    rfl
  · cases hr
    show (s.endRideOf r.cred).findCred c = _
    rw [State.findCred_endRideOf]
    by_cases hc : c = r.cred
    · rw [if_pos hc, if_pos hc, hc]
    · rw [if_neg hc, if_neg hc]
  · cases hr
    have hlist : (s.endRideOf r.cred).listN = s.listN := (State.endRideOf_pool s r.cred).2.1
    have hframe := (s.endRideOf_ride r.cred).station.1
    show insertTail _ (s.endRideOf r.cred).listN = _
    rw [hlist, he, hrel]
    dsimp only [Option.getD_some]
    rw [ageFigures_eq, State.level, hframe.2.2.2.2.2.2.1, hframe.2.2.1]
    rfl

theorem AgedOut.withRoom {s : State} {aged : Option Ride} (h : AgedOut s aged) (hsorted : RidesSorted s) :
    RoomMade s s.withRoom aged := by
  unfold State.withRoom
  cases aged with
  | none =>
    have hroom : s.rides.length < 256 := h
    rw [if_neg (Nat.not_le.mpr hroom)]
    exact ⟨rfl, rfl, hroom, fun _ => rfl, fun r hr => (by cases hr), fun r _ _ hr => (by cases hr)⟩
  | some r =>
    have hfull : s.rides.length = 256 := h.1
    rw [if_pos (Nat.le_of_eq hfull.symm)]
    exact h.ageOut hsorted

/-! ## The writes of an admission before its grant (R56 to R58) -/

/-- The station with the new ride, its entry counted, its dock QUEUED and last in the release queue. -/
def State.admitting (s : State) (x : Presentation) (e : Cred) (d : DockIx) (n : RideNo) (slot : Nat) (rest : List Nat) :
    State :=
  let s2 := { s with free := rest, nextRide := nextNumber n }
  let s3 := (s2.putRide (newRide s x e d n slot)).updCred x.token.cred (fun c => { c with openRides := c.openRides + 1 })
  let s4 := s3.queueDock x.origin d
  { s4 with releaseQ := s4.releaseQ ++ [⟨d, n, false⟩] }

theorem State.admitRide_eq {s : State} {slot : Nat} {rest : List Nat} (h : s.withRoom.free = slot :: rest)
    (x : Presentation) (e : Cred) (d : DockIx) :
    s.admitRide x e d =
      (let n := freeNumber s.withRoom (s.withRoom.rides.length + 1) s.withRoom.nextRide
       (((s.withRoom.admitting x e d n slot rest).issueGrants).postK
         (decisionRecord x .admitted (some n) (some d))).showAdmitted x.origin) := by
  have hroom : s.admitRide x e d = (match s.withRoom.free with
    | [] => s.withRoom
    | slot :: rest =>
      let n := freeNumber s.withRoom (s.withRoom.rides.length + 1) s.withRoom.nextRide
      (((s.withRoom.admitting x e d n slot rest).issueGrants).postK
        (decisionRecord x .admitted (some n) (some d))).showAdmitted x.origin) := rfl
  rw [hroom, h]

/-! ## The grant of an admission (R108) -/

/-- Where no grant was left unissued, an entry that joins the queue is granted exactly when one is free and its line
runs. -/
theorem granting_appended {s t : State} (h : GrantsIssued s) {d : DockIx} {n : RideNo}
    (hq : t.releaseQ = s.releaseQ ++ [⟨d, n, false⟩]) (hg : t.grants = s.grants) (hset : t.settings = s.settings)
    (hr : ∀ j, t.lineRuns j = s.lineRuns j) :
    t.granting = if s.grants.length < s.settings.budget ∧ s.lineRuns d = true then [d] else [] := by
  have hwait : t.waiting = s.waiting ++ [d] := by
    unfold State.waiting
    rw [hq]
    simp
  unfold State.granting
  rw [hwait, hg, hset, funext hr, List.filter_append]
  rcases h with hfull | hidle
  · rw [Nat.sub_eq_zero_of_le hfull, List.take_zero, if_neg (fun a => Nat.not_lt.mpr hfull a.1)]
  · have hnone : s.waiting.filter s.lineRuns = [] := by
      refine List.filter_eq_nil_iff.mpr (fun j hj => ?_)
      obtain ⟨e, he, hge, rfl⟩ := State.mem_waiting.mp hj
      rw [hidle e he hge]
      exact Bool.false_ne_true
    rw [hnone, List.nil_append]
    by_cases hline : s.lineRuns d = true
    · rw [List.filter_cons_of_pos hline, List.filter_nil]
      by_cases hroom : s.grants.length < s.settings.budget
      · rw [if_pos ⟨hroom, hline⟩, List.take_of_length_le (by rw [List.length_singleton]; omega)]
      · rw [if_neg (fun a => hroom a.1), Nat.sub_eq_zero_of_le (Nat.not_lt.mp hroom), List.take_zero]
    · rw [if_neg (fun a => hline a.2), List.filter_cons_of_neg hline, List.filter_nil, List.take_nil]

/-! ## The SHOW of an admission (R60) -/

/-- The pending command that an admission leaves at its dock. -/
def admittedPending (o : Origin) (granted : Bool) (p : Pending) : Pending :=
  match o with
  | .dock _ q => .showCmd (if granted then .accept else .wait) q
  | .kiosk _ => p

/-- What the SHOW of an admission leaves. -/
structure AdmissionShown (s t : State) (o : Origin) (d : DockIx) : Prop where
  frame    : LineFrame s t
  trace    : LineTrace s t
  grants   : t.grants = s.grants
  releaseQ : t.releaseQ = s.releaseQ
  docks    : ∀ j : DockIx, t.dock j =
    if j = d then { s.dock d with pending := admittedPending o (s.granted d) (s.dock d).pending } else s.dock j

theorem State.showAdmitted_shown {s : State} (h : GrantsIssued s) {o : Origin} {d : DockIx}
    (hd : ∀ d' q, o = .dock d' q → d' = d) : AdmissionShown s (s.showAdmitted o) o d := by
  cases o with
  | kiosk p =>
    refine ⟨LineFrame.refl s, LineTrace.refl s, rfl, rfl, fun j => ?_⟩
    split
    · next hj => rw [hj]; rfl
    · rfl
  | dock d' q =>
    obtain rfl := hd d' q rfl
    have hmark : s.showAdmitted (.dock d' q) = s.markPending d' (.showCmd (if s.granted d' then .accept else .wait) q) :=
      h.setPending d' _
    rw [hmark]
    exact ⟨s.markPending_frame d' _, s.markPending_trace d' Pending.noConfusion, s.markPending_grants d' _,
      s.markPending_releaseQ d' _, fun j => s.markPending_dock d' _ j⟩

/-! ## The whole of an admission -/

/-- A grant is free and the dock's line runs (R108). -/
def State.grantFree (s : State) (d : DockIx) : Bool :=
  decide (s.grants.length < s.settings.budget ∧ s.lineRuns d = true)

/-- The dock of an admission: QUEUED, the mismatch count of a dock source 0, with OPEN or the SHOW (R58, R60, R109). -/
def admittedDock (x : Dock) (o : Origin) (granted : Bool) : Dock :=
  { x with
    state := .queued
    mismatch := (match o with
      | .dock _ _ => 0
      | .kiosk _ => x.mismatch)
    pending := (match o with
      | .dock _ q => .showCmd (if granted then .accept else .wait) q
      | .kiosk _ => if granted ∧ x.pending = .none then .openCmd else x.pending) }

/-- What an admission leaves of the station it finds with room for it. -/
structure Admitted (s t : State) (x : Presentation) (e : Cred) (d : DockIx) (n : RideNo) (slot : Nat)
    (free : List Nat) : Prop where
  frame    : RideFrame { s with nextRide := nextNumber n } t
  ride     : ∀ m, t.findRide m = if m = n then some (newRide s x e d n slot) else s.findRide m
  cred     : ∀ c, t.findCred c =
    (s.findCred c).map (fun y => if c = x.token.cred then { y with openRides := y.openRides + 1 } else y)
  grants   : t.grants = s.grants ++ if s.grantFree d then [d] else []
  releaseQ : t.releaseQ = s.releaseQ ++ [⟨d, n, s.grantFree d⟩]
  docks    : ∀ j, t.dock j = if j = d then admittedDock (s.dock d) x.origin (s.grantFree d) else s.dock j
  pool     : (t.free, t.listK) = postPool free s.listK (decisionRecord x .admitted (some n) (some d))
  listN    : t.listN = s.listN
  dropped  : free = [] → s.listK = [] → Overflowed t .k
  trace    : LineTrace s t

/-- The dock of an admission before its grant. -/
def queuedDock (x : Dock) (o : Origin) : Dock :=
  { x with
    state := .queued
    mismatch := match o with
      | .dock _ _ => 0
      | .kiosk _ => x.mismatch }

theorem State.queueDock_dock (s : State) (o : Origin) (d j : DockIx) :
    (s.queueDock o d).dock j = if j = d then queuedDock (s.dock d) o else s.dock j := by
  have hqueue : s.queueDock o d = s.updDock d (fun y => queuedDock y o) := by
    unfold State.queueDock queuedDock
    cases o <;> rfl
  rw [hqueue, State.dock_updDock]

theorem State.admitting_dock (s : State) (x : Presentation) (e : Cred) (d : DockIx) (n : RideNo) (slot : Nat)
    (rest : List Nat) (j : DockIx) :
    (s.admitting x e d n slot rest).dock j = if j = d then queuedDock (s.dock d) x.origin else s.dock j := by
  show (State.queueDock _ x.origin d).dock j = _
  rw [State.queueDock_dock]
  rfl

theorem State.admitting_line (s : State) (x : Presentation) (e : Cred) (d : DockIx) (n : RideNo) (slot : Nat)
    (rest : List Nat) (l : Line) : (s.admitting x e d n slot rest).line l = s.line l :=
  State.line_of_eq rfl rfl l

/-- The grant procedure, the decision record and the SHOW, on the station with the new ride. -/
theorem State.admitting_admitted {s : State} {d : DockIx} (hissued : GrantsIssued s) (hgrant : d ∉ s.grants)
    (hqueue : ∀ y ∈ s.releaseQ, y.dock ≠ d) (hfit : (s.dock d).state = .docked) {x : Presentation}
    (hsource : ∀ d' q, x.origin = .dock d' q → d' = d) (e : Cred) (n : RideNo) (slot : Nat) (rest : List Nat) :
    Admitted s ((((s.admitting x e d n slot rest).issueGrants).postK
      (decisionRecord x .admitted (some n) (some d))).showAdmitted x.origin) x e d n slot rest := by
  have hruns : ∀ j, (s.admitting x e d n slot rest).lineRuns j = s.lineRuns j := fun j => by
    unfold State.lineRuns
    rw [State.admitting_line]
  have hgranting : (s.admitting x e d n slot rest).granting = if s.grantFree d then [d] else [] := by
    have happended := granting_appended (t := s.admitting x e d n slot rest) hissued (n := n) rfl rfl rfl hruns
    rw [happended, State.grantFree]
    simp only [decide_eq_true_eq]
  have hgranted := (s.admitting x e d n slot rest).issueGrants_granted
  rw [hgranting] at hgranted
  have hissued5 := (s.admitting x e d n slot rest).issueGrants_issued
  have hframe5 := (s.admitting x e d n slot rest).issueGrants_frame
  have htrace5 := (s.admitting x e d n slot rest).issueGrants_trace
  have hdock4 := s.admitting_dock x e d n slot rest
  have htrace4 : LineTrace s (s.admitting x e d n slot rest) := by
    refine .of_same (s.admitting_line x e d n slot rest) (fun j => ?_) (fun j => ?_) rfl
    · unfold State.fitted
      rw [hdock4]
      split
      · next hj => rw [hj, hfit]; rfl
      · rfl
    · rw [hdock4]
      split
      · next hj => rw [hj]; rfl
      · rfl
  generalize (s.admitting x e d n slot rest).issueGrants = s5 at hgranted hissued5 hframe5 htrace5 ⊢
  have hpool6 := s5.postK_pool (decisionRecord x .admitted (some n) (some d))
  have hpost6 := s5.postK_postPool (decisionRecord x .admitted (some n) (some d))
  have hlist6 := s5.postK_listN (decisionRecord x .admitted (some n) (some d))
  have hportN6 := s5.postK_portN (decisionRecord x .admitted (some n) (some d))
  have hdropped6 : s5.free = [] → s5.listK = [] →
      Overflowed (s5.postK (decisionRecord x .admitted (some n) (some d))) .k := by
    intro hf hk
    rw [State.postK_dropped hf hk]
    exact s5.latch_latched_k _
  generalize s5.postK (decisionRecord x .admitted (some n) (some d)) = s6 at hpool6 hpost6 hlist6 hportN6 hdropped6 ⊢
  have htrace6 : LineTrace s5 s6 := .of_same hpool6.line (fun j => State.fitted_of_dock (by rw [hpool6.dock]))
    (fun j => by rw [hpool6.dock]) hportN6
  have hissued6 : GrantsIssued s6 := hissued5.congr hpool6.station.1.2.2.2.2.2.2.2.1 hpool6.grants hpool6.releaseQ
    (fun j => by unfold State.lineRuns; rw [hpool6.line])
  have hshow := State.showAdmitted_shown hissued6 hsource
  have hgrants6 : s6.grants = s.grants ++ if s.grantFree d then [d] else [] := hpool6.grants.trans hgranted.grants
  have hholds : s6.granted d = s.grantFree d := by
    unfold State.granted
    rw [hgrants6]
    by_cases h : s.grantFree d = true
    · simp [h]
    · simp [h, hgrant]
  generalize s6.showAdmitted x.origin = s7 at hshow ⊢
  obtain ⟨hfree5, hlistN5, hlistK5⟩ := hframe5.pool
  obtain ⟨hfree7, hlistN7, hlistK7⟩ := hshow.frame.pool
  refine ⟨?_, fun m => ?_, fun c => ?_, hshow.grants.trans hgrants6, ?_, fun j => ?_, ?_, ?_, fun hf hk => ?_, ?_⟩
  · have hframe4 : RideFrame { s with nextRide := nextNumber n } (s.admitting x e d n slot rest) := .of_eq rfl
    exact (hframe4.trans hframe5.ride).trans (hpool6.ride.trans hshow.frame.ride)
  · unfold State.findRide
    rw [hshow.frame.rides, hpool6.rides, hframe5.rides]
    exact find_insertRide (newRide s x e d n slot) s.rides m
  · rw [hshow.frame.findCred, hpool6.findCred, hframe5.findCred]
    exact State.findCred_updCred s x.token.cred c (f := fun y => { y with openRides := y.openRides + 1 }) (fun _ => rfl)
  · have hqueue4 : (s.admitting x e d n slot rest).releaseQ = s.releaseQ ++ [⟨d, n, false⟩] := rfl
    have hold : s.releaseQ.map (fun y => { y with
        granted := y.granted || decide (y.dock ∈ if s.grantFree d then [d] else []) }) = s.releaseQ := by
      refine (List.map_congr_left (fun y hy => ?_)).trans (List.map_id _)
      by_cases h : s.grantFree d = true <;> simp [h, hqueue y hy]
    rw [hshow.releaseQ, hpool6.releaseQ, hgranted.queue, hqueue4, List.map_append, hold]
    by_cases h : s.grantFree d = true <;> simp [h]
  · rw [hshow.docks, hholds, hpool6.dock, hpool6.dock, hgranted.docks, hgranted.docks, hdock4, hdock4, if_pos rfl]
    by_cases hj : j = d
    · rw [if_pos hj, if_pos hj]
      unfold admittedDock admittedPending queuedDock
      cases x.origin <;> by_cases h : s.grantFree d = true <;> simp [h]
    · have hnot : j ∉ if s.grantFree d then [d] else [] := by
        by_cases h : s.grantFree d = true <;> simp [h, hj]
      rw [if_neg hj, if_neg hj, if_neg hj, if_neg (fun a => hnot a.1)]
  · rw [hfree7, hlistK7, hpost6, hfree5, hlistK5]
    rfl
  · rw [hlistN7, hlist6, hlistN5]
    rfl
  · show s7.portK.latched &&& _ = _
    rw [hshow.frame.portK]
    exact hdropped6 (hfree5.trans hf) (hlistK5.trans hk)
  · exact ((htrace4.trans htrace5).trans htrace6).trans hshow.trace

/-! ## What making room leaves alone -/

section
variable {s t : State} {aged : Option Ride} (h : RoomMade s t aged)
include h

theorem RoomMade.frame : RideFrame s t := .of_eq (by rw [h.rest])
theorem RoomMade.dock (d : DockIx) : t.dock d = s.dock d := by rw [h.rest]; rfl
theorem RoomMade.line (l : Line) : t.line l = s.line l := by rw [h.rest]; cases l <;> rfl
theorem RoomMade.lineRuns (d : DockIx) : t.lineRuns d = s.lineRuns d := by unfold State.lineRuns; rw [h.line]
theorem RoomMade.releaseQ : t.releaseQ = s.releaseQ := by rw [h.rest]
theorem RoomMade.grants : t.grants = s.grants := by rw [h.rest]
theorem RoomMade.free : t.free = s.free := by rw [h.rest]
theorem RoomMade.listK : t.listK = s.listK := by rw [h.rest]
theorem RoomMade.portN : t.portN = s.portN := by rw [h.rest]
theorem RoomMade.settings : t.settings = s.settings := by rw [h.rest]
theorem RoomMade.nextRide : t.nextRide = s.nextRide := by rw [h.rest]
theorem RoomMade.minute : t.minute = s.minute := by rw [h.rest]
theorem RoomMade.second : t.second = s.second := by rw [h.rest]

end

/-! ## The dock of an admission -/

theorem DockFor.passes {s : State} {mayHeld : Bool} {o : Origin} {d : DockIx} (h : DockFor s mayHeld o d) :
    DockPasses s mayHeld d := by
  match o with
  | .dock _ _ => exact h.2
  | .kiosk (some _) => exact h.2
  | .kiosk none => exact (show Chosen s mayHeld d from h).1.1

theorem DockFor.source {s : State} {mayHeld : Bool} {o : Origin} {d : DockIx} (h : DockFor s mayHeld o d) (d' : DockIx)
    (q : Byte) (ho : o = .dock d' q) : d' = d := by
  subst ho
  exact h.1.symm

/-- A DOCKED dock stands in neither the release queue nor the grant set (R105, R107). -/
theorem ReleaseQInv.docked {s : State} (hq : ReleaseQInv s) (hg : GrantSetInv s) {d : DockIx}
    (hd : (s.dock d).state = .docked) : d ∉ s.grants ∧ ∀ y ∈ s.releaseQ, y.dock ≠ d := by
  have hqueue : ∀ y ∈ s.releaseQ, y.dock ≠ d := by
    rintro y hy rfl
    rw [(hq.2.2 y hy).1] at hd
    cases hd
  refine ⟨fun hmem => ?_, hqueue⟩
  rcases hg.2.1 d hmem with h | ⟨y, hy, hyd, -⟩
  · rw [h] at hd
    cases hd
  · exact hqueue y hy hyd

/-! ## The decision that admits -/

/-- The entries with the counter of a token spent (R50). -/
def spentCreds (s : State) (x : Token) : List Cred :=
  s.creds.map (fun c => if c.number = x.cred then { c with counter := x.counter } else c)

/-- The station as an admission finds it: the head taken, the counter spent (R42, R50). -/
def State.deciding (s : State) (x : Presentation) (rest : List Presentation) : State :=
  s.withQueue rest (s.holdOff && decide (s.settings.low < rest.length)) (spentCreds s x.token)

theorem State.deciding_findCred (s : State) (x : Presentation) (rest : List Presentation) (c : CredNo) :
    (s.deciding x rest).findCred c =
      (s.findCred c).map (fun y => if c = x.token.cred then { y with counter := x.token.counter } else y) :=
  State.findCred_updCred s x.token.cred c (f := fun y => { y with counter := x.token.counter }) (fun _ => rfl)

theorem exec_admissionDecision_admits {s : State} {x : Presentation} {rest : List Presentation} {e : Cred} {d : DockIx}
    (hq : s.queue = x :: rest) (hpass : PassesFirstFive s x.token e) (hlast : PassesLastFive s x.origin e d) :
    exec .admissionDecision s = .next (latchStoreLow s.free.length ((s.deciding x rest).admitRide x e d)) := by
  have hcheck : tokenChecks s.dequeue x.token = .ok e := hpass.tokenChecks
  have hlater : laterChecks s.dequeue x.origin e = .ok d := hlast.laterChecks
  have hspent : s.dequeue.spend x.token = s.deciding x rest := by
    unfold State.dequeue
    rw [hq]
    rfl
  show execAdmissionDecision s = _
  rw [execAdmissionDecision, event_eq, hq]
  dsimp only
  unfold State.decideOn
  rw [hcheck]
  dsimp only
  rw [hlater]
  dsimp only
  rw [hspent]

/-! ## The entries after an admission (R22, R50, R56, R67) -/

section
variable {s s1 t : State} {x : Presentation} {rest : List Presentation} {e : Cred} {aged : Option Ride}
  (hroom : RoomMade (s.deciding x rest) s1 aged) (hfind : s.findCred x.token.cred = some e)
  (hcred : ∀ c, t.findCred c =
    (s1.findCred c).map (fun y => if c = x.token.cred then { y with openRides := y.openRides + 1 } else y))
include hroom hfind hcred

theorem admitted_cred_whole (hnone : aged = none) :
    t.findCred x.token.cred = some { e with counter := x.token.counter, openRides := e.openRides + 1 } ∧
    ∀ c, c ≠ x.token.cred → t.findCred c = s.findCred c := by
  have hsame := hroom.whole hnone
  refine ⟨?_, fun c hc => ?_⟩
  · rw [hcred, hsame, State.deciding_findCred, hfind]
    simp
  · rw [hcred, hsame, State.deciding_findCred]
    simp [hc]

theorem admitted_cred_aged (hactive : e.state = .active) {r : Ride} {ea : Cred} (hr : aged = some r)
    (hea : s.findCred r.cred = some ea) :
    t.findCred x.token.cred = some { e with
      counter := x.token.counter
      openRides := (if r.cred = x.token.cred then e.openRides - 1 else e.openRides) + 1 } ∧
    (r.cred ≠ x.token.cred → t.findCred r.cred = cancelledEntry ea) ∧
    ∀ c, c ≠ x.token.cred → c ≠ r.cred → t.findCred c = s.findCred c := by
  refine ⟨?_, fun hne => ?_, fun c hc hcr => ?_⟩
  · rw [hcred, hroom.cred r hr, State.deciding_findCred, hfind]
    by_cases h : r.cred = x.token.cred
    · simp [h, cancelledEntry, hactive]
    · simp [h, Ne.symm h]
  · rw [hcred, hroom.cred r hr, if_pos rfl, State.deciding_findCred, hea]
    simp [hne]
  · rw [hcred, hroom.cred r hr, if_neg hcr, State.deciding_findCred]
    simp [hc]

end

/-- The entry whose ride is aged out keeps its balance through the decision. -/
theorem agedTrip_deciding {s : State} {x : Presentation} {rest : List Presentation} {c : CredNo} {ea : Cred}
    (hea : s.findCred c = some ea) (rel : Minute) :
    ∃ e0, (s.deciding x rest).findCred c = some e0 ∧ agedFigures e0 rel s.minute = agedFigures ea rel s.minute := by
  rw [State.deciding_findCred, hea]
  refine ⟨_, rfl, ?_⟩
  dsimp only
  split <;> rfl

end Sys2Proof.Machine

namespace Sys2Proof.Proofs

open Sys2Proof.Machine

/-- Settles O22: room is made, then the law of an admission gives number, ride, entry, dock, grant, SHOW and record. -/
theorem admissionAtDock : Obligations.AdmissionAtDock := by
  intro s d x rest e slot free aged hq hpass hlast hsorted hqinv hginv hissued hnext hfree haged
  dsimp only
  have hexec := exec_admissionDecision_admits hq hpass hlast
  obtain ⟨hactive, hdock, -⟩ := hlast
  have hdocked := hdock.passes.1
  obtain ⟨hgrant, hqueue⟩ := ReleaseQInv.docked hqinv hginv hdocked
  have hroom : RoomMade (s.deciding x rest) (s.deciding x rest).withRoom aged := AgedOut.withRoom haged hsorted
  have hfree1 : (s.deciding x rest).withRoom.free = slot :: free := hroom.free.trans hfree
  rw [State.admitRide_eq hfree1] at hexec
  generalize (s.deciding x rest).withRoom = s1 at hroom hfree1 hexec
  have hnext1 : s1.nextRide = s.nextRide := hroom.nextRide
  have hissued1 : GrantsIssued s1 := GrantsIssued.congr (s := s) hissued hroom.settings hroom.grants hroom.releaseQ
    hroom.lineRuns
  obtain ⟨k, hnumber, hne, hfresh, hheld⟩ := freeNumber_numberAfter (s := s1) (Nat.lt_trans hroom.fits (by decide))
    (hnext1.symm ▸ hnext)
  rw [hnumber] at hexec
  rw [hnext1] at hne hfresh hheld hexec
  dsimp only at hexec
  have hadmitted := State.admitting_admitted (d := d) hissued1 (hroom.grants.symm ▸ hgrant) (hroom.releaseQ.symm ▸ hqueue)
    (by rw [hroom.dock]; exact hdocked) (x := x) hdock.source e (numberAfter k s.nextRide) slot free
  generalize (((s1.admitting x e d (numberAfter k s.nextRide) slot free).issueGrants).postK
    (decisionRecord x .admitted (some (numberAfter k s.nextRide)) (some d))).showAdmitted x.origin = s7 at hexec hadmitted
  have hlow := latchStoreLow_sameTables s.free.length s7
  have hdock1 : ∀ j, s1.dock j = s.dock j := hroom.dock
  have hfree1 : s1.grantFree d = decide (s.grants.length < s.settings.budget ∧ s.lineRuns d = true) := by
    unfold State.grantFree
    rw [hroom.grants, hroom.settings, hroom.lineRuns]
    rfl
  have hdock7 := hadmitted.docks
  have hqueue7 := hadmitted.releaseQ
  have hgrants7 := hadmitted.grants
  rw [hfree1] at hdock7 hqueue7 hgrants7
  obtain ⟨⟨hmin, hsec, -, hclass, hsweep, hnext7, hlevels, hset, -⟩, hqueue', hhold'⟩ :=
    SameStation.trans hadmitted.frame.station hlow.station
  have hrides1 : s1.rides = ridesLeft s aged := hroom.rides
  have hstation1 := hroom.frame.station
  have hride : ∀ m, (latchStoreLow s.free.length s7).findRide m = s7.findRide m := fun m => by
    unfold State.findRide
    rw [hlow.rides]
  have hmem : d ∈ s7.grants ↔ s.grants.length < s.settings.budget ∧ s.lineRuns d = true := by
    rw [hgrants7, hroom.grants]
    by_cases h : s.grants.length < s.settings.budget ∧ s.lineRuns d = true
    · simp [h]
    · rw [decide_eq_false h]
      have hnot : d ∉ (s.deciding x rest).grants := hgrant
      simpa [h] using hnot
  refine ⟨_, k, hexec, ⟨hne, hrides1 ▸ hfresh, hrides1 ▸ hheld, hnext7⟩, ?_, fun m hm => ?_, fun hnone => ?_,
    fun r ea rel hr hea hrel => ?_, ?_, ?_, ?_, fun d' hd' => ?_, ?_, ?_, fun d' hd' => ?_, ?_, fun hf hk => ?_, ?_, ?_,
    ?_, ?_, ?_, ?_, ?_, ?_⟩
  · rw [hride, hadmitted.ride, if_pos rfl]
    unfold newRide
    rw [hdock1, hroom.minute, hroom.second, hroom.settings]
    rfl
  · rw [hride, hadmitted.ride, if_neg hm]
    unfold State.findRide
    rw [hrides1]
  · obtain ⟨hself, hothers⟩ := admitted_cred_whole hroom hpass.2.2.1 hadmitted.cred hnone
    refine ⟨(hlow.findCred _).trans hself, fun c hc => (hlow.findCred c).trans (hothers c hc), ?_⟩
    rw [hlow.listN, hadmitted.listN, hroom.whole hnone]
    rfl
  · obtain ⟨hself, hrider, hothers⟩ := admitted_cred_aged hroom hpass.2.2.1 hadmitted.cred hactive hr hea
    obtain ⟨e0, he0, hfigures⟩ := agedTrip_deciding (x := x) (rest := rest) hea rel
    have htrip : s1.listN = insertTail ⟨r.slot, ⟨(s.level .agedOut).val, s.clockSet,
        .trip .agedOut (settledTrip r none s.minute (agedFigures ea rel s.minute) r.late false)⟩⟩ s.listN := by
      rw [← hfigures]
      exact hroom.trip r e0 rel hr he0 hrel
    refine ⟨(hlow.findCred _).trans hself, fun hc => (hlow.findCred _).trans (hrider hc),
      fun c hc hcr => (hlow.findCred c).trans (hothers c hc hcr), ?_, ?_⟩
    · unfold PostedN
      rw [hlow.listN, hadmitted.listN, htrip]
      exact mem_insertTail.mpr (.inl rfl)
    · rw [hlow.listN, hadmitted.listN, htrip]
      exact length_insertTail _ _
  · rw [hqueue', hstation1.2.1]
    rfl
  · rw [hhold', hstation1.2.2]
    rfl
  · rw [hlow.grants]
    exact hmem
  · rw [hlow.grants, hgrants7, hroom.grants]
    split <;> simp [hd', State.deciding, State.withQueue]
  · have hdecide : decide (d ∈ (latchStoreLow s.free.length s7).grants) =
        decide (s.grants.length < s.settings.budget ∧ s.lineRuns d = true) := by
      rw [hlow.grants]
      exact decide_eq_decide.mpr hmem
    rw [hdecide, hlow.releaseQ, hqueue7, hroom.releaseQ]
    rfl
  · rw [hlow.dock, hdock7, if_pos rfl, hdock1]
    unfold admittedDock
    cases x.origin <;> simp
  · rw [hlow.dock, hdock7, if_neg hd', hdock1]
  · rw [hlow.free, hlow.listK, hadmitted.pool, hroom.listK]
    rfl
  · exact latchStoreLow_latched_k (hadmitted.dropped hf (hroom.listK.trans hk)) _
  · exact ((hadmitted.trace.of_before hroom.line hroom.dock hroom.portN).storeLow _).linesFollow
  · exact PortsKept.trans (PortsKept.trans hroom.frame.ports hadmitted.frame.ports) (latchStoreLow_pool _ s7).ports
  · exact hclass.trans hstation1.1.2.2.2.1
  · exact hmin.trans hstation1.1.1
  · exact hsec.trans hstation1.1.2.1
  · exact hsweep.trans hstation1.1.2.2.2.2.1
  · exact hset.trans hroom.settings
  · exact hlevels.trans hstation1.1.2.2.2.2.2.2.1

end Sys2Proof.Proofs
end

section
/-! PROOFS. A good STATUS reply at a dock: what it writes before the dock's state is looked at, and how its turn ends (R87,
R90, R122, R135, R137). -/

namespace Sys2Proof.Machine

/-! ## Before the dock's state is looked at (R45, R90, R122) -/

/-- The token of a reply changes queue, hold-off and the acknowledgement of its dock alone (R45, R126). -/
theorem State.offerToken_cases (s : State) (d : DockIx) (r : StatusReply) :
    s.offerToken d r = s ∨ ∃ (q : List Presentation) (hold : Bool) (a : Byte),
      s.offerToken d r = State.updDock { s with queue := q, holdOff := hold } d (fun y => { y with ack := a }) := by
  unfold State.offerToken State.offer
  split
  · split
    · exact .inl rfl
    · split
      · exact .inl rfl
      · exact .inr ⟨_, _, _, rfl⟩
  · exact .inl rfl

theorem State.endTurn_rides (s : State) (l : Line) : (s.endTurn l).rides = s.rides := by
  have hline : ∀ (u : State) (f : LineCtl → LineCtl), (u.updLine l f).rides = u.rides := fun u f => by cases l <;> rfl
  unfold State.endTurn State.startRound
  split
  · rfl
  · split
    · exact hline _ _
    · split
      · exact (hline _ _).trans (hline _ _)
      · exact hline _ _

/-- The station once the token of a reply is offered and its power field stored. -/
def State.heard (s : State) (l : Line) (x : Turn) (rep : StatusReply) : State :=
  ((s.beforeOffer l x).offerToken (dockIx l x.addr) rep).updDock (dockIx l x.addr)
    (fun y => { y with powerLow := rep.powerLow })

/-- What a good STATUS reply has written when the dock's state is looked at: the turn that carried this command is over,
and the dock record holds what every reply writes. -/
structure Heard (s u : State) (d : DockIx) (sent : Pending) (rep : StatusReply) : Prop where
  base     : SameBase s u
  portN    : u.portN = s.portN
  portK    : u.portK = s.portK
  rides    : u.rides = s.rides.map (fun r => r.settled d .delivered)
  creds    : u.creds = s.creds
  releaseQ : u.releaseQ = s.releaseQ
  grants   : u.grants = s.grants
  pool     : SamePool s u
  dock     : u.dock d = replied (s.dock d) rep (u.dock d).ack (clearedPending sent (s.dock d).pending)
  others   : ∀ j, j ≠ d → u.dock j = s.dock j
  runs     : ∀ j, u.lineRuns j = s.lineRuns j

theorem State.turnOver_own (s : State) (l : Line) (x : Turn) :
    OwnLine s ((settleOpen s (dockIx l x.addr) true).endTurn l) l :=
  (settleOpen_own s _ true l).trans (State.endTurn_own _ l)

theorem State.turnOver_dock (s : State) (l : Line) (x : Turn) (j : DockIx) :
    (s.turnOver l x).dock j = if j = dockIx l x.addr then { s.dock (dockIx l x.addr) with
      failed := 0, busy := 0, pending := clearedPending x.cmd (s.dock (dockIx l x.addr)).pending } else s.dock j := by
  unfold State.turnOver State.clearCounts
  rw [State.dock_updDock, (s.turnOver_own l x).dock, (s.turnOver_own l x).dock]
  split
  · unfold clearedPending
    cases x.cmd <;> rfl
  · rfl

theorem State.beforeOffer_dock (s : State) (l : Line) (x : Turn) (j : DockIx) :
    (s.beforeOffer l x).dock j = if j = dockIx l x.addr then { s.dock (dockIx l x.addr) with
      link := .online, failed := 0, busy := 0
      pending := clearedPending x.cmd (s.dock (dockIx l x.addr)).pending } else s.dock j := by
  unfold State.beforeOffer
  rw [State.dock_updDock, State.turnOver_dock, State.turnOver_dock, if_pos rfl]
  split <;> rfl

/-- The line of the turn keeps its state, and the other line stands. -/
theorem State.beforeOffer_lineRuns {s : State} {l : Line} {x : Turn} (h : (s.line l).turn = some x) (j : DockIx) :
    (s.beforeOffer l x).lineRuns j = s.lineRuns j := by
  have hstate : ((s.beforeOffer l x).line (lineOf j)).state = (s.line (lineOf j)).state := by
    by_cases hl : lineOf j = l
    · rw [hl, State.beforeOffer_state h]
    · have hother : lineOf j = otherLine l := by
        revert hl
        cases lineOf j <;> cases l <;> simp [otherLine]
      rw [hother]
      refine congrArg LineCtl.state (Eq.trans ?_ (s.turnOver_own l x).other)
      unfold State.beforeOffer State.turnOver State.clearCounts
      rw [State.updDock_line, State.updDock_line]
  unfold State.lineRuns
  rw [hstate]

/-- What the offer of a token leaves alone. -/
structure Offered (s t : State) (d : DockIx) : Prop where
  rest   : t = { s with queue := t.queue, holdOff := t.holdOff, docks := t.docks }
  dock   : t.dock d = { s.dock d with ack := (t.dock d).ack }
  others : ∀ j, j ≠ d → t.dock j = s.dock j

theorem State.offerToken_offered (s : State) (d : DockIx) (r : StatusReply) : Offered s (s.offerToken d r) d := by
  rcases s.offerToken_cases d r with h | ⟨q, hold, a, h⟩ <;> rw [h]
  · exact ⟨rfl, rfl, fun _ _ => rfl⟩
  · refine ⟨rfl, ?_, fun j hj => ?_⟩
    · rw [State.dock_updDock, if_pos rfl]
      rfl
    · rw [State.dock_updDock, if_neg hj]
      rfl

theorem Offered.line {s t : State} {d : DockIx} (h : Offered s t d) (l : Line) : t.line l = s.line l := by
  rw [h.rest]
  cases l <;> rfl

theorem State.heard_heard {s : State} {l : Line} {x : Turn} (h : (s.line l).turn = some x) (rep : StatusReply) :
    Heard s (s.heard l x rep) (dockIx l x.addr) x.cmd rep := by
  have hown := s.turnOver_own l x
  have hdock := s.beforeOffer_dock l x
  have hruns := State.beforeOffer_lineRuns h
  have hrides : (s.beforeOffer l x).rides = s.rides.map (fun r => r.settled (dockIx l x.addr) .delivered) :=
    State.endTurn_rides _ l
  have hbase := (s.beforeOffer_ride l x).station.1
  have hportN : (s.beforeOffer l x).portN = s.portN := hown.portN
  have hportK : (s.beforeOffer l x).portK = s.portK := hown.portK
  have hcreds : (s.beforeOffer l x).creds = s.creds := hown.creds
  have hqueue : (s.beforeOffer l x).releaseQ = s.releaseQ := hown.releaseQ
  have hgrants : (s.beforeOffer l x).grants = s.grants := hown.grants
  have hpool : SamePool s (s.beforeOffer l x) := hown.pool
  unfold State.heard
  generalize s.beforeOffer l x = b at *
  have hoffer := b.offerToken_offered (dockIx l x.addr) rep
  generalize b.offerToken (dockIx l x.addr) rep = w at hoffer
  have hrest := hoffer.rest
  refine ⟨SameBase.trans hbase ?_, ?_, ?_, ?_, ?_, ?_, ?_, ?_, ?_, fun j hj => ?_, fun j => ?_⟩
  · rw [hrest]
    exact SameBase.refl b
  · rw [State.updDock_portN, hrest]
    exact hportN
  · rw [State.updDock_portK, hrest]
    exact hportK
  · rw [State.updDock_rides, hrest]
    exact hrides
  · rw [State.updDock_creds, hrest]
    exact hcreds
  · rw [State.updDock_releaseQ, hrest]
    exact hqueue
  · rw [State.updDock_grants, hrest]
    exact hgrants
  · unfold SamePool
    rw [State.updDock_free, State.updDock_listN, State.updDock_listK, hrest]
    exact hpool
  · rw [State.dock_updDock, if_pos rfl, hoffer.dock, hdock, if_pos rfl]
    rfl
  · rw [State.dock_updDock, if_neg hj, hoffer.others j hj, hdock, if_neg hj]
  · rw [← hruns]
    unfold State.lineRuns
    rw [State.updDock_line, hoffer.line]

/-! ## The handling of a reply once it is heard (R90) -/

/-- Steps 3 to 6 of R90 on a station that has heard the reply, given the dock record before it. -/
def State.settleReply (s : State) (d : DockIx) (before : Dock) (r : StatusReply) (closeTurn : Bool) : State :=
  match s.rideAt d with
  | some ride =>
    match cancelCause ride r before.relatch closeTurn with
    | some o => ((s.cancelRide ride o).linkNotices d before r).afterCancel d ride r
    | none => (s.linkNotices d before r).rideReply d ride r closeTurn
  | none => (s.linkNotices d before r).dockReply d r closeTurn

theorem State.handleStatus_eq (s : State) (l : Line) (x : Turn) (rep : StatusReply) (c : Bool) :
    (s.turnOver l x).handleStatus (dockIx l x.addr) rep c =
      (s.heard l x rep).settleReply (dockIx l x.addr) ((s.turnOver l x).dock (dockIx l x.addr)) rep c := rfl

/-- A reply that brings no NODE_BACK and no NODE_POWER_LOW posts no link notice (R87, R100). -/
theorem NoLinkNotice.linkNotices {x before : Dock} {rep : StatusReply} (h : NoLinkNotice x rep)
    (hlink : before.link = x.link) (hpower : before.powerLow = x.powerLow) (s : State) (d : DockIx) :
    s.linkNotices d before rep = s := by
  have hrise : (rep.powerLow && !before.powerLow) = false := by
    rw [hpower]
    cases hp : rep.powerLow
    · rfl
    · rw [h.2 hp]
      rfl
  unfold State.linkNotices
  dsimp only
  rw [hlink, if_neg h.1, hrise]
  rfl

theorem State.linkNotices_listK (s : State) (d : DockIx) (before : Dock) (r : StatusReply) :
    (s.linkNotices d before r).listK = s.listK := by
  have hback : (if before.link = .lost then s.notice (.dock d) (.nodeBack .status) else s).listK = s.listK := by
    split
    · exact s.notice_listK _ _
    · rfl
  unfold State.linkNotices
  dsimp only
  split
  · rw [State.notice_listK, hback]
  · exact hback

/-! ## The end of the turn's event (R61, R122, R135, R137) -/

/-- What the quiet activity of a reply leaves, its line aside. -/
structure TurnClosed (s t : State) : Prop where
  frame    : RideFrame s t
  rides    : t.rides = s.rides
  creds    : t.creds = s.creds
  pool     : SamePool s t
  runs     : ∀ j, t.lineRuns j = s.lineRuns j
  docks    : DocksKept s t []
  idle     : ∀ j, (∀ e ∈ s.releaseQ, e.dock ≠ j) →
    t.dock j = s.dock j ∧ (∀ e ∈ t.releaseQ, e.dock ≠ j) ∧ (j ∉ s.grants → j ∉ t.grants)
  issued   : GrantsIssued s → t.releaseQ = s.releaseQ ∧ t.grants = s.grants ∧ ∀ j, t.dock j = s.dock j
  latchedN : ∀ e : Byte, s.portN.latched &&& e = e → t.portN.latched &&& e = e

/-- A change that leaves rides, docks, release queue and grants alone. -/
theorem TurnClosed.of_same {s t : State} (hframe : RideFrame s t) (hrides : t.rides = s.rides) (hcreds : t.creds = s.creds)
    (hpool : SamePool s t) (hruns : ∀ j, t.lineRuns j = s.lineRuns j) (hdocks : ∀ j, t.dock j = s.dock j)
    (hqueue : t.releaseQ = s.releaseQ) (hgrants : t.grants = s.grants)
    (hlatched : ∀ e : Byte, s.portN.latched &&& e = e → t.portN.latched &&& e = e) : TurnClosed s t where
  frame := hframe
  rides := hrides
  creds := hcreds
  pool := hpool
  runs := hruns
  docks := .of_docks hdocks []
  idle j hj := ⟨hdocks j, hqueue ▸ hj, hgrants ▸ id⟩
  issued _ := ⟨hqueue, hgrants, hdocks⟩
  latchedN := hlatched

theorem TurnClosed.refl (s : State) : TurnClosed s s :=
  .of_same (RideFrame.refl s) rfl rfl ⟨rfl, rfl, rfl⟩ (fun _ => rfl) (fun _ => rfl) rfl rfl (fun _ => id)

theorem TurnClosed.trans {s t u : State} (h : TurnClosed s t) (k : TurnClosed t u) : TurnClosed s u where
  frame := h.frame.trans k.frame
  rides := k.rides.trans h.rides
  creds := k.creds.trans h.creds
  pool := ⟨k.pool.1.trans h.pool.1, k.pool.2.1.trans h.pool.2.1, k.pool.2.2.trans h.pool.2.2⟩
  runs j := (k.runs j).trans (h.runs j)
  docks := h.docks.trans k.docks
  idle j hj := by
    obtain ⟨hdock, hqueue, hgrants⟩ := h.idle j hj
    obtain ⟨kdock, kqueue, kgrants⟩ := k.idle j hqueue
    exact ⟨kdock.trans hdock, kqueue, kgrants ∘ hgrants⟩
  issued hi := by
    obtain ⟨hqueue, hgrants, hdocks⟩ := h.issued hi
    obtain ⟨kqueue, kgrants, kdocks⟩ := k.issued (hi.congr h.frame.station.1.2.2.2.2.2.2.2.1 hgrants hqueue h.runs)
    exact ⟨kqueue.trans hqueue, kgrants.trans hgrants, fun j => (kdocks j).trans (hdocks j)⟩
  latchedN e he := k.latchedN e (h.latchedN e he)

theorem State.issueGrants_closed (s : State) : TurnClosed s s.issueGrants := by
  have hframe := s.issueGrants_frame
  refine ⟨hframe.ride, hframe.rides, hframe.creds, hframe.pool, hframe.lineRuns,
    s.issueGrants_granted.docksKept [], fun j hj => ?_, fun hi => ?_, fun e he => s.issueGrants_latching.keepsN he⟩
  · have hwait : j ∉ s.waiting := by
      intro hmem
      obtain ⟨e, he, -, hd⟩ := State.mem_waiting.mp hmem
      exact hj e he hd
    refine ⟨State.issueGrants_dock s j hwait, hframe.not_queued hj, fun hg hmem => ?_⟩
    exact (State.mem_issueGrants hmem).elim hg hwait
  · rw [hi.issueGrants]
    exact ⟨rfl, rfl, fun _ => rfl⟩

theorem State.leaveQuiet_closed {s : State} {l : Line} (hq : (s.line l).state = .quiet) :
    TurnClosed s (s.leaveQuiet l) := by
  have hframe := s.leaveQuiet_frame l hq
  have hdocks : ∀ j, (s.leaveQuiet l).dock j = s.dock j := fun j => by
    unfold State.dock
    rw [State.leaveQuiet_docks]
  exact .of_same hframe.ride hframe.rides hframe.creds hframe.pool hframe.lineRuns hdocks (s.leaveQuiet_releaseQ l)
    (s.leaveQuiet_grants l) (fun e he => (s.leaveQuiet_latching l).keepsN he)

theorem State.quietReturn_closed (s : State) (l : Line) : TurnClosed s (s.quietReturn l) := by
  unfold State.quietReturn
  split
  · next hq => exact (State.leaveQuiet_closed hq).trans (State.issueGrants_closed _)
  · exact .refl _

theorem State.quietActivity_closed (s : State) (l : Line) : TurnClosed s (s.quietActivity l) := by
  have hruns : ∀ j, (s.updLine l (fun c => { c with quietTimer := 0, quietDue := false })).lineRuns j = s.lineRuns j := by
    intro j
    unfold State.lineRuns
    rw [State.line_updLine]
    split
    · next hj => rw [hj]
    · rfl
  have hupd : TurnClosed s (s.updLine l (fun c => { c with quietTimer := 0, quietDue := false })) :=
    .of_same (s.updLine_ride l _) (by simp) (by simp) ⟨by simp, by simp, by simp⟩ hruns (fun j => by simp) (by simp)
      (by simp) (fun e he => (s.updLine_latching l _).keepsN he)
  exact hupd.trans (State.quietReturn_closed _ l)

theorem latchStoreLow_closed (n : Nat) (s : State) : TurnClosed s (latchStoreLow n s) := by
  have hpool := latchStoreLow_pool n s
  have hsame := latchStoreLow_sameTables n s
  exact .of_same hpool.ride hpool.rides hpool.creds ⟨hsame.free, hsame.listN, hsame.listK⟩
    (fun j => by unfold State.lineRuns; rw [hpool.line]) hpool.dock hpool.releaseQ hpool.grants
    (fun e he => latchStoreLow_latched he n)

/-- A good STATUS reply that is due: the reply is heard, settled at its dock with OPEN after a delivered SHOW, and the turn
closed. -/
theorem ReplyDue.closes {s : State} {l : Line} {x : Turn} (h : ReplyDue s l x) (rep : StatusReply) :
    ∃ (u t : State) (before : Dock), exec (.statusReply l rep) s = .next t ∧ Heard s u (dockIx l x.addr) x.cmd rep ∧
      before.link = (s.dock (dockIx l x.addr)).link ∧ before.powerLow = (s.dock (dockIx l x.addr)).powerLow ∧
      TurnClosed ((u.settleReply (dockIx l x.addr) before rep (decide (x.cmd = .closeCmd))).openAfterShow
        (dockIx l x.addr)) t := by
  have hturn := h.2.1
  have hbefore := s.turnOver_dock l x (dockIx l x.addr)
  rw [if_pos rfl] at hbefore
  refine ⟨s.heard l x rep, _, (s.turnOver l x).dock (dockIx l x.addr), exec_statusReply_due h rep,
    State.heard_heard hturn rep, by rw [hbefore], by rw [hbefore], ?_⟩
  have hend : s.endStatus l x rep =
      if newToken (s.dock (dockIx l x.addr)) rep || bikeChange (s.dock (dockIx l x.addr)) rep then
        (((s.turnOver l x).handleStatus (dockIx l x.addr) rep (decide (x.cmd = .closeCmd))).openAfterShow
          (dockIx l x.addr)).quietActivity l
      else ((s.turnOver l x).handleStatus (dockIx l x.addr) rep (decide (x.cmd = .closeCmd))).openAfterShow
        (dockIx l x.addr) := rfl
  rw [hend, State.handleStatus_eq]
  refine TurnClosed.trans ?_ (latchStoreLow_closed _ _)
  split
  · exact State.quietActivity_closed _ l
  · exact .refl _

end Sys2Proof.Machine
end

section
/-! PROOFS. The replies of a QUEUED dock: the latch-open acknowledgement, no change, and removal before release (R61, R68,
R69, R74, R75, R95, R105, R108, R110). -/

namespace Sys2Proof.Machine

/-! ## How far OPEN has come, and the other rides -/

theorem Ride.settled_number (r : Ride) (d : DockIx) (p : OpenProgress) : (r.settled d p).number = r.number := by
  unfold Ride.settled
  split <;> rfl

/-- How far OPEN has come is all that settling changes. -/
theorem Ride.settled_eq (r : Ride) (d : DockIx) (p : OpenProgress) :
    r.settled d p = { r with progress := (r.settled d p).progress } := by
  unfold Ride.settled
  split <;> rfl

/-- At its own dock, an OPEN counts as sent after the turn exactly if it did before it. -/
theorem Ride.settled_sent {r : Ride} {d : DockIx} (hd : r.dock = d) :
    (r.settled d .delivered).progress ≠ .notSent ↔ r.progress ≠ .notSent := by
  unfold Ride.settled
  by_cases h : r.progress = .inFlight
  · rw [if_pos ⟨hd, h⟩, h]
    simp
  · rw [if_neg (fun a => h a.2)]

theorem OtherRidesKept.refl (s : State) (n : RideNo) : OtherRidesKept s s n := rfl

theorem OtherRidesKept.trans {s t u : State} {n : RideNo} (h : OtherRidesKept s t n) (k : OtherRidesKept t u n) :
    OtherRidesKept s u n := Eq.trans k h

theorem OtherRidesKept.of_eq {s t : State} (h : t.rides = s.rides) (n : RideNo) : OtherRidesKept s t n := by
  unfold OtherRidesKept
  rw [h]

theorem OtherRidesKept.settled {s t : State} {d : DockIx} {p : OpenProgress}
    (h : t.rides = s.rides.map (fun r => r.settled d p)) (n : RideNo) : OtherRidesKept s t n := by
  unfold OtherRidesKept
  rw [h, List.filter_map, List.map_map]
  have hfilter : (fun r : Ride => decide (r.number ≠ n)) ∘ (fun r : Ride => r.settled d p) =
      fun r => decide (r.number ≠ n) := funext (fun r => by simp only [Function.comp, Ride.settled_number])
  rw [hfilter]
  refine List.map_congr_left (fun r _ => ?_)
  rw [Function.comp, Ride.settled_eq]

theorem OtherRidesKept.updRide (s : State) (n : RideNo) {f : Ride → Ride}
    (hf : ∀ r, (f r).number = r.number := by intro; rfl) :
    OtherRidesKept s (s.updRide n f) n := by
  have hsame : (s.updRide n f).rides.filter (fun r => decide (r.number ≠ n)) =
      s.rides.filter (fun r => decide (r.number ≠ n)) := by
    show (s.rides.map (fun r => if r.number = n then f r else r)).filter _ = _
    rw [List.filter_map]
    have hfilter : (fun r : Ride => decide (r.number ≠ n)) ∘ (fun r : Ride => if r.number = n then f r else r) =
        fun r => decide (r.number ≠ n) := by
      funext r
      by_cases h : r.number = n <;> simp [h, hf]
    rw [hfilter]
    refine (List.map_congr_left (fun r hr => ?_)).trans (List.map_id _)
    exact if_neg (of_decide_eq_true (List.mem_filter.mp hr).2)
  unfold OtherRidesKept
  rw [hsame]

theorem OtherRidesKept.filtered {s t : State} {n : RideNo}
    (h : t.rides = s.rides.filter (fun r => decide (r.number ≠ n))) : OtherRidesKept s t n := by
  unfold OtherRidesKept
  rw [h, List.filter_filter]
  simp only [Bool.and_self]

/-- The lookup of a ride by number after settling. -/
theorem findRide_settled {s t : State} {d : DockIx} {p : OpenProgress}
    (h : t.rides = s.rides.map (fun r => r.settled d p)) (n : RideNo) :
    t.findRide n = (s.findRide n).map (fun r => r.settled d p) := by
  have hfind : (fun r : Ride => decide (r.number = n)) ∘ (fun r : Ride => r.settled d p) =
      fun r => decide (r.number = n) := funext (fun r => by simp only [Function.comp, Ride.settled_number])
  unfold State.findRide
  rw [h, List.find?_map, hfind]

/-- The lookup of a ride by dock after settling. -/
theorem rideAt_settled {s t : State} {d : DockIx} {p : OpenProgress}
    (h : t.rides = s.rides.map (fun r => r.settled d p)) (j : DockIx) :
    t.rideAt j = (s.rideAt j).map (fun r => r.settled d p) := by
  have hfind : (fun r : Ride => decide (r.dock = j ∧ r.state ≠ .opened)) ∘ (fun r : Ride => r.settled d p) =
      fun r => decide (r.dock = j ∧ r.state ≠ .opened) := by
    funext r
    rw [Function.comp, Ride.settled_eq]
  unfold State.rideAt
  rw [h, List.find?_map, hfind]

/-! ## The acknowledgement (R68) -/

theorem findRide_updRide_self (s : State) (n : RideNo) {f : Ride → Ride}
    (hf : ∀ r, (f r).number = r.number := by intro; rfl) : (s.updRide n f).findRide n = (s.findRide n).map f := by
  rw [State.findRide_updRide s n n hf]
  simp only [if_true]

theorem State.acknowledge_dock (s : State) (r : Ride) (j : DockIx) :
    (s.acknowledge r).dock j =
      if j = r.dock then { s.dock r.dock with state := .releasing, pending := .none } else s.dock j := by
  unfold State.acknowledge
  rw [State.leaveQueue_dock, State.dock_updDock]
  rfl

theorem State.acknowledge_findRide (s : State) (r : Ride) :
    (s.acknowledge r).findRide r.number = (s.findRide r.number).map (fun x => { x with
      state := .releasing, release := some s.minute, waitLeft := none
      windowLeft := some s.settings.takeUpWindow }) := findRide_updRide_self s r.number

theorem State.acknowledge_lineRuns (s : State) (r : Ride) (j : DockIx) : (s.acknowledge r).lineRuns j = s.lineRuns j := by
  have hline : ∀ l, (s.acknowledge r).line l = s.line l := State.line_of_eq rfl rfl
  unfold State.lineRuns
  rw [hline]

/-! ## What every reply to the dock of a ride keeps -/

/-- Ports and base stand, and so do the other rides and, but for OPEN, the other docks. -/
structure ReplyKept (s t : State) (d : DockIx) (n : RideNo) : Prop where
  base  : SameBase s t
  ports : PortsKept s t
  rides : OtherRidesKept s t n
  docks : DocksKept s t [d]

namespace ReplyKept

variable {s t u : State} {d : DockIx} {n : RideNo}

theorem refl (s : State) (d : DockIx) (n : RideNo) : ReplyKept s s d n :=
  ⟨SameBase.refl s, PortsKept.refl s, .refl s n, .refl s [d]⟩

theorem trans (h : ReplyKept s t d n) (k : ReplyKept t u d n) : ReplyKept s u d n :=
  ⟨SameBase.trans h.base k.base, PortsKept.trans h.ports k.ports, h.rides.trans k.rides, h.docks.trans k.docks⟩

theorem of_frame (hframe : RideFrame s t) (hrides : OtherRidesKept s t n) (hdocks : DocksKept s t [d]) :
    ReplyKept s t d n := ⟨hframe.station.1, hframe.ports, hrides, hdocks⟩

theorem pool (h : PoolFrame s t) : ReplyKept s t d n :=
  of_frame h.ride (.of_eq h.rides n) (.of_docks h.dock [d])

theorem heard {sent : Pending} {rep : StatusReply} (h : Heard s t d sent rep) : ReplyKept s t d n := by
  refine ⟨h.base, ?_, .settled h.rides n, fun j hj => ?_⟩
  · unfold PortsKept
    rw [h.portN, h.portK]
    exact PortsKept.refl s
  · rw [h.others j (by simpa using hj)]
    exact ⟨rfl, .inl rfl⟩

theorem closed (h : TurnClosed s t) : ReplyKept s t d n :=
  of_frame h.frame (.of_eq h.rides n) (h.docks.mono (List.nil_subset _))

theorem acknowledge (s : State) {r : Ride} (hd : r.dock = d) (hn : r.number = n) : ReplyKept s (s.acknowledge r) d n := by
  subst hd hn
  refine of_frame (s.acknowledge_ride r) (.trans (.updRide s r.number) (.of_eq rfl _)) ?_
  intro j hj
  rw [State.acknowledge_dock, if_neg (by simpa using hj)]
  exact ⟨rfl, .inl rfl⟩

theorem takeUp (s : State) {r : Ride} (hd : r.dock = d) (hn : r.number = n) (late : Bool) :
    ReplyKept s (s.takeUp r late) d n := by
  subst hd hn
  have hspec := s.takeUp_spec r late
  refine of_frame hspec.frame ?_ ?_
  · exact .trans (.updRide s r.number) (.of_eq hspec.rides _)
  · unfold State.takeUp
    extract_lets s1 s2
    have h1 : DocksKept s s1 [r.dock] := .of_docks (fun _ => rfl) _
    have h2 : DocksKept s s2 [r.dock] :=
      (h1.trans (s1.updDock_docksKept r.dock Dock.toTaken)).trans (State.returnGrant_docksKept _ _ _)
    exact h2.trans (.of_docks ((s2.postK_pool _).trans (State.notice_pool _ _ _)).dock _)

theorem cancelRide (s : State) {r : Ride} (hd : r.dock = d) (hn : r.number = n) (o : RideOutcome) :
    ReplyKept s (s.cancelRide r o) d n := by
  subst hd hn
  have hspec := s.cancelRide_spec r o
  exact of_frame hspec.frame (.filtered hspec.rides) (s.cancelRide_docksKept r o)

theorem bikeGone (s : State) (d : DockIx) (m : Option RideNo) : ReplyKept s (s.bikeGone d m) d n :=
  (of_frame (s.updDock_ride d Dock.toEmpty) (.of_eq rfl n) (s.updDock_docksKept d Dock.toEmpty)).trans
    (pool (State.notice_pool _ _ _))

theorem openAfterShow (s : State) (d : DockIx) : ReplyKept s (s.openAfterShow d) d n := by
  unfold State.openAfterShow
  split
  · have hframe := s.setPending_frame d .openCmd
    exact of_frame hframe.ride (.of_eq hframe.rides n) (s.setPending_docksKept d _)
  · exact refl s d n

end ReplyKept

/-! ## The four ways of a QUEUED ride's reply (R68, R75, R95) -/

/-- A reply that does not show a jam cancels a QUEUED ride exactly when the bike is gone unacknowledged. -/
theorem cancelCause_queued {r : Ride} {rep : StatusReply} (hq : r.state = .queued) (hjam : rep.latch ≠ .jammed)
    (attempts : Nat) (c : Bool) :
    cancelCause r rep attempts c = if rep.bike || acksOpen r rep then none else some .latchFault := by
  unfold cancelCause
  cases hlatch : rep.latch with
  | jammed => exact absurd hlatch hjam
  | locked =>
    have hack : acksOpen r rep = false := by simp [acksOpen, hlatch]
    rw [hq, hack, Bool.or_false]
  | unlatched => rw [hq]

theorem State.settleReply_queued {s : State} {d : DockIx} {r : Ride} {rep : StatusReply} (hr : s.rideAt d = some r)
    (hq : r.state = .queued) (hjam : rep.latch ≠ .jammed) (before : Dock) (c : Bool) :
    s.settleReply d before rep c =
      if acksOpen r rep then
        if rep.bike then (s.linkNotices d before rep).acknowledge r
        else ((s.linkNotices d before rep).acknowledge r).takeUp
          { r with state := .releasing, release := some (s.linkNotices d before rep).minute } false
      else if rep.bike then s.linkNotices d before rep
      else ((s.cancelRide r .latchFault).linkNotices d before rep).bikeGone d (some r.number) := by
  unfold State.settleReply
  rw [hr]
  dsimp only
  rw [cancelCause_queued hq hjam]
  cases hbike : rep.bike <;> cases hack : acksOpen r rep
  · rw [Bool.or_self, if_neg Bool.false_ne_true]
    simp [State.afterCancel, hjam, hbike]
  · simp [State.rideReply, hq, hack, hbike]
  · simp [State.rideReply, hq, hack]
  · simp [State.rideReply, hq, hack, hbike]

/-! ## Queue and grants where one dock alone changes -/

/-- Settings, running lines, release queue, grants and the other docks agree. -/
structure AgreeBut (s t : State) (d : DockIx) : Prop where
  settings : t.settings = s.settings
  runs     : ∀ j, t.lineRuns j = s.lineRuns j
  releaseQ : t.releaseQ = s.releaseQ
  grants   : t.grants = s.grants
  others   : ∀ j, j ≠ d → t.dock j = s.dock j

namespace AgreeBut

variable {s t u : State} {d : DockIx}

theorem trans (h : AgreeBut s t d) (k : AgreeBut t u d) : AgreeBut s u d :=
  ⟨k.settings.trans h.settings, fun j => (k.runs j).trans (h.runs j), k.releaseQ.trans h.releaseQ,
    k.grants.trans h.grants, fun j hj => (k.others j hj).trans (h.others j hj)⟩

theorem heard {sent : Pending} {rep : StatusReply} (h : Heard s t d sent rep) : AgreeBut s t d :=
  ⟨h.base.2.2.2.2.2.2.2.1, h.runs, h.releaseQ, h.grants, h.others⟩

theorem pool (h : PoolFrame s t) : AgreeBut s t d :=
  ⟨h.station.1.2.2.2.2.2.2.2.1, fun j => by unfold State.lineRuns; rw [h.line], h.releaseQ, h.grants,
    fun j _ => h.dock j⟩

theorem updDock (s : State) (d : DockIx) (f : Dock → Dock) : AgreeBut s (s.updDock d f) d :=
  ⟨rfl, fun j => by unfold State.lineRuns; rw [State.updDock_line], rfl, rfl,
    fun j hj => by rw [State.dock_updDock, if_neg hj]⟩

theorem closed (h : TurnClosed s t) (hissued : GrantsIssued s) : AgreeBut s t d := by
  obtain ⟨hqueue, hgrants, hdocks⟩ := h.issued hissued
  exact ⟨h.frame.station.1.2.2.2.2.2.2.2.1, h.runs, hqueue, hgrants, fun j _ => hdocks j⟩

theorem issued (h : AgreeBut s t d) (hissued : GrantsIssued s) : GrantsIssued t :=
  hissued.congr h.settings h.grants h.releaseQ h.runs

/-- Where grants went is the same seen from states that agree but at the dock that is gone. -/
theorem moved {v : State} (h : AgreeBut s t d) (k : AgreeBut u v d) (hmoved : Moved t u [d]) : Moved s v [d] := by
  have hnew := newGrants_congr h.settings h.grants h.releaseQ h.runs [d]
  obtain ⟨⟨hqueue, hgrants⟩, hdocks⟩ := hmoved
  rw [hnew] at hgrants
  refine ⟨⟨?_, ?_⟩, fun j hj => ?_⟩
  · rw [k.releaseQ, hqueue, hnew, h.releaseQ]
  · rw [k.grants, hgrants, h.grants]
  · have hne : j ≠ d := by simpa using hj
    rw [k.others j hne, hdocks j hj, hnew, h.others j hne]

end AgreeBut

/-- A dock has left the release queue, its grant not yet returned. -/
structure LeftQueue (s t : State) (d : DockIx) : Prop where
  settings : t.settings = s.settings
  runs     : ∀ j, t.lineRuns j = s.lineRuns j
  releaseQ : t.releaseQ = s.releaseQ.filter (fun e => decide (e.dock ≠ d))
  grants   : t.grants = s.grants
  others   : ∀ j, j ≠ d → t.dock j = s.dock j

namespace LeftQueue

variable {s t u : State} {d : DockIx}

theorem onward (h : LeftQueue s t d) (k : AgreeBut t u d) : LeftQueue s u d :=
  ⟨k.settings.trans h.settings, fun j => (k.runs j).trans (h.runs j), k.releaseQ.trans h.releaseQ,
    k.grants.trans h.grants, fun j hj => (k.others j hj).trans (h.others j hj)⟩

theorem after (k : AgreeBut s t d) (h : LeftQueue t u d) : LeftQueue s u d :=
  ⟨h.settings.trans k.settings, fun j => (h.runs j).trans (k.runs j), by rw [h.releaseQ, k.releaseQ],
    h.grants.trans k.grants, fun j hj => (h.others j hj).trans (k.others j hj)⟩

theorem out (h : LeftQueue s t d) : ∀ e ∈ t.releaseQ, e.dock ≠ d := by
  intro e he
  rw [h.releaseQ] at he
  exact of_decide_eq_true (List.mem_filter.mp he).2

/-- A shorter queue leaves no grant unissued. -/
theorem issued (h : LeftQueue s t d) (hissued : GrantsIssued s) : GrantsIssued t := by
  unfold GrantsIssued at hissued ⊢
  rw [h.settings, h.grants, h.releaseQ]
  refine hissued.imp_right (fun hidle e he hg => ?_)
  rw [h.runs]
  exact hidle e (List.mem_of_mem_filter he) hg

theorem acknowledge (s : State) (r : Ride) : LeftQueue s (s.acknowledge r) r.dock :=
  ⟨rfl, s.acknowledge_lineRuns r, rfl, rfl, fun j hj => by rw [State.acknowledge_dock, if_neg hj]⟩

/-- Its grant goes to the new grants. -/
theorem returned (h : LeftQueue s t d) (hissued : GrantsIssued s) :
    Moved s (t.returnGrant d) [d] ∧ GrantsIssued (t.returnGrant d) := by
  have hnew : newGrants t [d] = newGrants s [d] := by
    have hwait : (s.releaseQ.filter (fun e => decide (e.dock ≠ d))).filter
        (fun e => decide (e.dock ∉ [d] ∧ e.granted = false)) =
        s.releaseQ.filter (fun e => decide (e.dock ∉ [d] ∧ e.granted = false)) := by
      rw [List.filter_filter]
      refine List.filter_congr (fun e _ => ?_)
      by_cases hd : e.dock = d <;> simp [hd]
    unfold newGrants
    rw [h.settings, h.grants, h.releaseQ, hwait]
    simp only [h.runs]
  obtain ⟨hgranted, hissued'⟩ := State.returnGrant_granted h.out (h.issued hissued)
  rw [hnew] at hgranted
  refine ⟨⟨⟨?_, ?_⟩, fun j hj => ?_⟩, hissued'⟩
  · refine hgranted.queue.trans ?_
    show t.releaseQ.map _ = _
    rw [h.releaseQ]
    simp only [List.mem_singleton, ne_eq]
  · refine hgranted.grants.trans ?_
    show t.grants.filter _ ++ _ = _
    rw [h.grants]
    simp only [List.mem_singleton, ne_eq]
  · refine (hgranted.docks j).trans ?_
    have hdock : State.dock { t with grants := t.grants.filter (fun x => decide (x ≠ d)) } j = s.dock j :=
      h.others j (by simpa using hj)
    rw [hdock]

end LeftQueue

/-- A notice seen from a state that agrees on clock, levels and the records that suppress. -/
theorem Notified.seen {s s' t : State} {free : List Nat} {sub : Subject} {b : NoticeBody}
    (h : Notified s' t free sub b) (hbase : SameBase s s') (hports : PortsKept s s') (hlist : s'.listN = s.listN) :
    Notified s t free sub b := by
  obtain ⟨hmin, hsec, hclock, -, -, -, hlevels, -⟩ := hbase
  have hlevel : s'.level b.kind = s.level b.kind := by unfold State.level; rw [hlevels]
  have hsup : s'.suppressed sub b.kind = s.suppressed sub b.kind := by
    unfold State.suppressed
    rw [hlist, hports.1.2.2.1]
  unfold Notified PostedN at h ⊢
  rwa [hlevel, hsup, hlist, hmin, hsec, hclock] at h

end Sys2Proof.Machine
end

section
/-! PROOFS. The four replies of a QUEUED dock with its QUEUED ride (R61, R68, R69, R74, R75, R95). -/

namespace Sys2Proof.Machine

/-- The station at which a reply to the dock d of the ride r is settled, its link notices posted. -/
structure Ready (s w : State) (d : DockIx) (sent : Pending) (rep : StatusReply) (r : Ride) : Prop where
  kept  : ReplyKept s w d r.number
  ride  : w.findRide r.number = some (r.settled d .delivered)
  creds : w.creds = s.creds
  agree : AgreeBut s w d
  dock  : w.dock d = replied (s.dock d) rep (w.dock d).ack (clearedPending sent (s.dock d).pending)
  pool  : NoLinkNotice (s.dock d) rep → SamePool s w

theorem Heard.ready {s u w : State} {d : DockIx} {sent : Pending} {rep : StatusReply} {r : Ride}
    (h : Heard s u d sent rep) (hsorted : RidesSorted s) (hr : s.rideAt d = some r) (hpool : PoolFrame u w)
    (hquiet : NoLinkNotice (s.dock d) rep → w = u) : Ready s w d sent rep r where
  kept := (ReplyKept.heard h).trans (.pool hpool)
  ride := by
    have hu := findRide_settled h.rides r.number
    rw [State.findRide_of_mem hsorted (State.rideAt_some hr).1] at hu
    unfold State.findRide at hu ⊢
    rw [hpool.rides]
    exact hu
  creds := hpool.creds.trans h.creds
  agree := (AgreeBut.heard h).trans (.pool hpool)
  dock := by
    rw [hpool.dock]
    exact h.dock
  pool hq := by
    rw [hquiet hq]
    exact h.pool

theorem SamePool.trans {s t u : State} (h : SamePool s t) (k : SamePool t u) : SamePool s u :=
  ⟨k.1.trans h.1, k.2.1.trans h.2.1, k.2.2.trans h.2.2⟩

theorem TurnClosed.findRide {s t : State} (h : TurnClosed s t) (n : RideNo) : t.findRide n = s.findRide n := by
  unfold State.findRide
  rw [h.rides]

theorem TurnClosed.findCred {s t : State} (h : TurnClosed s t) (c : CredNo) : t.findCred c = s.findCred c := by
  unfold State.findCred
  rw [h.creds]

/-! ## A take-up: its grant, its records and its ride (R69, R110) -/

theorem State.takeUp_pool (s : State) (r : Ride) (late : Bool) : PoolFrame (s.takenUp r late) (s.takeUp r late) :=
  (State.postK_pool _ _).trans (State.notice_pool _ _ _)

/-- The grant of a dock that is out of the queue is passed on at the take-up. -/
theorem LeftQueue.takeUp {s t : State} {r : Ride} (h : LeftQueue s t r.dock) (hissued : GrantsIssued s) (late : Bool) :
    Moved s (t.takeUp r late) [r.dock] ∧ GrantsIssued (t.takeUp r late) := by
  have hopened : AgreeBut t (t.updRide r.number (fun x => { x with
      state := .opened, takeUp := some t.minute, late := x.late || late, windowLeft := none })) r.dock :=
    ⟨rfl, fun j => by unfold State.lineRuns; rw [State.updRide_line], rfl, rfl, fun _ _ => rfl⟩
  obtain ⟨hmoved, hissued'⟩ := ((h.onward hopened).onward (AgreeBut.updDock _ r.dock Dock.toTaken)).returned hissued
  have hpool : AgreeBut (t.takenUp r late) (t.takeUp r late) r.dock := .pool (t.takeUp_pool r late)
  have hself : AgreeBut s s r.dock := ⟨rfl, fun _ => rfl, rfl, rfl, fun _ _ => rfl⟩
  exact ⟨hself.moved hpool hmoved, hpool.issued hissued'⟩

/-- TAKEN to Port K, and then RIDE_STARTED to Port N. -/
theorem State.takeUp_records (s : State) (r : Ride) (late : Bool) :
    (s.takeUp r late).listK = (postPool s.free s.listK (.outcome r.number r.cred r.dock .taken)).2 ∧
    Notified s (s.takeUp r late) (postPool s.free s.listK (.outcome r.number r.cred r.dock .taken)).1 (.dock r.dock)
      (.rideStarted r.number r.cred late) := by
  have hframe : LineFrame ((s.updRide r.number (fun x => { x with
      state := .opened, takeUp := some s.minute, late := x.late || late, windowLeft := none })).updDock r.dock Dock.toTaken)
      (s.takenUp r late) := State.returnGrant_frame _ r.dock
  obtain ⟨hfree, hlistN, hlistK⟩ := hframe.pool
  have hpost := (s.takenUp r late).postK_postPool (.outcome r.number r.cred r.dock .taken)
  have hbefore : RideFrame s (s.takenUp r late) :=
    ((State.updRide_ride s _ _).trans (State.updDock_ride _ _ _)).trans hframe.ride
  have hpool := (s.takenUp r late).postK_pool (.outcome r.number r.cred r.dock .taken)
  rw [hfree, hlistK] at hpost
  have hnotice := State.notice_notified ((s.takenUp r late).postK (.outcome r.number r.cred r.dock .taken)) (.dock r.dock)
    (.rideStarted r.number r.cred late)
  have hframe' := hbefore.trans hpool.ride
  refine ⟨(State.notice_listK _ _ _).trans (congrArg Prod.snd hpost), ?_⟩
  have hseen := hnotice.seen hframe'.station.1 hframe'.ports ((State.postK_listN _ _).trans hlistN)
  rw [show ((s.takenUp r late).postK (.outcome r.number r.cred r.dock .taken)).free =
    (postPool s.free s.listK (.outcome r.number r.cred r.dock .taken)).1 from congrArg Prod.fst hpost] at hseen
  exact hseen

theorem State.takeUp_findRide (s : State) (r : Ride) (late : Bool) :
    (s.takeUp r late).findRide r.number = (s.findRide r.number).map (fun x => { x with
      state := .opened, takeUp := some s.minute, late := x.late || late, windowLeft := none }) := by
  have hrides : (s.takeUp r late).findRide r.number = (s.updRide r.number (fun x => { x with
      state := .opened, takeUp := some s.minute, late := x.late || late, windowLeft := none })).findRide r.number := by
    unfold State.findRide
    rw [(s.takeUp_spec r late).rides]
    rfl
  exact hrides.trans (findRide_updRide_self s r.number)

theorem State.takeUp_out {s : State} {d : DockIx} (h : ∀ e ∈ s.releaseQ, e.dock ≠ d) (r : Ride) (late : Bool) :
    ∀ e ∈ (s.takeUp r late).releaseQ, e.dock ≠ d := by
  intro e he hed
  have hmem := List.mem_map_of_mem (f := fun e : QEntry => (e.dock, e.ride)) he
  rw [(s.takeUp_spec r late).queue] at hmem
  obtain ⟨e', he', heq⟩ := List.mem_map.mp hmem
  exact h e' he' ((congrArg Prod.fst heq).trans hed)

/-! ## OPEN after a delivered SHOW (R61, R122) -/

theorem State.openAfterShow_frame (s : State) (d : DockIx) : LineFrame s (s.openAfterShow d) := by
  unfold State.openAfterShow
  split
  · exact s.setPending_frame d .openCmd
  · exact .refl s

theorem AgreeBut.markPending (s : State) (d : DockIx) (c : Pending) : AgreeBut s (s.markPending d c) d := by
  have hframe := s.markPending_frame d c
  refine ⟨hframe.station.1.2.2.2.2.2.2.2.1, hframe.lineRuns, s.markPending_releaseQ d c, s.markPending_grants d c,
    fun j hj => ?_⟩
  rw [State.markPending_dock, if_neg hj]

/-- With no grant left unissued, the OPEN that follows is all that changes. -/
theorem GrantsIssued.openAfterShow {s : State} {d : DockIx} (h : GrantsIssued s) (hq : (s.dock d).state = .queued) :
    AgreeBut s (s.openAfterShow d) d ∧
    ((s.openAfterShow d).dock d).pending = openNext (decide (d ∈ s.grants)) (s.dock d).pending := by
  have hgranted : s.granted d = true ↔ d ∈ s.grants := by simp [State.granted]
  unfold State.openAfterShow openNext
  by_cases hopen : s.granted d = true ∧ (s.dock d).pending = .none
  · rw [if_pos ⟨hq, hopen⟩, if_pos ⟨hopen.2, by simpa using hgranted.mp hopen.1⟩, h.setPending]
    refine ⟨.markPending s d _, ?_⟩
    rw [State.markPending_dock, if_pos rfl]
  · rw [if_neg (fun a => hopen a.2), if_neg (fun a => hopen ⟨hgranted.mpr (of_decide_eq_true a.2), a.1⟩)]
    exact ⟨⟨rfl, fun _ => rfl, rfl, rfl, fun _ _ => rfl⟩, rfl⟩

section
variable {s w t : State} {d : DockIx} {sent : Pending} {rep : StatusReply} {r : Ride}
  (h : Ready s w d sent rep r)
include h

/-! ## The latch-open acknowledgement, the bike still there (R68) -/

theorem Ready.acknowledge_ride :
    (w.acknowledge (r.settled d .delivered)).findRide r.number = some { r.settled d .delivered with
      state := .releasing, release := some s.minute, waitLeft := none
      windowLeft := some s.settings.takeUpWindow } := by
  have hfind := w.acknowledge_findRide (r.settled d .delivered)
  rw [Ride.settled_number, h.ride, Option.map_some, h.kept.base.1, h.agree.settings] at hfind
  exact hfind

section
variable (hd : r.dock = d)
include hd

theorem Ready.acknowledge_leftQueue : LeftQueue s (w.acknowledge (r.settled d .delivered)) d := by
  have hack := LeftQueue.acknowledge w (r.settled d .delivered)
  rw [Ride.settled_eq] at hack ⊢
  exact LeftQueue.after h.agree (hd ▸ hack)

theorem Ready.acknowledge_dock :
    (w.acknowledge (r.settled d .delivered)).dock d =
      { replied (s.dock d) rep (w.dock d).ack .none with state := .releasing } := by
  have hdock : (r.settled d .delivered).dock = d := by rw [Ride.settled_eq, hd]
  rw [State.acknowledge_dock, hdock, if_pos rfl, h.dock]
  rfl

theorem Ready.acknowledged (k : TurnClosed (w.acknowledge (r.settled d .delivered)) t) :
    t.findRide r.number = some { r.settled d .delivered with
      state := .releasing, release := some s.minute, waitLeft := none
      windowLeft := some s.settings.takeUpWindow } ∧
    t.dock d = { replied (s.dock d) rep (t.dock d).ack .none with state := .releasing } ∧
    (∀ y ∈ t.releaseQ, y.dock ≠ d) ∧ t.creds = s.creds ∧
    (GrantsIssued s → t.releaseQ = s.releaseQ.filter (fun y => decide (y.dock ≠ d)) ∧ t.grants = s.grants ∧
      ∀ d' : DockIx, d' ≠ d → t.dock d' = s.dock d') ∧
    (NoLinkNotice (s.dock d) rep → SamePool s t) := by
  have hleft := h.acknowledge_leftQueue hd
  obtain ⟨hdock, hqueue, -⟩ := k.idle d hleft.out
  rw [h.acknowledge_dock hd] at hdock
  refine ⟨(k.findRide _).trans (h.acknowledge_ride), ?_, hqueue, k.creds.trans h.creds, fun hissued => ?_,
    fun hq => SamePool.trans (h.pool hq) k.pool⟩
  · rw [hdock]
    rfl
  · have hclosed := hleft.onward (AgreeBut.closed k (hleft.issued hissued))
    exact ⟨hclosed.releaseQ, hclosed.grants, hclosed.others⟩

/-! ## The bike gone in the same reply (R69) -/

theorem Ready.takenUp {r' : Ride} (hn : r'.number = r.number) (hc : r'.cred = r.cred) (hr' : r'.dock = d)
    (k : TurnClosed ((w.acknowledge (r.settled d .delivered)).takeUp r' false) t) :
    t.findRide r.number = some { r.settled d .delivered with
      state := .opened, release := some s.minute, takeUp := some s.minute, waitLeft := none, windowLeft := none } ∧
    t.dock d = { replied (s.dock d) rep (t.dock d).ack .none with
      state := .empty, tag := 0#32, since := 0#16, relatch := 0 } ∧
    (∀ y ∈ t.releaseQ, y.dock ≠ d) ∧ d ∉ t.grants ∧ t.creds = s.creds ∧ GrantsMoved s t [d] [d] ∧
    (NoLinkNotice (s.dock d) rep →
      let pool := postPool s.free s.listK (.outcome r.number r.cred d .taken)
      t.listK = pool.2 ∧ Notified s t pool.1 (.dock d) (.rideStarted r.number r.cred false)) := by
  have hleft := h.acknowledge_leftQueue hd
  have hride := h.acknowledge_ride
  have hackdock := h.acknowledge_dock hd
  have hcreds : (w.acknowledge (r.settled d .delivered)).creds = s.creds := h.creds
  have hkept : ReplyKept s (w.acknowledge (r.settled d .delivered)) d r.number :=
    h.kept.trans (.acknowledge w (by rw [Ride.settled_eq, hd]) (Ride.settled_number r d _))
  have hpool1 : NoLinkNotice (s.dock d) rep → SamePool s (w.acknowledge (r.settled d .delivered)) := h.pool
  generalize w.acknowledge (r.settled d .delivered) = a at hleft hride hackdock hcreds hkept hpool1 k
  have hspec := a.takeUp_spec r' false
  have hout : ∀ e ∈ a.releaseQ, e.dock ≠ r'.dock := hr'.symm ▸ hleft.out
  obtain ⟨hdock, hidle, hgrant⟩ := k.idle d (State.takeUp_out hleft.out r' false)
  have htaken := hspec.dock hout
  rw [hr', hackdock] at htaken
  rw [htaken] at hdock
  refine ⟨?_, ?_, hidle, hgrant (hr' ▸ hspec.grant hout), (k.creds.trans hspec.creds).trans hcreds,
    fun _ hissued => ?_, fun hq => ?_⟩
  · have hfind := a.takeUp_findRide r' false
    rw [hn, hride, Option.map_some, Bool.or_false, hkept.base.1] at hfind
    exact (k.findRide _).trans hfind
  · rw [hdock]
    rfl
  · obtain ⟨hmoved, hissued'⟩ := LeftQueue.takeUp (r := r') (hr'.symm ▸ hleft) hissued false
    rw [hr'] at hmoved
    have hself : AgreeBut s s d := ⟨rfl, fun _ => rfl, rfl, rfl, fun _ _ => rfl⟩
    exact hself.moved (.closed k hissued') hmoved
  · obtain ⟨hlistK, hnotice⟩ := a.takeUp_records r' false
    obtain ⟨hfree1, hlistN1, hlistK1⟩ := hpool1 hq
    rw [hn, hc, hr', hfree1, hlistK1] at hlistK hnotice
    refine ⟨k.pool.2.2.trans hlistK, ?_⟩
    exact (hnotice.seen hkept.base hkept.ports hlistN1).carry k.pool.1 k.pool.2.1 (k.latchedN _)

end

/-! ## The bike present without an acknowledgement (R61, R68, R122) -/

theorem Ready.unchanged (hq : (s.dock d).state = .queued) (k : TurnClosed (w.openAfterShow d) t) :
    t.findRide r.number = some (r.settled d .delivered) ∧
    t.dock d = replied (s.dock d) rep (t.dock d).ack (t.dock d).pending ∧ t.creds = s.creds ∧
    (GrantsIssued s →
      (t.dock d).pending = openNext (decide (d ∈ s.grants)) (clearedPending sent (s.dock d).pending)) ∧
    GrantsStand s t d ∧ (NoLinkNotice (s.dock d) rep → SamePool s t) := by
  have hframe := w.openAfterShow_frame d
  have hwq : (w.dock d).state = .queued := by rw [h.dock]; exact hq
  refine ⟨?_, ?_, (k.creds.trans hframe.creds).trans h.creds, fun hissued => ?_, fun _ hissued => ?_, fun hquiet =>
    SamePool.trans (SamePool.trans (h.pool hquiet) hframe.pool) k.pool⟩
  · rw [k.findRide, ← h.ride]
    unfold State.findRide
    rw [hframe.rides]
  · have hdock := k.docks d (List.not_mem_nil)
    rw [hdock.1, hframe.dock d, h.dock]
    rfl
  · have hw := h.agree.issued hissued
    obtain ⟨hagree, hpending⟩ := hw.openAfterShow hwq
    obtain ⟨-, -, hdocks⟩ := k.issued (hagree.issued hw)
    rw [hdocks d, hpending, h.agree.grants, h.dock]
    rfl
  · have hw := h.agree.issued hissued
    obtain ⟨hagree, -⟩ := hw.openAfterShow hwq
    have hall := (h.agree.trans hagree).trans (.closed k (hagree.issued hw))
    exact ⟨hall.releaseQ, hall.grants, hall.others⟩

end

/-! ## The bike gone without an acknowledgement (R75, R95) -/

/-- The station at which a ride is cancelled and its dock found without its bike. -/
def State.robbed (u : State) (d : DockIx) (before : Dock) (rep : StatusReply) (r : Ride) : State :=
  ((u.cancelRide r .latchFault).linkNotices d before rep).bikeGone d (some r.number)

theorem State.bikeGone_pool (s : State) (d : DockIx) (m : Option RideNo) :
    PoolFrame (s.updDock d Dock.toEmpty) (s.bikeGone d m) := State.notice_pool _ _ _

theorem State.bikeGone_dock (s : State) (d : DockIx) (m : Option RideNo) : (s.bikeGone d m).dock d = (s.dock d).toEmpty := by
  rw [(s.bikeGone_pool d m).dock, State.dock_updDock, if_pos rfl]

section
variable {s u t : State} {d : DockIx} {sent : Pending} {rep : StatusReply} {r : Ride} (before : Dock)

theorem State.robbed_agree (u : State) (d : DockIx) (rep : StatusReply) (r : Ride) :
    AgreeBut (u.cancelRide r .latchFault) (u.robbed d before rep r) d :=
  ((AgreeBut.pool (State.linkNotices_pool _ d before rep)).trans (.updDock _ d Dock.toEmpty)).trans
    (.pool (State.bikeGone_pool _ d _))

theorem State.robbed_tables (u : State) (d : DockIx) (rep : StatusReply) (r : Ride) :
    (u.robbed d before rep r).rides = (u.cancelRide r .latchFault).rides ∧
    (u.robbed d before rep r).creds = (u.cancelRide r .latchFault).creds ∧
    (u.robbed d before rep r).listK = (u.cancelRide r .latchFault).listK := by
  have hlink := (u.cancelRide r .latchFault).linkNotices_pool d before rep
  have hgone := ((u.cancelRide r .latchFault).linkNotices d before rep).bikeGone_pool d (some r.number)
  exact ⟨hgone.rides.trans hlink.rides, hgone.creds.trans hlink.creds,
    (State.notice_listK _ _ _).trans (State.linkNotices_listK _ d before rep)⟩

theorem State.robbed_dock (u : State) (rep : StatusReply) (r : Ride) :
    (u.robbed r.dock before rep r).dock r.dock = (u.dock r.dock).toDocked.toEmpty := by
  unfold State.robbed
  rw [State.bikeGone_dock, (State.linkNotices_pool _ _ _ _).dock, (u.cancelRide_spec r .latchFault).dock]

theorem State.robbed_out (u : State) (rep : StatusReply) (r : Ride) :
    (∀ y ∈ (u.robbed r.dock before rep r).releaseQ, y.dock ≠ r.dock) ∧ r.dock ∉ (u.robbed r.dock before rep r).grants := by
  have hspec := u.cancelRide_spec r .latchFault
  have hagree := u.robbed_agree before r.dock rep r
  refine ⟨fun y hy => ?_, by rw [hagree.grants]; exact hspec.grant⟩
  rw [hagree.releaseQ] at hy
  have hmem := List.mem_map_of_mem (f := fun e : QEntry => (e.dock, e.ride)) hy
  rw [hspec.queue] at hmem
  obtain ⟨y', hy', heq⟩ := List.mem_map.mp hmem
  rw [← show y'.dock = y.dock from congrArg Prod.fst heq]
  exact of_decide_eq_true (List.mem_filter.mp hy').2

/-- The cancellation of the settled ride, as its statement puts it of the ride before. -/
theorem Heard.rideEnded (h : Heard s u r.dock sent rep) {r' : Ride} (hr' : r' = { r with progress := r'.progress })
    (k : TurnClosed (u.robbed r.dock before rep r') t) {e : Cred} (he : s.findCred r.cred = some e)
    (hothers : OtherRidesKept s t r.number) : RideEnded s t r e .latchFault := by
  have hnumber : r'.number = r.number := by rw [hr']
  have hcred : r'.cred = r.cred := by rw [hr']
  have hdock : r'.dock = r.dock := by rw [hr']
  have hspec := u.cancelRide_spec r' .latchFault
  obtain ⟨hrides, hcreds, hlistK⟩ := u.robbed_tables before r.dock rep r'
  have hout := u.robbed_out before rep r'
  rw [hdock] at hout
  obtain ⟨hqueue, hgrant⟩ := hout
  obtain ⟨-, hqueue', hgrant'⟩ := k.idle r.dock hqueue
  have hcreds' : ∀ c, t.findCred c = if c = r.cred then (s.findCred c).bind cancelledEntry else s.findCred c := by
    intro c
    have hu : u.findCred c = s.findCred c := State.findCred_congr h.creds c
    rw [k.findCred, State.findCred_congr hcreds c, hspec.cred, hu, hcred]
  refine ⟨?_, hothers, ?_, fun c hc => ?_, ?_, hqueue', hgrant' hgrant, fun _ hissued => ?_⟩
  · rw [k.findRide]
    unfold State.findRide
    rw [hrides, hspec.rides, hnumber]
    refine List.find?_eq_none.mpr (fun x hx => ?_)
    simpa using (List.mem_filter.mp hx).2
  · rw [hcreds', if_pos rfl, he, Option.bind_some]
  · rw [hcreds', if_neg hc]
  · have hpool := congrArg Prod.snd (u.cancelRide_pool r' .latchFault)
    rw [h.pool.1, h.pool.2.2] at hpool
    refine (k.pool.2.2.trans (hlistK.trans hpool)).trans ?_
    rw [hr']
    rfl
  · have hagree := AgreeBut.heard h
    obtain ⟨hmoved, hissued'⟩ := State.cancelRide_moved (hagree.issued hissued) r' .latchFault
    rw [hdock] at hmoved
    have hafter := u.robbed_agree before r.dock rep r'
    exact hagree.moved (hafter.trans (.closed k (hafter.issued hissued'))) hmoved

theorem Heard.removedDock (h : Heard s u r.dock sent rep) {r' : Ride} (hr' : r' = { r with progress := r'.progress })
    (k : TurnClosed (u.robbed r.dock before rep r') t) :
    t.dock r.dock =
      { replied (s.dock r.dock) rep (t.dock r.dock).ack (withoutLatch (clearedPending sent (s.dock r.dock).pending)) with
        state := .empty, tag := 0#32, since := 0#16, relatch := 0 } := by
  have hdock : r'.dock = r.dock := by rw [hr']
  have hout := u.robbed_out before rep r'
  have hrobbed := u.robbed_dock before rep r'
  rw [hdock] at hout hrobbed
  obtain ⟨hkept, -, -⟩ := k.idle r.dock hout.1
  rw [hkept, hrobbed, h.dock, ← Pending.dropLatch_eq]
  rfl

/-- UNAUTH_REMOVAL is the one notice of a reply without link notices. -/
theorem Heard.removalNoticed (h : Heard s u r.dock sent rep) {r' : Ride} (hr' : r' = { r with progress := r'.progress })
    (hlink : before.link = (s.dock r.dock).link) (hpower : before.powerLow = (s.dock r.dock).powerLow)
    (hquiet : NoLinkNotice (s.dock r.dock) rep) (k : TurnClosed (u.robbed r.dock before rep r') t) :
    Notified s t (cancelPool s.free s.listK r .latchFault).1 (.dock r.dock)
      (.unauthRemoval (s.dock r.dock).tag (some r.number)) := by
  have hnumber : r'.number = r.number := by rw [hr']
  have hdock : r'.dock = r.dock := by rw [hr']
  have hspec := u.cancelRide_spec r' .latchFault
  have hkept : ReplyKept s (u.cancelRide r' .latchFault) r.dock r.number :=
    (ReplyKept.heard h).trans (.cancelRide u hdock hnumber _)
  have htag : ((u.cancelRide r' .latchFault).dock r.dock).tag = (s.dock r.dock).tag := by
    rw [← hdock, hspec.dock, hdock, h.dock]
    rfl
  have hfree := congrArg Prod.fst (u.cancelRide_pool r' .latchFault)
  rw [h.pool.1, h.pool.2.2] at hfree
  have hfree' : (u.cancelRide r' .latchFault).free = (cancelPool s.free s.listK r .latchFault).1 :=
    hfree.trans (by rw [hr']; rfl)
  have hnotice := ((u.cancelRide r' .latchFault).updDock r.dock Dock.toEmpty).notice_notified (.dock r.dock)
    (.unauthRemoval ((u.cancelRide r' .latchFault).dock r.dock).tag (some r'.number))
  have hseen := hnotice.seen (s := s) hkept.base hkept.ports (hspec.listN.trans h.pool.2.1)
  rw [State.updDock_free, hfree', htag, hnumber] at hseen
  have hrobbed : u.robbed r.dock before rep r' =
      ((u.cancelRide r' .latchFault).updDock r.dock Dock.toEmpty).notice (.dock r.dock)
        (.unauthRemoval (s.dock r.dock).tag (some r.number)) := by
    unfold State.robbed State.bikeGone
    rw [NoLinkNotice.linkNotices hquiet hlink hpower, htag, hnumber]
  rw [hrobbed] at k
  exact hseen.carry k.pool.1 k.pool.2.1 (k.latchedN _)

end

/-! ## The reply as a whole -/

theorem State.settleReply_queued_kept {u : State} {d : DockIx} {r : Ride} {rep : StatusReply} (hr : u.rideAt d = some r)
    (hq : r.state = .queued) (hjam : rep.latch ≠ .jammed) (before : Dock) (c : Bool) :
    ReplyKept u (u.settleReply d before rep c) d r.number := by
  obtain ⟨-, hd, -⟩ := State.rideAt_some hr
  have hlink : ∀ v : State, ReplyKept v (v.linkNotices d before rep) d r.number :=
    fun v => .pool (v.linkNotices_pool d before rep)
  rw [State.settleReply_queued hr hq hjam]
  split
  · have hack := (hlink u).trans (.acknowledge _ hd rfl)
    split
    · exact hack
    · exact hack.trans (.takeUp _ hd rfl false)
  · split
    · exact hlink u
    · exact ((ReplyKept.cancelRide u hd rfl _).trans (hlink _)).trans (.bikeGone _ d _)

/-! A dock that has left QUEUED gets no OPEN after a SHOW. -/

theorem State.acknowledge_openAfterShow {s : State} {d : DockIx} {r : Ride} (hd : r.dock = d) :
    (s.acknowledge r).openAfterShow d = s.acknowledge r := by
  refine State.openAfterShow_eq ?_
  rw [State.acknowledge_dock, if_pos hd.symm]
  exact DockState.noConfusion

theorem State.takeUp_openAfterShow {s : State} {d : DockIx} {r : Ride} (hd : r.dock = d)
    (hout : ∀ e ∈ s.releaseQ, e.dock ≠ d) (late : Bool) : (s.takeUp r late).openAfterShow d = s.takeUp r late := by
  subst hd
  refine State.openAfterShow_eq ?_
  rw [(s.takeUp_spec r late).dock hout]
  exact DockState.noConfusion

theorem State.robbed_openAfterShow {u : State} {d : DockIx} {r : Ride} (hd : r.dock = d) (before : Dock)
    (rep : StatusReply) : (u.robbed d before rep r).openAfterShow d = u.robbed d before rep r := by
  subst hd
  refine State.openAfterShow_eq ?_
  rw [u.robbed_dock before rep r]
  exact DockState.noConfusion

/-- OPEN has reached the node of a QUEUED ride only where its dock holds a grant (R106). -/
theorem ReleaseInv.granted {s : State} (h : ReleaseInv s) {r : Ride} (hr : r ∈ s.rides) (hq : r.state = .queued)
    (hsent : r.progress ≠ .notSent) : r.dock ∈ s.grants := by
  obtain ⟨-, -, -, -, -, -, hopen⟩ := h
  exact hopen r hr hq hsent

end Sys2Proof.Machine

namespace Sys2Proof.Proofs
open Sys2Proof.Machine

/-- Settles O31: the reply is heard, settled in one of four ways at the dock of the QUEUED ride, and the turn closed. -/
theorem latchOpenAcknowledged : Obligations.LatchOpenAcknowledged := by
  intro s l x r rep d hdue hsorted hr hq hdq hjam acked r'
  have hcloses : ∃ (u t : State) (before : Dock), exec (.statusReply l rep) s = .next t ∧ Heard s u d x.cmd rep ∧
      before.link = (s.dock d).link ∧ before.powerLow = (s.dock d).powerLow ∧
      TurnClosed ((u.settleReply d before rep (decide (x.cmd = .closeCmd))).openAfterShow d) t := hdue.closes rep
  obtain ⟨u, t, before, hexec, hheard, hlink, hpower, hclosed⟩ := hcloses
  clear_value d
  obtain ⟨hmem, rfl, -⟩ := State.rideAt_some hr
  have hr' : r' = { r with progress := r'.progress } := Ride.settled_eq r r.dock .delivered
  have hnumber : r'.number = r.number := by rw [hr']
  have hdock : r'.dock = r.dock := by rw [hr']
  have hq' : r'.state = .queued := by rw [hr', hq]
  have hur : u.rideAt r.dock = some r' := by rw [rideAt_settled hheard.rides, hr, Option.map_some]
  have hack : acksOpen r' rep = true ↔ acked := by
    unfold acksOpen
    rw [decide_eq_true_iff, Ride.settled_sent rfl]
    exact and_comm
  have hkept : ReplyKept s t r.dock r.number :=
    (((ReplyKept.heard hheard).trans (hnumber ▸ State.settleReply_queued_kept hur hq' hjam before _)).trans
      (.openAfterShow _ r.dock)).trans (.closed hclosed)
  have hready : Ready s (u.linkNotices r.dock before rep) r.dock x.cmd rep r :=
    hheard.ready hsorted hr (u.linkNotices_pool r.dock before rep)
      (fun hquiet => hquiet.linkNotices hlink hpower u r.dock)
  rw [State.settleReply_queued hur hq' hjam] at hclosed
  refine ⟨t, hexec, hkept.rides, hkept.docks, hkept.base, hkept.ports, fun ha hbike => ?_, fun ha hbike => ?_,
    fun ha hbike => ?_, fun e ha hbike he => ?_⟩
  · rw [if_pos (hack.mpr ha), if_pos hbike, State.acknowledge_openAfterShow hdock] at hclosed
    obtain ⟨hride, hdock', hout, hcreds, hstand, hpool⟩ := hready.acknowledged rfl hclosed
    refine ⟨hride, hdock', hout, hcreds, fun hrel hissued => ?_, hpool⟩
    obtain ⟨hqueue, hgrants, hothers⟩ := hstand hissued
    exact ⟨hqueue, hgrants, hgrants ▸ hrel.granted hmem hq ha.2, hothers⟩
  · rw [if_pos (hack.mpr ha), if_neg (by simp [hbike]), State.takeUp_openAfterShow ?hdock ?hout] at hclosed
    case hdock => exact hdock
    case hout => exact (hready.acknowledge_leftQueue rfl).out
    exact hready.takenUp rfl hnumber (by rw [hr']) hdock hclosed
  · rw [if_neg (mt hack.mp ha), if_pos hbike] at hclosed
    exact hready.unchanged hdq hclosed
  · rw [if_neg (mt hack.mp ha), if_neg (by simp [hbike])] at hclosed
    change TurnClosed ((u.robbed r.dock before rep r').openAfterShow r.dock) t at hclosed
    rw [State.robbed_openAfterShow hdock] at hclosed
    exact ⟨hheard.rideEnded before hr' hclosed he hkept.rides, hheard.removedDock before hr' hclosed,
      fun hquiet => hheard.removalNoticed before hr' hlink hpower hquiet hclosed⟩

end Sys2Proof.Proofs
end

section
/-! PROOFS. Rides, docks, release queue, grants and pending commands seen dock by dock, and what the grant procedure and a
pending command do to that view (R66, R105 to R110). -/

namespace Sys2Proof.Machine

/-! ## One dock with what names it -/

/-- The rides not OPEN that name a dock (R66). -/
def State.boundAt (s : State) (d : DockIx) : List Ride :=
  s.rides.filter (fun r => decide (r.dock = d ∧ r.state ≠ .opened))

/-- The entries of the release queue that name a dock (R105). -/
def State.entriesAt (s : State) (d : DockIx) : List QEntry := s.releaseQ.filter (fun e => decide (e.dock = d))

/-- The pending command does not move the latch. -/
def Pending.Still (p : Pending) : Prop := p ≠ .openCmd ∧ p ≠ .closeCmd

/-- A QUEUED dock with its ride and its entry: OPEN only with a grant, and a command with every grant but where it is still
owed after a delivered SHOW (R61, R106, R109). -/
structure QueuedAt (p : Pending) (r : Ride) (e : QEntry) (granted owing : Bool) : Prop where
  ride    : r.state = .queued
  entry   : e.ride = r.number
  flag    : e.granted = granted
  noClose : p ≠ .closeCmd
  opens   : p = .openCmd → granted = true
  filled  : granted = true → p = .none → owing = true
  sent    : r.progress ≠ .notSent → granted = true

/-- A dock record agrees with the rides bound to the dock, its entries and its grant (R66, R105 to R109). -/
def DockAgrees (x : Dock) (rs : List Ride) (es : List QEntry) (granted owing : Bool) : Prop :=
  match x.state with
  | .queued => ∃ r e, rs = [r] ∧ es = [e] ∧ QueuedAt x.pending r e granted owing
  | .releasing => (∃ r, rs = [r] ∧ r.state = .releasing) ∧ es = [] ∧ granted = true ∧ x.pending.Still
  | .relatching => (rs = [] ∨ ∃ r, rs = [r] ∧ r.state = .relatching) ∧ es = [] ∧ granted = false ∧ x.pending = .closeCmd
  | .unfitted | .unknown | .empty | .docked | .faulted _ => rs = [] ∧ es = [] ∧ granted = false ∧ x.pending.Still

/-- Every dock but one that is being written agrees with what names it; owing is the dock, if any, whose OPEN after a
delivered SHOW is still to be set. -/
structure ReleaseSound (owing gone : Option DockIx) (s : State) : Prop where
  sorted : RidesSorted s
  nodup  : s.grants.Nodup
  docks  : ∀ d, gone ≠ some d →
    DockAgrees (s.dock d) (s.boundAt d) (s.entriesAt d) (s.granted d) (decide (owing = some d))

/-! ## The view and the invariant as it is stated -/

theorem State.mem_boundAt {s : State} {d : DockIx} {r : Ride} :
    r ∈ s.boundAt d ↔ r ∈ s.rides ∧ r.dock = d ∧ r.state ≠ .opened := by
  rw [State.boundAt, List.mem_filter, decide_eq_true_iff]

theorem State.mem_entriesAt {s : State} {d : DockIx} {e : QEntry} : e ∈ s.entriesAt d ↔ e ∈ s.releaseQ ∧ e.dock = d := by
  rw [State.entriesAt, List.mem_filter, decide_eq_true_iff]

theorem State.granted_iff {s : State} {d : DockIx} : s.granted d = true ↔ d ∈ s.grants := List.contains_iff_mem

theorem State.entriesAt_nil {s : State} {d : DockIx} : s.entriesAt d = [] ↔ ∀ e ∈ s.releaseQ, e.dock ≠ d := by
  rw [State.entriesAt, List.filter_eq_nil_iff]
  simp only [decide_eq_true_iff, ne_eq]

theorem State.boundAt_nil {s : State} {d : DockIx} : s.boundAt d = [] ↔ s.rideAt d = none := by
  rw [State.boundAt, List.filter_eq_nil_iff, State.rideAt, List.find?_eq_none]

/-- The ride at a dock is the one bound to it. -/
theorem State.rideAt_eq_head (s : State) (d : DockIx) : s.rideAt d = (s.boundAt d).head? := by
  rw [State.rideAt, State.boundAt, List.head?_filter]

/-- A list with at most one element of each key has distinct keys. -/
theorem nodup_map_of_filter {α : Type} {xs : List α} {key : α → DockIx}
    (h : ∀ d, (xs.filter (fun x => decide (key x = d))).length ≤ 1) : (xs.map key).Nodup := by
  refine List.nodup_iff_count_le_one.mpr (fun d => ?_)
  have hcount : List.count d (xs.map key) = (xs.filter (fun x => decide (key x = d))).length := by
    rw [List.count, List.countP_map, List.countP_eq_length_filter]
    exact congrArg List.length (List.filter_congr (fun x _ => by simp [beq_eq_decide]))
  exact hcount ▸ h d

theorem filter_of_nodup {α : Type} {xs : List α} {key : α → DockIx} (h : (xs.map key).Nodup) {x : α} (hx : x ∈ xs) :
    xs.filter (fun y => decide (key y = key x)) = [x] := by
  induction xs with
  | nil => cases hx
  | cons y ys ih =>
    obtain ⟨hnot, hrest⟩ := List.nodup_cons.mp h
    rcases List.mem_cons.mp hx with rfl | hx
    · rw [List.filter_cons_of_pos (by simp), List.filter_eq_nil_iff.mpr]
      intro z hz hkey
      exact hnot (List.mem_map.mpr ⟨z, hz, of_decide_eq_true hkey⟩)
    · rw [List.filter_cons_of_neg, ih hrest hx]
      intro hkey
      exact hnot (List.mem_map.mpr ⟨x, hx, (of_decide_eq_true hkey).symm⟩)

/-- The rides that bind docks, with their docks as keys. -/
theorem State.boundAt_eq (s : State) (d : DockIx) :
    s.boundAt d = (s.rides.filter (fun r => decide (r.state ≠ .opened))).filter (fun r => decide (r.dock = d)) := by
  rw [List.filter_filter, State.boundAt]
  exact List.filter_congr (fun r _ => by simp)

/-- No two rides that bind a dock bind the same one. -/
theorem pairwise_docks_iff {xs : List Ride} :
    xs.Pairwise (fun a b => a.state ≠ .opened → b.state ≠ .opened → a.dock ≠ b.dock) ↔
      ((xs.filter (fun r => decide (r.state ≠ .opened))).map (fun r => r.dock)).Nodup := by
  rw [List.Nodup, List.pairwise_map, List.pairwise_filter]
  simp only [decide_eq_true_iff]

theorem DockAgrees.single {x : Dock} {rs : List Ride} {es : List QEntry} {g o : Bool} (h : DockAgrees x rs es g o) :
    rs.length ≤ 1 ∧ es.length ≤ 1 := by
  unfold DockAgrees at h
  split at h
  · obtain ⟨r, e, rfl, rfl, -⟩ := h
    exact ⟨Nat.le_refl 1, Nat.le_refl 1⟩
  · obtain ⟨⟨r, rfl, -⟩, rfl, -⟩ := h
    exact ⟨Nat.le_refl 1, Nat.zero_le 1⟩
  · obtain ⟨rfl | ⟨r, rfl, -⟩, rfl, -⟩ := h
    · exact ⟨Nat.zero_le 1, Nat.zero_le 1⟩
    · exact ⟨Nat.le_refl 1, Nat.zero_le 1⟩
  all_goals
    obtain ⟨rfl, rfl, -⟩ := h
    exact ⟨Nat.zero_le 1, Nat.zero_le 1⟩

end Sys2Proof.Machine
end

section
/-! PROOFS. The agreement that the statements ask for and the agreement dock by dock are the same (R66, R105 to R109). -/

namespace Sys2Proof.Machine

/-! ## The invariant of the statement, dock by dock -/

/-- The states in which no ride binds the dock (R66). -/
def DockState.isPlain : DockState → Bool
  | .queued | .releasing | .relatching => false
  | .unfitted | .unknown | .empty | .docked | .faulted _ => true

theorem boundDock_eq (x : Dock) : boundDock x = !x.state.isPlain := by
  unfold boundDock
  cases x.state <;> rfl

/-- A bound ride is alone at its dock. -/
theorem BindInv.boundAt {s : State} (h : BindInv s) {r : Ride} (hr : r ∈ s.rides) (ho : r.state ≠ .opened) :
    s.boundAt r.dock = [r] := by
  obtain ⟨-, -, hapart, -⟩ := h
  rw [State.boundAt_eq]
  exact filter_of_nodup (pairwise_docks_iff.mp hapart) (List.mem_filter.mpr ⟨hr, decide_eq_true ho⟩)

theorem ReleaseInv.agrees {s : State} (h : ReleaseInv s) (d : DockIx) :
    DockAgrees (s.dock d) (s.boundAt d) (s.entriesAt d) (s.granted d) (decide (none = some d)) := by
  obtain ⟨hbind, ⟨hqueue, hentry, hnamed⟩, ⟨-, hgrant, hflag, hreleasing⟩, hopen, hclose, hfilled, hsent⟩ := h
  obtain ⟨-, hstate, -, hreleasingRide, hqueuedRide⟩ := id hbind
  have hbound : ∀ r ∈ s.boundAt d, some (s.dock d).state = r.state.dockState := by
    intro r hmem
    obtain ⟨hr, rfl, ho⟩ := State.mem_boundAt.mp hmem
    exact hstate r hr ho
  have hunnamed : (s.dock d).state ≠ .queued → s.entriesAt d = [] := by
    refine fun hne => State.entriesAt_nil.mpr (fun e he hd => hne ?_)
    rw [← hd]
    exact (hnamed e he).1
  have hungranted : (s.dock d).state ≠ .queued → (s.dock d).state ≠ .releasing → s.granted d = false := by
    refine fun hq hr => Bool.eq_false_iff.mpr (fun hg => ?_)
    rcases hgrant d (State.granted_iff.mp hg) with hrel | ⟨e, he, hd, -⟩
    · exact hr hrel
    · exact hq (hd ▸ (hnamed e he).1)
  have hstill : (s.dock d).state ≠ .queued → (s.dock d).state ≠ .relatching → (s.dock d).pending.Still :=
    fun hq hr => ⟨fun a => hq (hopen d a).1, fun a => hr ((hclose d).mp a)⟩
  have hplain : (s.dock d).state.isPlain = true → s.boundAt d = [] ∧ s.entriesAt d = [] ∧ s.granted d = false ∧
      (s.dock d).pending.Still := by
    intro hp
    have hq : (s.dock d).state ≠ .queued := fun a => by rw [a] at hp; cases hp
    have hr : (s.dock d).state ≠ .releasing := fun a => by rw [a] at hp; cases hp
    have hl : (s.dock d).state ≠ .relatching := fun a => by rw [a] at hp; cases hp
    refine ⟨List.eq_nil_iff_forall_not_mem.mpr (fun r hr' => ?_), hunnamed hq, hungranted hq hr, hstill hq hl⟩
    have hsame := hbound r hr'
    cases hstr : r.state <;> rw [hstr] at hsame
    · exact hq (Option.some.inj hsame)
    · exact hr (Option.some.inj hsame)
    · exact hl (Option.some.inj hsame)
    · cases hsame
  unfold DockAgrees
  cases hst : (s.dock d).state with
  | queued =>
    obtain ⟨r, hr, hrq, rfl⟩ := hqueuedRide d hst
    obtain ⟨e, he, hed⟩ := hentry _ hst
    have hrs := hbind.boundAt hr (by simp [hrq])
    have hes : s.entriesAt r.dock = [e] := hed ▸ filter_of_nodup hqueue he
    have hflag' : e.granted = s.granted r.dock := by
      refine Bool.eq_iff_iff.mpr (Iff.trans ⟨fun hg => hed ▸ hflag e he hg, fun hg => ?_⟩ State.granted_iff.symm)
      rcases hgrant _ hg with hrel | ⟨e', he', hd', hg'⟩
      · rw [hst] at hrel
        cases hrel
      · have hmem : e' ∈ s.entriesAt r.dock := State.mem_entriesAt.mpr ⟨he', hd'⟩
        rw [hes, List.mem_singleton] at hmem
        exact hmem ▸ hg'
    refine ⟨r, e, hrs, hes, hrq, ?_, hflag', fun hc => ?_, fun ho => State.granted_iff.mpr (hopen _ ho).2, fun hg hp =>
      absurd hp (hfilled _ (State.granted_iff.mp hg) hst), fun hp => State.granted_iff.mpr (hsent r hr hrq hp)⟩
    · obtain ⟨-, r', hr', hn, hq', hd'⟩ := hnamed e he
      have hmem : r' ∈ s.boundAt r.dock :=
        State.mem_boundAt.mpr ⟨hr', hd'.trans hed, by rw [hq']; exact RideState.noConfusion⟩
      rw [hrs, List.mem_singleton] at hmem
      rw [← hn, hmem]
    · have := (hclose _).mp hc
      rw [hst] at this
      cases this
  | releasing =>
    obtain ⟨r, hr, hrq, rfl⟩ := hreleasingRide d hst
    exact ⟨⟨r, hbind.boundAt hr (by simp [hrq]), hrq⟩, hunnamed (by simp [hst]),
      State.granted_iff.mpr (hreleasing _ hst), hstill (by simp [hst])
        (by simp [hst])⟩
  | relatching =>
    refine ⟨?_, hunnamed (by simp [hst]), hungranted (by simp [hst])
      (by simp [hst]), (hclose d).mpr hst⟩
    cases hrs : s.boundAt d with
    | nil => exact .inl rfl
    | cons r rs =>
      have hmem : r ∈ s.boundAt d := hrs ▸ List.mem_cons_self
      have hrst := hbound r hmem
      obtain ⟨hr, rfl, ho⟩ := State.mem_boundAt.mp hmem
      rw [← hrs]
      refine .inr ⟨r, hbind.boundAt hr ho, ?_⟩
      rw [hst] at hrst
      cases hr' : r.state with
      | relatching => rfl
      | queued | releasing | opened =>
        rw [hr'] at hrst
        exact absurd hrst nofun
  | _ => exact hplain (by rw [hst]; rfl)

theorem ReleaseInv.sound {s : State} (h : ReleaseInv s) : ReleaseSound none none s :=
  ⟨h.1.1, h.2.2.1.1, fun d _ => h.agrees d⟩

section
variable {x : Dock} {rs : List Ride} {es : List QEntry} {g o : Bool} (h : DockAgrees x rs es g o)
include h

/-! What each dock state says, and what says the dock state. -/

theorem DockAgrees.queued (hx : x.state = .queued) : ∃ r e, rs = [r] ∧ es = [e] ∧ QueuedAt x.pending r e g o := by
  unfold DockAgrees at h
  rwa [hx] at h

theorem DockAgrees.releasing (hx : x.state = .releasing) :
    (∃ r, rs = [r] ∧ r.state = .releasing) ∧ es = [] ∧ g = true ∧ x.pending.Still := by
  unfold DockAgrees at h
  rwa [hx] at h

theorem DockAgrees.relatching (hx : x.state = .relatching) :
    (rs = [] ∨ ∃ r, rs = [r] ∧ r.state = .relatching) ∧ es = [] ∧ g = false ∧ x.pending = .closeCmd := by
  unfold DockAgrees at h
  rwa [hx] at h

theorem DockAgrees.plain (hx : x.state.isPlain = true) : rs = [] ∧ es = [] ∧ g = false ∧ x.pending.Still := by
  unfold DockAgrees at h
  cases hst : x.state with
  | queued | releasing | relatching =>
    rw [hst] at hx
    exact absurd hx nofun
  | _ => rwa [hst] at h

/-- A ride that is bound to the dock is the only one, and dock and ride are in the same state (R66). -/
theorem DockAgrees.ride {r : Ride} (hr : r ∈ rs) : rs = [r] ∧ some x.state = r.state.dockState := by
  unfold DockAgrees at h
  split at h
  · next hx =>
    obtain ⟨r', e, rfl, -, hq⟩ := h
    obtain rfl := List.mem_singleton.mp hr
    exact ⟨rfl, by rw [hx, hq.ride]; rfl⟩
  · next hx =>
    obtain ⟨⟨r', rfl, hst⟩, -⟩ := h
    obtain rfl := List.mem_singleton.mp hr
    exact ⟨rfl, by rw [hx, hst]; rfl⟩
  · next hx =>
    obtain ⟨rfl | ⟨r', rfl, hst⟩, -⟩ := h
    · cases hr
    · obtain rfl := List.mem_singleton.mp hr
      exact ⟨rfl, by rw [hx, hst]; rfl⟩
  all_goals
    obtain ⟨rfl, -⟩ := h
    cases hr

/-- An entry names a QUEUED dock (R105). -/
theorem DockAgrees.entry {e : QEntry} (he : e ∈ es) : x.state = .queued ∧ es = [e] := by
  unfold DockAgrees at h
  split at h
  · next hx =>
    obtain ⟨r, e', -, rfl, -⟩ := h
    obtain rfl := List.mem_singleton.mp he
    exact ⟨hx, rfl⟩
  · obtain ⟨-, rfl, -⟩ := h
    cases he
  · obtain ⟨-, rfl, -⟩ := h
    cases he
  all_goals
    obtain ⟨-, rfl, -⟩ := h
    cases he

/-- A grant is held by a QUEUED or RELEASING dock (R107). -/
theorem DockAgrees.held (hg : g = true) : x.state = .queued ∨ x.state = .releasing := by
  unfold DockAgrees at h
  split at h
  · next hx => exact .inl hx
  · next hx => exact .inr hx
  all_goals
    obtain ⟨-, -, hno, -⟩ := h
    rw [hg] at hno
    cases hno

theorem DockAgrees.open_queued (hp : x.pending = .openCmd) : x.state = .queued ∧ g = true := by
  unfold DockAgrees at h
  split at h
  · next hx =>
    obtain ⟨r, e, -, -, hq⟩ := h
    exact ⟨hx, hq.opens hp⟩
  · exact absurd hp h.2.2.2.1
  · rw [h.2.2.2] at hp
    cases hp
  all_goals exact absurd hp h.2.2.2.1

theorem DockAgrees.close_iff : x.pending = .closeCmd ↔ x.state = .relatching := by
  refine ⟨fun hp => ?_, fun hx => (h.relatching hx).2.2.2⟩
  unfold DockAgrees at h
  split at h
  · obtain ⟨r, e, -, -, hq⟩ := h
    exact absurd hp hq.noClose
  · exact absurd hp h.2.2.2.2
  · assumption
  all_goals exact absurd hp h.2.2.2.2

end

/-- A dock that no ride binds, out of the queue and without a grant, its pending command still. -/
theorem DockAgrees.of_plain {x : Dock} (hx : x.state.isPlain = true) (hp : x.pending.Still) (o : Bool) :
    DockAgrees x [] [] false o := by
  unfold DockAgrees
  cases hst : x.state with
  | queued | releasing | relatching =>
    rw [hst] at hx
    exact absurd hx nofun
  | _ => exact ⟨rfl, rfl, rfl, hp⟩

namespace ReleaseSound

variable {o g : Option DockIx} {s t : State}

theorem agree (h : ReleaseSound o none s) (d : DockIx) :
    DockAgrees (s.dock d) (s.boundAt d) (s.entriesAt d) (s.granted d) (decide (o = some d)) :=
  h.docks d nofun

/-- A bound ride is the one at its dock, in the state of the dock (R66). -/
theorem bound (h : ReleaseSound o none s) {r : Ride} (hr : r ∈ s.rides) (ho : r.state ≠ .opened) :
    s.boundAt r.dock = [r] ∧ some (s.dock r.dock).state = r.state.dockState :=
  (h.agree r.dock).ride (State.mem_boundAt.mpr ⟨hr, rfl, ho⟩)

/-- The release queue names each dock once (R105). -/
theorem queue_nodup (h : ReleaseSound o g s) (hg : ∀ d, g = some d → s.entriesAt d = []) :
    (s.releaseQ.map (fun e => e.dock)).Nodup := by
  refine nodup_map_of_filter (fun d => ?_)
  by_cases hd : g = some d
  · show (s.entriesAt d).length ≤ 1
    rw [hg d hd]
    exact Nat.zero_le 1
  · exact (h.docks d hd).single.2

theorem inv (h : ReleaseSound none none s) : ReleaseInv s := by
  have hdock : ∀ r ∈ s.rides, r.state ≠ .opened → some (s.dock r.dock).state = r.state.dockState :=
    fun r hr ho => (h.bound hr ho).2
  have hapart : s.rides.Pairwise (fun a b => a.state ≠ .opened → b.state ≠ .opened → a.dock ≠ b.dock) := by
    refine pairwise_docks_iff.mpr (nodup_map_of_filter (fun d => ?_))
    rw [← State.boundAt_eq]
    exact (h.agree d).single.1
  have hride : ∀ {d : DockIx} {r : Ride}, s.boundAt d = [r] → r ∈ s.rides ∧ r.dock = d := by
    intro d r hrs
    obtain ⟨hr, hd, -⟩ := State.mem_boundAt.mp (hrs ▸ List.mem_singleton_self r)
    exact ⟨hr, hd⟩
  have hentry : ∀ e ∈ s.releaseQ, (s.dock e.dock).state = .queued ∧ s.entriesAt e.dock = [e] :=
    fun e he => (h.agree e.dock).entry (State.mem_entriesAt.mpr ⟨he, rfl⟩)
  refine ⟨⟨h.sorted, hdock, hapart, fun d hd => ?_, fun d hd => ?_⟩,
    ⟨h.queue_nodup (fun _ => nofun), fun d hd => ?_, fun e he => ⟨(hentry e he).1, ?_⟩⟩,
    ⟨h.nodup, fun d hd => ?_, fun e he hg => ?_, fun d hd => ?_⟩,
    fun d hp => ?_, fun d => (h.agree d).close_iff, fun d hd hq hp => ?_, fun r hr hq hp => ?_⟩
  · obtain ⟨⟨r, hrs, hst⟩, -⟩ := (h.agree d).releasing hd
    exact ⟨r, (hride hrs).1, hst, (hride hrs).2⟩
  · obtain ⟨r, e, hrs, -, hq⟩ := (h.agree d).queued hd
    exact ⟨r, (hride hrs).1, hq.ride, (hride hrs).2⟩
  · obtain ⟨r, e, -, hes, -⟩ := (h.agree d).queued hd
    exact ⟨e, State.mem_entriesAt.mp (hes ▸ List.mem_singleton_self e)⟩
  · obtain ⟨r, e', hrs, hes, hq⟩ := (h.agree e.dock).queued (hentry e he).1
    rw [(hentry e he).2] at hes
    obtain rfl := List.singleton_inj.mp hes
    exact ⟨r, (hride hrs).1, hq.entry.symm, hq.ride, (hride hrs).2⟩
  · have hg := State.granted_iff.mpr hd
    rcases (h.agree d).held hg with hst | hst
    · obtain ⟨r, e, -, hes, hq⟩ := (h.agree d).queued hst
      obtain ⟨he, hed⟩ := State.mem_entriesAt.mp (hes ▸ List.mem_singleton_self e)
      exact .inr ⟨e, he, hed, hq.flag.trans hg⟩
    · exact .inl hst
  · obtain ⟨r, e', -, hes, hq⟩ := (h.agree e.dock).queued (hentry e he).1
    rw [(hentry e he).2] at hes
    obtain rfl := List.singleton_inj.mp hes
    exact State.granted_iff.mp (hq.flag ▸ hg)
  · exact State.granted_iff.mp ((h.agree d).releasing hd).2.2.1
  · exact ⟨((h.agree d).open_queued hp).1, State.granted_iff.mp ((h.agree d).open_queued hp).2⟩
  · obtain ⟨r, e, -, -, hq'⟩ := (h.agree d).queued hq
    exact absurd (hq'.filled (State.granted_iff.mpr hd) hp) (by simp)
  · have ho : r.state ≠ .opened := by simp [hq]
    have hst : (s.dock r.dock).state = .queued := by
      have hsame := hdock r hr ho
      rw [hq] at hsame
      exact Option.some.inj hsame
    obtain ⟨r', e, hrs, -, hq'⟩ := (h.agree r.dock).queued hst
    rw [(h.bound hr ho).1] at hrs
    obtain rfl := List.singleton_inj.mp hrs
    exact State.granted_iff.mp (hq'.sent hp)

end ReleaseSound

end Sys2Proof.Machine
end

section
/-! PROOFS. The agreement of rides, docks, queue and grants under single writes, and while one dock is being written (R66,
R105, R109). -/

namespace Sys2Proof.Machine

/-! ## How the view of one dock changes -/

/-- State and pending command of the dock record are all that its agreement reads. -/
theorem DockAgrees.congr {x y : Dock} {rs : List Ride} {es : List QEntry} {g o : Bool} (h : DockAgrees x rs es g o)
    (hs : y.state = x.state) (hp : y.pending = x.pending) : DockAgrees y rs es g o := by
  unfold DockAgrees at h ⊢
  rwa [hs, hp]

/-- A QUEUED dock with its ride and its entry agrees. -/
theorem DockAgrees.of_queued {x : Dock} {r : Ride} {e : QEntry} {g o : Bool} (hx : x.state = .queued)
    (h : QueuedAt x.pending r e g o) : DockAgrees x [r] [e] g o := by
  unfold DockAgrees
  rw [hx]
  exact ⟨r, e, rfl, rfl, h⟩

/-- The view of a dock is the same in two states. -/
structure ViewKept (s t : State) (d : DockIx) : Prop where
  state   : (t.dock d).state = (s.dock d).state
  pending : (t.dock d).pending = (s.dock d).pending
  bound   : t.boundAt d = s.boundAt d
  entries : t.entriesAt d = s.entriesAt d
  granted : t.granted d = s.granted d

theorem ViewKept.agrees {s t : State} {d : DockIx} {o : Bool} (k : ViewKept s t d)
    (h : DockAgrees (s.dock d) (s.boundAt d) (s.entriesAt d) (s.granted d) o) :
    DockAgrees (t.dock d) (t.boundAt d) (t.entriesAt d) (t.granted d) o := by
  rw [k.bound, k.entries, k.granted]
  exact h.congr k.state k.pending

theorem State.boundAt_congr {s t : State} (h : t.rides = s.rides) (d : DockIx) : t.boundAt d = s.boundAt d := by
  unfold State.boundAt
  rw [h]

theorem State.entriesAt_congr {s t : State} (h : t.releaseQ = s.releaseQ) (d : DockIx) : t.entriesAt d = s.entriesAt d := by
  unfold State.entriesAt
  rw [h]

theorem State.granted_congr {s t : State} (h : t.grants = s.grants) (d : DockIx) : t.granted d = s.granted d := by
  unfold State.granted
  rw [h]

/-- Rides whose number, dock and state are kept, and whose OPEN has gone out only where it had or where the dock holds a
grant. -/
theorem DockAgrees.mapRides {x : Dock} {rs : List Ride} {es : List QEntry} {g o : Bool} (h : DockAgrees x rs es g o)
    (f : Ride → Ride) (hf : ∀ r ∈ rs, (f r).number = r.number ∧ (f r).state = r.state ∧
      ((f r).progress ≠ .notSent → r.progress ≠ .notSent ∨ x.pending = .openCmd)) :
    DockAgrees x (rs.map f) es g o := by
  unfold DockAgrees at h ⊢
  split at h
  · obtain ⟨r, e, rfl, rfl, hq⟩ := h
    obtain ⟨hnum, hst, hsent⟩ := hf r (List.mem_singleton_self r)
    refine ⟨f r, e, rfl, rfl, ⟨hst.trans hq.ride, hq.entry.trans hnum.symm, hq.flag, hq.noClose, hq.opens, hq.filled,
      fun hp => ?_⟩⟩
    exact (hsent hp).elim hq.sent hq.opens
  · obtain ⟨⟨r, rfl, hst⟩, hrest⟩ := h
    exact ⟨⟨f r, rfl, (hf r (List.mem_singleton_self r)).2.1.trans hst⟩, hrest⟩
  · obtain ⟨rfl | ⟨r, rfl, hst⟩, hrest⟩ := h
    · exact ⟨.inl rfl, hrest⟩
    · exact ⟨.inr ⟨f r, rfl, (hf r (List.mem_singleton_self r)).2.1.trans hst⟩, hrest⟩
  all_goals
    obtain ⟨rfl, hrest⟩ := h
    exact ⟨rfl, hrest⟩

/-- A dock with an entry is granted, or stands: its record, its entry and its grant after one step (R108, R109). -/
theorem DockAgrees.grant {x : Dock} {rs : List Ride} {es : List QEntry} {g o b : Bool} (h : DockAgrees x rs es g o)
    (hb : b = true → es ≠ []) :
    DockAgrees { x with pending := if b = true ∧ x.pending = .none then .openCmd else x.pending } rs
      (es.map (fun e => { e with granted := e.granted || b })) (g || b) o := by
  cases b with
  | false =>
    rw [if_neg (fun a => Bool.false_ne_true a.1), Bool.or_false]
    simpa only [Bool.or_false, List.map_id'] using h
  | true =>
    obtain ⟨e, he⟩ := List.exists_mem_of_ne_nil es (hb rfl)
    obtain ⟨hx, -⟩ := h.entry he
    obtain ⟨r, e, rfl, rfl, hq⟩ := h.queued hx
    refine DockAgrees.of_queued hx ⟨hq.ride, hq.entry, by simp, ?_, fun _ => Bool.or_true _, fun _ hp => ?_,
      fun _ => Bool.or_true _⟩
    · dsimp only
      split
      · exact Pending.noConfusion
      · exact hq.noClose
    · by_cases hn : x.pending = .none
      · rw [if_pos ⟨rfl, hn⟩] at hp
        cases hp
      · rw [if_neg (fun a => hn a.2)] at hp
        exact absurd hp hn

theorem Granted.entriesAt {s t : State} {gs : List DockIx} (h : Granted s t gs) (d : DockIx) :
    t.entriesAt d = (s.entriesAt d).map (fun e => { e with granted := e.granted || decide (d ∈ gs) }) := by
  unfold State.entriesAt
  rw [h.queue, List.filter_map]
  refine List.map_congr_left (fun e he => ?_)
  have hd : e.dock = d := by simpa using (List.mem_filter.mp he).2
  rw [hd]

theorem Granted.granted {s t : State} {gs : List DockIx} (h : Granted s t gs) (d : DockIx) :
    t.granted d = (s.granted d || decide (d ∈ gs)) := by
  unfold State.granted
  rw [h.grants, Bool.eq_iff_iff]
  simp

/-- The procedure grants docks of waiting entries. -/
theorem State.granting_sublist (s : State) : s.granting.Sublist s.waiting :=
  (List.take_sublist _ _).trans List.filter_sublist

theorem State.leaveQueue_entriesAt (s : State) (d : DockIx) : (s.leaveQueue d).entriesAt d = [] :=
  State.entriesAt_nil.mpr (fun _ he => of_decide_eq_true (List.mem_filter.mp he).2)

/-- The rides have distinct numbers. -/
theorem RidesSorted.unique {s : State} (h : RidesSorted s) {x y : Ride} (hx : x ∈ s.rides) (hy : y ∈ s.rides)
    (hn : x.number = y.number) : x = y := by
  have hfind := State.findRide_of_mem h hx
  rw [hn, State.findRide_of_mem h hy] at hfind
  exact (Option.some.inj hfind).symm

namespace ReleaseSound

variable {o g : Option DockIx} {s t : State}

/-! ## Writes that keep the view of every dock -/

/-- The rides, and every view but that of the dock being written. -/
theorem views (h : ReleaseSound o g s) (hs : RidesSorted t) (hn : t.grants.Nodup)
    (hv : ∀ d, g ≠ some d → ViewKept s t d) : ReleaseSound o g t :=
  ⟨hs, hn, fun d hd => (hv d hd).agrees (h.docks d hd)⟩

/-- Rides, queue and grants stand, and state and pending command of every dock. -/
theorem same (h : ReleaseSound o g s) (hr : t.rides = s.rides) (hq : t.releaseQ = s.releaseQ) (hg : t.grants = s.grants)
    (hd : ∀ d, g ≠ some d → (t.dock d).state = (s.dock d).state ∧ (t.dock d).pending = (s.dock d).pending) :
    ReleaseSound o g t := by
  refine h.views ?_ (hg ▸ h.nodup) (fun d hne => ⟨(hd d hne).1, (hd d hne).2, State.boundAt_congr hr d,
    State.entriesAt_congr hq d, State.granted_congr hg d⟩)
  unfold RidesSorted
  rw [hr]
  exact h.sorted

theorem of_eq (h : ReleaseSound o g s) (hr : t.rides = s.rides) (hd : t.docks = s.docks) (hq : t.releaseQ = s.releaseQ)
    (hg : t.grants = s.grants) : ReleaseSound o g t :=
  h.same hr hq hg (fun d _ => by unfold State.dock; rw [hd]; exact ⟨rfl, rfl⟩)

theorem pool (h : ReleaseSound o g s) (k : PoolFrame s t) : ReleaseSound o g t :=
  h.of_eq k.rides k.docks k.releaseQ k.grants

theorem ite {p : Prop} [Decidable p] {x y : State} (hx : ReleaseSound o g x) (hy : ReleaseSound o g y) :
    ReleaseSound o g (if p then x else y) := by
  split
  · exact hx
  · exact hy

/-- Rides are written but for number, dock and state; OPEN goes out only where it is pending. -/
theorem mapRides (h : ReleaseSound o none s) (f : Ride → Ride)
    (hf : ∀ r ∈ s.rides, (f r).number = r.number ∧ (f r).dock = r.dock ∧ (f r).state = r.state ∧
      ((f r).progress ≠ .notSent → r.progress ≠ .notSent ∨ (s.dock r.dock).pending = .openCmd)) :
    ReleaseSound o none { s with rides := s.rides.map f } where
  sorted := List.pairwise_map.mpr (h.sorted.imp_of_mem (fun {a b} ha hb k => by rwa [(hf a ha).1, (hf b hb).1]))
  nodup := h.nodup
  docks d hd := by
    have hbound : State.boundAt { s with rides := s.rides.map f } d = (s.boundAt d).map f := by
      unfold State.boundAt
      dsimp only
      rw [List.filter_map]
      refine congrArg _ (List.filter_congr (fun r hr => ?_))
      obtain ⟨-, hdock, hst, -⟩ := hf r hr
      rw [Function.comp, hdock, hst]
    rw [hbound]
    refine (h.docks d hd).mapRides f (fun r hr => ?_)
    obtain ⟨hmem, rfl, -⟩ := State.mem_boundAt.mp hr
    obtain ⟨hnum, -, hst, hsent⟩ := hf r hmem
    exact ⟨hnum, hst, hsent⟩

/-- A dock record is written but for state and pending command. -/
theorem updDock (h : ReleaseSound o g s) (d : DockIx) (f : Dock → Dock)
    (hs : (f (s.dock d)).state = (s.dock d).state := by rfl) (hp : (f (s.dock d)).pending = (s.dock d).pending := by rfl) :
    ReleaseSound o g (s.updDock d f) := by
  refine h.same rfl rfl rfl (fun j _ => ?_)
  rw [State.dock_updDock]
  split
  · next e => exact ⟨hs.trans (by rw [e]), hp.trans (by rw [e])⟩
  · exact ⟨rfl, rfl⟩

theorem updLine (h : ReleaseSound o g s) (l : Line) (f : LineCtl → LineCtl) : ReleaseSound o g (s.updLine l f) := by
  cases l <;> exact h.of_eq rfl rfl rfl rfl

theorem updPort (h : ReleaseSound o g s) (p : Port) (f : PortState → PortState) : ReleaseSound o g (s.updPort p f) := by
  cases p <;> exact h.of_eq rfl rfl rfl rfl

theorem endTransaction (h : ReleaseSound o g s) (p : Port) (out : List Byte) :
    ReleaseSound o g (s.endTransaction p out) := h.updPort p _

theorem respond (h : ReleaseSound o g s) (p : Port) (code : Byte) (n : Nat) (r : Reply) :
    ReleaseSound o g (s.respond p code n r) := (h.updPort p _).endTransaction p _

theorem latch (h : ReleaseSound o g s) (p : Port) (e : Byte) : ReleaseSound o g (s.latch p e) := h.updPort p _

theorem startRound (h : ReleaseSound o g s) (l : Line) : ReleaseSound o g (s.startRound l) := h.updLine l _

theorem endRideOf (h : ReleaseSound o g s) (n : CredNo) : ReleaseSound o g (s.endRideOf n) :=
  h.of_eq (s.endRideOf_rides n) (s.endRideOf_docks n) (s.endRideOf_releaseQ n) (s.endRideOf_grants n)

theorem updCred (h : ReleaseSound o g s) (n : CredNo) (f : Cred → Cred) : ReleaseSound o g (s.updCred n f) :=
  h.of_eq rfl rfl rfl rfl

theorem leaveQuiet (h : ReleaseSound o g s) (l : Line) : ReleaseSound o g (s.leaveQuiet l) :=
  .ite ((h.updLine l _).latch _ _) (((h.updLine l _).latch _ _).startRound l)

theorem postK (h : ReleaseSound o g s) (x : Body) : ReleaseSound o g (s.postK x) := h.pool (s.postK_pool x)

theorem notice (h : ReleaseSound o g s) (sub : Subject) (x : NoticeBody) : ReleaseSound o g (s.notice sub x) :=
  h.pool (s.notice_pool sub x)

theorem endTurn (h : ReleaseSound o g s) (l : Line) : ReleaseSound o g (s.endTurn l) := by
  unfold State.endTurn
  split
  · exact h
  · split
    · exact h.updLine l _
    · exact .ite ((h.updLine l _).startRound l) (h.updLine l _)

/-- An OPEN in flight is settled (R68, R120). -/
theorem settleOpen (h : ReleaseSound o none s) (d : DockIx) (x : Bool) : ReleaseSound o none (settleOpen s d x) := by
  refine h.mapRides _ (fun r _ => ?_)
  split
  · next hfly => exact ⟨rfl, rfl, rfl, fun _ => .inl (by rw [hfly.2]; exact OpenProgress.noConfusion)⟩
  · exact ⟨rfl, rfl, rfl, .inl⟩

/-- OPEN goes out for the ride of a dock where it is pending (R120). -/
theorem sendOpen (h : ReleaseSound o none s) {d : DockIx} (hd : (s.dock d).pending = .openCmd) :
    ReleaseSound o none (s.sendOpen d) := by
  refine h.mapRides _ (fun r _ => ?_)
  split
  · next hsend => exact ⟨rfl, rfl, rfl, fun _ => .inr (by rw [hsend.1, hd])⟩
  · exact ⟨rfl, rfl, rfl, .inl⟩

/-! ## One dock being written -/

/-- A dock that is about to be written. -/
theorem opened (h : ReleaseSound o none s) (d : DockIx) : ReleaseSound o (some d) s :=
  ⟨h.sorted, h.nodup, fun j _ => h.docks j nofun⟩

/-- A dock whose record, rides, entries and grant have been written to agree. -/
theorem closed {d : DockIx} (h : ReleaseSound o (some d) s)
    (hd : DockAgrees (s.dock d) (s.boundAt d) (s.entriesAt d) (s.granted d) (decide (o = some d))) :
    ReleaseSound o none s := by
  refine ⟨h.sorted, h.nodup, fun j _ => ?_⟩
  by_cases hj : j = d
  · exact hj ▸ hd
  · exact h.docks j (fun e => hj (Option.some.inj e).symm)

theorem updGone {d : DockIx} (h : ReleaseSound o (some d) s) (f : Dock → Dock) :
    ReleaseSound o (some d) (s.updDock d f) := by
  refine h.same rfl rfl rfl (fun j hj => ?_)
  rw [State.dock_updDock, if_neg (fun e => hj (congrArg some e.symm))]
  exact ⟨rfl, rfl⟩

theorem markGone {d : DockIx} (h : ReleaseSound o (some d) s) (c : Pending) :
    ReleaseSound o (some d) (s.markPending d c) := .ite ((h.updGone _).leaveQuiet _) (h.updGone _)

/-- The dock leaves the release queue (R74, R105). -/
theorem leaveQueue {d : DockIx} (h : ReleaseSound o (some d) s) : ReleaseSound o (some d) (s.leaveQueue d) := by
  refine h.views h.sorted h.nodup (fun j hj => ⟨rfl, rfl, rfl, ?_, rfl⟩)
  show (s.releaseQ.filter _).filter _ = _
  rw [List.filter_filter]
  refine List.filter_congr (fun e _ => ?_)
  have hne : j ≠ d := fun a => hj (congrArg some a.symm)
  by_cases he : e.dock = j <;> simp [he, hne]

end ReleaseSound

end Sys2Proof.Machine
end

section
/-! PROOFS. The agreement under grants, pending commands and a dock that leaves a release (R71 to R78, R107 to R110). -/

namespace Sys2Proof.Machine

namespace ReleaseSound

variable {o g : Option DockIx} {s t : State} {d : DockIx}

/-! ## Grants and pending commands (R107 to R110) -/

/-- A waiting dock is not the one being written, is QUEUED, and holds no grant yet. -/
theorem waiting (h : ReleaseSound o g s) (hg : ∀ d, g = some d → s.entriesAt d = []) (hd : d ∈ s.waiting) :
    g ≠ some d ∧ d ∉ s.grants := by
  obtain ⟨e, he, hflag, rfl⟩ := State.mem_waiting.mp hd
  have hmem : e ∈ s.entriesAt e.dock := State.mem_entriesAt.mpr ⟨he, rfl⟩
  have hne : g ≠ some e.dock := fun a => List.ne_nil_of_mem hmem (hg _ a)
  refine ⟨hne, fun hgrant => ?_⟩
  have hagree := h.docks _ hne
  obtain ⟨hx, hes⟩ := hagree.entry hmem
  obtain ⟨r, e', -, hes', hq⟩ := hagree.queued hx
  obtain rfl := List.singleton_inj.mp (hes.symm.trans hes')
  exact Bool.false_ne_true (hflag.symm.trans (hq.flag.trans (State.granted_iff.mpr hgrant)))

theorem issueGrants (h : ReleaseSound o g s) (hg : ∀ d, g = some d → s.entriesAt d = []) :
    ReleaseSound o g s.issueGrants := by
  have hgrant := s.issueGrants_granted
  have hsub := s.granting_sublist
  have hrides : s.issueGrants.rides = s.rides := s.issueGrants_frame.rides
  refine ⟨?_, ?_, fun d hd => ?_⟩
  · unfold RidesSorted
    rw [hrides]
    exact h.sorted
  · rw [hgrant.grants]
    have hwait : s.waiting.Nodup := (h.queue_nodup hg).sublist (List.filter_sublist.map _)
    refine List.Nodup.append h.nodup (hwait.sublist hsub) (fun d hd hnew => ?_)
    exact (h.waiting hg (hsub.mem hnew)).2 hd
  · rw [hgrant.docks, hgrant.entriesAt, hgrant.granted, State.boundAt_congr hrides]
    have hstep := (h.docks d hd).grant (b := decide (d ∈ s.granting)) (fun hb hnil => ?_)
    · simpa only [decide_eq_true_iff] using hstep
    · obtain ⟨e, he, -, hed⟩ := State.mem_waiting.mp (hsub.mem (of_decide_eq_true hb))
      exact State.entriesAt_nil.mp hnil e he hed

/-- The grant of a dock that is being written and out of the queue goes on (R110). -/
theorem returnGrant (h : ReleaseSound o (some d) s) (he : s.entriesAt d = []) :
    ReleaseSound o (some d) (s.returnGrant d) := by
  have hlone : ∀ j, some d = some j → s.entriesAt j = [] := fun j hj => Option.some.inj hj ▸ he
  unfold State.returnGrant
  split
  · refine issueGrants ?_ hlone
    refine h.views h.sorted (h.nodup.filter _) (fun j hj => ⟨rfl, rfl, rfl, rfl, ?_⟩)
    have hne : j ≠ d := fun a => hj (congrArg some a.symm)
    rw [State.granted, State.granted, Bool.eq_iff_iff]
    simp [hne]
  · exact h

theorem quietReturn (h : ReleaseSound o none s) (l : Line) : ReleaseSound o none (s.quietReturn l) :=
  .ite ((h.leaveQuiet l).issueGrants nofun) h

/-- A command set at a dock that agrees with it, with what the return from QUIET grants (R109, R137). -/
theorem setPending (h : ReleaseSound o (some d) s) (c : Pending)
    (hd : DockAgrees { s.dock d with pending := c } (s.boundAt d) (s.entriesAt d) (s.granted d) (decide (o = some d))) :
    ReleaseSound o none (s.setPending d c) := by
  have hmark : ReleaseSound o none (s.markPending d c) := by
    refine (h.markGone c).closed ?_
    rw [State.markPending_dock, if_pos rfl, State.boundAt_congr (s.markPending_frame d c).rides,
      State.entriesAt_congr (s.markPending_releaseQ d c), State.granted_congr (s.markPending_grants d c)]
    exact hd
  exact .ite (hmark.issueGrants nofun) hmark

/-- A command set at a dock that is being written and out of the queue. -/
theorem setPendingGone (h : ReleaseSound o (some d) s) (he : s.entriesAt d = []) (c : Pending) :
    ReleaseSound o (some d) (s.setPending d c) := by
  refine .ite (issueGrants (h.markGone c) (fun j hj => ?_)) (h.markGone c)
  obtain rfl := Option.some.inj hj
  rw [State.entriesAt_congr (s.markPending_releaseQ d c), he]

/-! ## A dock settled (R72 to R78) -/

/-- A dock that no ride binds any more and that stands in a plain state gives its grant back. -/
theorem returned (h : ReleaseSound o (some d) s) (hb : s.boundAt d = []) (he : s.entriesAt d = [])
    (hx : (s.dock d).state.isPlain = true) (hp : (s.dock d).pending.Still) : ReleaseSound o none (s.returnGrant d) := by
  have hq := State.entriesAt_nil.mp he
  refine (h.returnGrant he).closed ?_
  rw [State.returnGrant_dock hq, State.boundAt_congr (s.returnGrant_frame d).rides, hb,
    State.entriesAt_nil.mpr ((s.returnGrant_frame d).not_queued hq),
    Bool.eq_false_iff.mpr (mt State.granted_iff.mp (State.returnGrant_not_mem hq))]
  exact .of_plain hx hp _

/-- A dock out of the queue and without a grant is put into RELATCHING, with no ride or with its own. -/
theorem relatchDock (h : ReleaseSound o (some d) s)
    (hb : s.boundAt d = [] ∨ ∃ r, s.boundAt d = [r] ∧ r.state = .relatching) (he : s.entriesAt d = [])
    (hg : s.granted d = false) : ReleaseSound o none (s.relatchDock d) := by
  have hupd := h.updGone (fun x => { x with state := .relatching, relatch := 0 })
  refine (hupd.setPending .closeCmd ?_)
  unfold DockAgrees
  rw [State.dock_updDock, if_pos rfl]
  exact ⟨hb, he, hg, rfl⟩

/-- A grant is given back and the dock is put into RELATCHING (R71, R81). -/
theorem returnRelatch (h : ReleaseSound o (some d) s)
    (hb : s.boundAt d = [] ∨ ∃ r, s.boundAt d = [r] ∧ r.state = .relatching) (he : s.entriesAt d = []) :
    ReleaseSound o none ((s.returnGrant d).relatchDock d) := by
  have hq := State.entriesAt_nil.mp he
  refine (h.returnGrant he).relatchDock ?_ (State.entriesAt_nil.mpr ((s.returnGrant_frame d).not_queued hq))
    (Bool.eq_false_iff.mpr (mt State.granted_iff.mp (State.returnGrant_not_mem hq)))
  rw [State.boundAt_congr (s.returnGrant_frame d).rides]
  exact hb

/-! ## A dock that no ride binds -/

/-- Such a dock is out of the release queue, holds no grant, and OPEN is not pending at it. -/
theorem unbound (h : ReleaseSound o none s) (hb : s.boundAt d = []) :
    s.entriesAt d = [] ∧ s.granted d = false ∧ (s.dock d).pending ≠ .openCmd ∧ (s.dock d).state ≠ .queued := by
  have hagree := h.agree d
  rw [hb] at hagree
  unfold DockAgrees at hagree
  split at hagree
  · obtain ⟨r, e, hr, -⟩ := hagree
    cases hr
  · obtain ⟨⟨r, hr, -⟩, -⟩ := hagree
    cases hr
  · next hx =>
    obtain ⟨-, he, hg, hp⟩ := hagree
    exact ⟨he, hg, by rw [hp]; exact Pending.noConfusion, by rw [hx]; exact DockState.noConfusion⟩
  all_goals
    next hx =>
      obtain ⟨-, he, hg, hp⟩ := hagree
      exact ⟨he, hg, hp.1, by rw [hx]; exact DockState.noConfusion⟩

/-- A dock that no ride binds is written into a plain state. -/
theorem updUnbound (h : ReleaseSound o none s) (hb : s.boundAt d = []) (f : Dock → Dock)
    (hx : (f (s.dock d)).state.isPlain = true) (hp : (f (s.dock d)).pending.Still) :
    ReleaseSound o none (s.updDock d f) := by
  obtain ⟨he, hg, -⟩ := h.unbound hb
  refine ((h.opened d).updGone f).closed ?_
  rw [State.dock_updDock, if_pos rfl]
  show DockAgrees _ (s.boundAt d) (s.entriesAt d) (s.granted d) _
  rw [hb, he, hg]
  exact .of_plain hx hp _

/-- A dock that no ride binds is put into RELATCHING (R78). -/
theorem relatchUnbound (h : ReleaseSound o none s) (hb : s.boundAt d = []) : ReleaseSound o none (s.relatchDock d) := by
  obtain ⟨he, hg, -⟩ := h.unbound hb
  exact (h.opened d).relatchDock (.inl hb) he hg

/-! ## Rides of one dock written -/

/-- The ride of a number goes, where it is OPEN or its dock is the one being written. -/
theorem dropRide (h : ReleaseSound o g s) {n : RideNo}
    (hn : ∀ x ∈ s.rides, x.number = n → x.state ≠ .opened → g = some x.dock) : ReleaseSound o g (s.dropRide n) := by
  refine h.views (h.sorted.sublist List.filter_sublist) h.nodup (fun d hd => ⟨rfl, rfl, ?_, rfl, rfl⟩)
  show (s.rides.filter _).filter _ = s.rides.filter _
  rw [List.filter_filter]
  refine List.filter_congr (fun x hx => ?_)
  rw [Bool.and_eq_left_iff_imp, decide_eq_true_iff, decide_eq_true_iff]
  rintro ⟨rfl, ho⟩ hnum
  exact hd (hn x hx hnum ho)

/-- The ride of a number is written but for number and dock, where its dock is the one being written. -/
theorem updRide (h : ReleaseSound o g s) {n : RideNo} (f : Ride → Ride)
    (hf : ∀ x, (f x).number = x.number ∧ (f x).dock = x.dock) (hn : ∀ x ∈ s.rides, x.number = n → g = some x.dock) :
    ReleaseSound o g (s.updRide n f) := by
  refine h.views ?_ h.nodup (fun d hd => ⟨rfl, rfl, ?_, rfl, rfl⟩)
  · refine List.pairwise_map.mpr (h.sorted.imp (fun {a b} k => ?_))
    split <;> split <;> simpa only [(hf _).1] using k
  · show (s.rides.map _).filter _ = s.rides.filter _
    rw [List.filter_map]
    have hsame : ∀ x ∈ s.rides, x.dock = d → (if x.number = n then f x else x) = x := fun x hx hxd =>
      if_neg (fun hnum => hd (hxd ▸ hn x hx hnum))
    have hfilter : s.rides.filter ((fun r => decide (r.dock = d ∧ r.state ≠ .opened)) ∘
        fun x => if x.number = n then f x else x) = s.boundAt d := by
      refine List.filter_congr (fun x hx => ?_)
      have hdock : (if x.number = n then f x else x).dock = x.dock := by
        split
        · exact (hf x).2
        · rfl
      rw [Function.comp, hdock]
      by_cases hxd : x.dock = d
      · rw [hsame x hx hxd]
      · rw [decide_eq_false (fun a => hxd a.1), decide_eq_false (fun a => hxd a.1)]
    rw [hfilter]
    refine (List.map_congr_left (fun x hx => ?_)).trans (List.map_id _)
    obtain ⟨hmem, hxd, -⟩ := State.mem_boundAt.mp hx
    exact hsame x hmem hxd

end ReleaseSound

/-- The dock of a bound ride, once the ride is gone. -/
theorem State.dropRide_boundAt {s : State} {d : DockIx} {r : Ride} {n : RideNo} (h : s.boundAt d = [r]) (hn : r.number = n) :
    (s.dropRide n).boundAt d = [] := by
  show (s.rides.filter _).filter _ = []
  rw [List.filter_comm]
  change (s.boundAt d).filter _ = []
  rw [h, List.filter_cons_of_neg (by simp [hn]), List.filter_nil]

end Sys2Proof.Machine
end

section
/-! PROOFS. The agreement through cancellation, acknowledgement, take-up, relatching and close (R67 to R82). -/

namespace Sys2Proof.Machine

/-! ## The rides of a dock after one of them is written -/

/-- The dock of a bound ride, once the ride is written: OPEN it leaves the dock, otherwise it stays. -/
theorem State.updRide_boundAt {s : State} (hs : RidesSorted s) {d : DockIx} {r : Ride} (h : s.boundAt d = [r])
    {f : Ride → Ride} (hf : ∀ x, (f x).dock = x.dock) :
    (s.updRide r.number f).boundAt d = if (f r).state = .opened then [] else [f r] := by
  obtain ⟨hr, hd, ho⟩ := State.mem_boundAt.mp (h ▸ List.mem_singleton_self r)
  have hwritten : ∀ x ∈ s.rides, x.number = r.number → x = r := fun x hx hn => RidesSorted.unique hs hx hr hn
  have hsplit : (s.updRide r.number f).boundAt d = (s.rides.filter ((fun y => decide (y.dock = d ∧ y.state ≠ .opened)) ∘
      fun x => if x.number = r.number then f x else x)).map (fun x => if x.number = r.number then f x else x) :=
    List.filter_map
  rw [hsplit]
  split
  · next hopen =>
    rw [List.map_eq_nil_iff, List.filter_eq_nil_iff]
    intro x hx hin
    rw [Function.comp] at hin
    by_cases hn : x.number = r.number
    · rw [if_pos hn, hwritten x hx hn] at hin
      exact (of_decide_eq_true hin).2 hopen
    · rw [if_neg hn] at hin
      have hin' := of_decide_eq_true hin
      have hmem : x ∈ s.boundAt d := State.mem_boundAt.mpr ⟨hx, hin'⟩
      rw [h, List.mem_singleton] at hmem
      exact hn (by rw [hmem])
  · next hopen =>
    have hsame : s.rides.filter ((fun y => decide (y.dock = d ∧ y.state ≠ .opened)) ∘
        fun x => if x.number = r.number then f x else x) = s.boundAt d := by
      refine List.filter_congr (fun x hx => ?_)
      by_cases hn : x.number = r.number
      · rw [Function.comp, if_pos hn, hwritten x hx hn, hf]
        simp [hd, ho, hopen]
      · rw [Function.comp, if_neg hn]
    rw [hsame, h, List.map_singleton, if_pos rfl]

/-- A ride put into RELATCHING (R71). -/
def Ride.relatched (r : Ride) : Ride := { r with state := .relatching, windowLeft := none }

/-- A ride acknowledged, with release minute and take-up window (R68). -/
def Ride.released (now : Minute) (window : Nat) (r : Ride) : Ride :=
  { r with state := .releasing, release := some now, waitLeft := none, windowLeft := some window }

/-- A ride taken up (R69, R72). -/
def Ride.taken (now : Minute) (late : Bool) (r : Ride) : Ride :=
  { r with state := .opened, takeUp := some now, late := r.late || late, windowLeft := none }

/-- A dock whose command moves no latch after OPEN and CLOSE have gone (R74, R97). -/
theorem Pending.dropLatch_still (p : Pending) : p.dropLatch.Still := by
  cases p <;> exact ⟨Pending.noConfusion, Pending.noConfusion⟩

theorem Pending.dropClose_still {p : Pending} (h : p ≠ .openCmd) : p.dropClose.Still := by
  cases p
  case openCmd => exact absurd rfl h
  all_goals exact ⟨Pending.noConfusion, Pending.noConfusion⟩

namespace ReleaseSound

variable {o : Option DockIx} {s : State}

/-! ## Rides (R66 to R82) -/

section
variable (h : ReleaseSound o none s) {r : Ride} (hr : r ∈ s.rides)
include h hr

/-- The dock of a ride of the table is the one that is written with it. -/
theorem own_dock : ∀ x ∈ s.rides, x.number = r.number → some r.dock = some x.dock :=
  fun x hx hn => by rw [RidesSorted.unique h.sorted hx hr hn]

/-- A ride that binds its dock: the dock is out of the release queue but where the ride is QUEUED. -/
theorem not_queued (hq : r.state ≠ .queued) (ho : r.state ≠ .opened) :
    s.entriesAt r.dock = [] ∧ (s.dock r.dock).pending ≠ .openCmd := by
  obtain ⟨-, hst⟩ := h.bound hr ho
  have hagree := h.agree r.dock
  have hx : (s.dock r.dock).state ≠ .queued := by
    intro hx
    rw [hx] at hst
    cases hrs : r.state <;> rw [hrs] at hst
    · exact hq hrs
    · cases hst
    · cases hst
    · exact ho hrs
  refine ⟨List.eq_nil_iff_forall_not_mem.mpr (fun e he => hx (hagree.entry he).1), fun hp => hx (hagree.open_queued hp).1⟩

/-- A cancellation leaves the dock DOCKED and bound by no ride (R74). -/
theorem cancelRide (ho : r.state ≠ .opened) (c : RideOutcome) :
    ReleaseSound o none (s.cancelRide r c) ∧ (s.cancelRide r c).boundAt r.dock = [] := by
  have hpool : ReleaseSound o (some r.dock) (((s.freeSlot r.slot).endRideOf r.cred).postK
      (.outcome r.number r.cred r.dock c)) :=
    (((h.opened r.dock).of_eq (t := s.freeSlot r.slot) rfl rfl rfl rfl).endRideOf r.cred).postK _
  have hrides : (((s.freeSlot r.slot).endRideOf r.cred).postK (.outcome r.number r.cred r.dock c)).rides = s.rides :=
    (State.postK_pool _ _).rides.trans (State.endRideOf_rides _ _)
  have hbound : (s.cancelled r c).boundAt r.dock = [] :=
    State.dropRide_boundAt ((State.boundAt_congr hrides _).trans (h.bound hr ho).1) rfl
  have hout : (s.cancelled r c).entriesAt r.dock = [] := State.leaveQueue_entriesAt _ _
  have hwritten : ReleaseSound o (some r.dock) (s.cancelled r c) := by
    refine (hpool.dropRide (fun x hx hn _ => ?_)).leaveQueue.updGone _
    rw [hrides] at hx
    exact h.own_dock hr x hx hn
  have hdock : (s.cancelled r c).dock r.dock = Dock.toDocked
      ((((((s.freeSlot r.slot).endRideOf r.cred).postK (.outcome r.number r.cred r.dock c)).dropRide
        r.number).leaveQueue r.dock).dock r.dock) := by
    rw [State.cancelled, State.dock_updDock, if_pos rfl]
  refine ⟨hwritten.returned hbound hout (by rw [hdock]; rfl) (by rw [hdock]; exact Pending.dropLatch_still _), ?_⟩
  rw [State.cancelRide_eq, State.boundAt_congr (State.returnGrant_frame _ _).rides, hbound]

/-- A RELEASING ride is put into RELATCHING with its dock (R71). -/
theorem relatchRide (hst : r.state = .releasing) : ReleaseSound o none (s.relatchRide r) := by
  have ho : r.state ≠ .opened := by rw [hst]; exact RideState.noConfusion
  have hride := (h.opened r.dock).updRide Ride.relatched (fun _ => ⟨rfl, rfl⟩) (h.own_dock hr)
  exact hride.returnRelatch (.inr ⟨r.relatched, State.updRide_boundAt h.sorted (h.bound hr ho).1 (fun _ => rfl), rfl⟩)
    (h.not_queued hr (by rw [hst]; exact RideState.noConfusion) ho).1

/-- The acknowledgement of a QUEUED ride for which OPEN has gone out (R68). -/
theorem acknowledge (hst : r.state = .queued) (hsent : r.progress ≠ .notSent) : ReleaseSound o none (s.acknowledge r) := by
  have ho : r.state ≠ .opened := by rw [hst]; exact RideState.noConfusion
  obtain ⟨hbound, hdock⟩ := h.bound hr ho
  have hgrant : s.granted r.dock = true := by
    have hagree := h.agree r.dock
    rw [hst] at hdock
    obtain ⟨r', e, hrs, -, hq⟩ := hagree.queued (Option.some.inj hdock)
    obtain rfl := List.singleton_inj.mp (hbound.symm.trans hrs)
    exact hq.sent hsent
  have hride := (h.opened r.dock).updRide (Ride.released s.minute s.settings.takeUpWindow) (fun _ => ⟨rfl, rfl⟩)
    (h.own_dock hr)
  refine ((hride.updGone (fun x => { x with state := .releasing, pending := .none })).leaveQueue).closed ?_
  have hrs : (s.acknowledge r).boundAt r.dock = [r.released s.minute s.settings.takeUpWindow] :=
    State.updRide_boundAt h.sorted hbound (f := Ride.released s.minute s.settings.takeUpWindow) (fun _ => rfl)
  have hes : (s.acknowledge r).entriesAt r.dock = [] := State.leaveQueue_entriesAt _ _
  have hx : (s.acknowledge r).dock r.dock = { s.dock r.dock with state := .releasing, pending := .none } := by
    rw [State.acknowledge, State.leaveQueue_dock, State.dock_updDock, if_pos rfl]
    rfl
  show DockAgrees ((s.acknowledge r).dock r.dock) ((s.acknowledge r).boundAt r.dock) ((s.acknowledge r).entriesAt r.dock)
    (s.granted r.dock) _
  rw [hrs, hes, hgrant, hx]
  exact ⟨⟨_, rfl, rfl⟩, rfl, rfl, Pending.noConfusion, Pending.noConfusion⟩

end

/-- A take-up leaves the dock EMPTY (R69, R72); the ride is named by number and dock. -/
theorem takeUp (h : ReleaseSound o none s) {r : Ride} (hr : s.Binds r) (hq : (s.dock r.dock).state ≠ .queued) (late : Bool) :
    ReleaseSound o none (s.takeUp r late) := by
  obtain ⟨x, hx, hn, hd, ho⟩ := hr
  obtain ⟨hbound, hst⟩ := h.bound hx ho
  have hxq : x.state ≠ .queued := by
    intro hxq
    rw [hxq] at hst
    exact hq (hd ▸ Option.some.inj hst)
  obtain ⟨hout, hopen⟩ := h.not_queued hx hxq ho
  rw [hd] at hbound hout hopen
  have hwritten := ((h.opened r.dock).updRide (n := r.number) (Ride.taken s.minute late) (fun _ => ⟨rfl, rfl⟩)
    (by rw [← hn, ← hd]; exact h.own_dock hx)).updGone Dock.toTaken
  have hfree : (s.updRide r.number (Ride.taken s.minute late)).boundAt r.dock = [] :=
    hn ▸ State.updRide_boundAt h.sorted hbound (f := Ride.taken s.minute late) (fun _ => rfl)
  refine ((hwritten.returned hfree hout ?_ ?_).postK _).notice _ _
  · rw [State.dock_updDock, if_pos rfl]
    rfl
  · rw [State.dock_updDock, if_pos rfl]
    exact Pending.dropClose_still hopen

/-- The close itself, without the grant: the ride leaves the table (R80). -/
theorem closeRide {g : Option DockIx} (h : ReleaseSound o g s) (r : Ride) (k : TripKind) (d : Option DockIx) (m : Minute)
    (q : Bool) (hn : ∀ x ∈ s.rides, x.number = r.number → x.state ≠ .opened → g = some x.dock) :
    ReleaseSound o g (s.closeRide r k d m q) := by
  have hcred := (((h.updCred r.cred (fun e => e.debited (s.figures r m))).endRideOf r.cred).pool
    (State.postN_pool _ r.slot k.kind (.trip k (tripOf r d m (s.figures r m) q))))
  refine hcred.dropRide (fun x hx => hn x ?_)
  have hrides : (State.endRideOf (s.updCred r.cred (fun e => e.debited (s.figures r m))) r.cred).rides = s.rides :=
    State.endRideOf_rides _ _
  rw [← hrides]
  exact hx

theorem finishRide (h : ReleaseSound o none s) {r : Ride} (hr : r ∈ s.rides) (hq : r.state ≠ .queued) (k : TripKind)
    (d : Option DockIx) (m : Minute) : ReleaseSound o none (s.finishRide r k d m) := by
  by_cases ho : r.state = .opened
  · rw [State.finishRide_opened ho]
    exact h.closeRide r k d m false (fun x hx hn hox => absurd (RidesSorted.unique h.sorted hx hr hn ▸ ho) hox)
  · rw [State.finishRide_early ho]
    have hclosed : ReleaseSound o (some r.dock) (s.closedEarly r k d m) :=
      ((h.opened r.dock).closeRide (r.takenEarly s.minute) k d m true (fun x hx hn _ => h.own_dock hr x hx hn)).postK _
    have hspec := s.closeRide_spec (r.takenEarly s.minute) k d m true
    have hrides : (s.closedEarly r k d m).rides = (s.dropRide r.number).rides :=
      (State.postK_pool _ _).rides.trans hspec.rides
    refine hclosed.returnRelatch (.inl ?_) ?_
    · rw [State.boundAt_congr hrides, State.dropRide_boundAt (h.bound hr ho).1 rfl]
    · rw [State.entriesAt_congr (s.closedEarly_tables r k d m).2.1]
      exact (h.not_queued hr hq ho).1

theorem returnBike (h : ReleaseSound o none s) (d : DockIx) (t : BikeTag) : ReleaseSound o none (s.returnBike d t) := by
  have hforeign : ReleaseSound o none (s.foreignReturn d t) := h.pool (s.foreignReturn_pool d t)
  unfold State.returnBike
  split
  · exact hforeign
  · split
    · exact hforeign
    · next r hr =>
      split
      · exact hforeign
      · next hclose => exact h.finishRide (State.rideOfTag_some hr).1 (fun hq => hclose (.inl hq)) _ _ _

theorem cancelForCred (h : ReleaseSound o none s) (n : RideNo) : ReleaseSound o none (s.cancelForCred n) := by
  unfold State.cancelForCred
  split
  · next r hr =>
    split
    · next hq => exact (h.cancelRide (State.findRide_some hr).1 (by rw [hq]; exact RideState.noConfusion) _).1
    · exact h
  · exact h

theorem cancelQueuedOf (h : ReleaseSound o none s) (f : CredNo → Bool) : ReleaseSound o none (s.cancelQueuedOf f) := by
  unfold State.cancelQueuedOf
  generalize s.queuedRidesOf f = ns
  induction ns generalizing s with
  | nil => exact h
  | cons n ns ih => exact ih (h.cancelForCred n)

end ReleaseSound

end Sys2Proof.Machine
end

section
/-! PROOFS. The agreement through replies, lost links, breaks and turns (R61, R68 to R78, R91 to R99, R120 to R124, R130). -/

namespace Sys2Proof.Machine

/-- A delivered SHOW goes, and with it what a granted QUEUED dock has pending (R61, R122). -/
theorem DockAgrees.cleared {x : Dock} {rs : List Ride} {es : List QEntry} {g o : Bool} (h : DockAgrees x rs es g o)
    {p : Pending} (hp : p = x.pending ∨ p = .none ∧ ∃ c q, x.pending = .showCmd c q) :
    DockAgrees { x with pending := p } rs es g true := by
  have hstill : x.pending.Still → p.Still := by
    rintro hs
    rcases hp with rfl | ⟨rfl, -⟩
    · exact hs
    · exact ⟨Pending.noConfusion, Pending.noConfusion⟩
  unfold DockAgrees at h ⊢
  dsimp only
  split at h
  · obtain ⟨r, e, hr, he, hq⟩ := h
    refine ⟨r, e, hr, he, ⟨hq.ride, hq.entry, hq.flag, ?_, ?_, fun _ _ => rfl, hq.sent⟩⟩
    · rcases hp with rfl | ⟨rfl, -⟩
      · exact hq.noClose
      · exact Pending.noConfusion
    · rcases hp with rfl | ⟨rfl, -⟩
      · exact hq.opens
      · exact fun e => nomatch e
  · obtain ⟨hr, he, hg, hs⟩ := h
    exact ⟨hr, he, hg, hstill hs⟩
  · obtain ⟨hr, he, hg, hs⟩ := h
    refine ⟨hr, he, hg, ?_⟩
    rcases hp with rfl | ⟨-, c, q, hshow⟩
    · exact hs
    · rw [hs] at hshow
      cases hshow
  all_goals
    obtain ⟨hr, he, hg, hs⟩ := h
    exact ⟨hr, he, hg, hstill hs⟩

/-- Where nothing is owed at a dock, it agrees whatever is owed. -/
theorem DockAgrees.nothingOwed {x : Dock} {rs : List Ride} {es : List QEntry} {g o : Bool} (h : DockAgrees x rs es g o)
    (hx : ¬ (x.state = .queued ∧ g = true ∧ x.pending = .none)) (o' : Bool) : DockAgrees x rs es g o' := by
  unfold DockAgrees at h ⊢
  split at h
  · next hst =>
    obtain ⟨r, e, hr, he, hq⟩ := h
    exact ⟨r, e, hr, he, ⟨hq.ride, hq.entry, hq.flag, hq.noClose, hq.opens, fun hg hp => absurd ⟨hst, hg, hp⟩ hx, hq.sent⟩⟩
  all_goals exact h

namespace ReleaseSound

variable {o : Option DockIx} {s : State} {d : DockIx}

/-! ## Replies at a dock that no ride binds (R91 to R99) -/

/-- What is pending at a dock that no ride binds and that is in a plain state. -/
theorem plain_still (h : ReleaseSound o none s) (hx : (s.dock d).state.isPlain = true) : (s.dock d).pending.Still :=
  ((h.agree d).plain hx).2.2.2

theorem retag (h : ReleaseSound o none s) (d : DockIx) (g : BikeTag) : ReleaseSound o none (s.retag d g) := by
  unfold State.retag
  exact .ite h (.ite ((h.updDock d _).returnBike d g) (h.updDock d _))

section
variable (h : ReleaseSound o none s) (hb : s.boundAt d = [])
include h hb

/-- CLOSE dropped, what is left does not move the latch. -/
theorem dropClose_still : (s.dock d).pending.dropClose.Still := Pending.dropClose_still (h.unbound hb).2.2.1

/-- A dock that no ride binds is in a plain state or RELATCHING. -/
theorem isPlain (hx : (s.dock d).state ≠ .relatching) : (s.dock d).state.isPlain = true := by
  have hagree := h.agree d
  cases hst : (s.dock d).state with
  | queued => exact absurd hst (h.unbound hb).2.2.2
  | releasing =>
    obtain ⟨⟨r, hr, -⟩, -⟩ := hagree.releasing hst
    rw [hb] at hr
    cases hr
  | relatching => exact absurd hst hx
  | _ => rfl

/-- A plain dock that no ride binds changes its plain state and keeps its pending command. -/
theorem updPlain (hx : (s.dock d).state ≠ .relatching) (f : Dock → Dock) (hf : (f (s.dock d)).state.isPlain = true)
    (hp : (f (s.dock d)).pending = (s.dock d).pending) : ReleaseSound o none (s.updDock d f) :=
  h.updUnbound hb f hf (by rw [hp]; exact h.plain_still (h.isPlain hb hx))

theorem jamDock (x : JamCause) (n : Option RideNo) : ReleaseSound o none (s.jamDock d x n) := by
  unfold State.jamDock
  exact .ite h ((h.updUnbound hb _ rfl (Pending.dropLatch_still _)).notice _ _)

theorem bikeGone (hx : (s.dock d).state ≠ .relatching) (n : Option RideNo) : ReleaseSound o none (s.bikeGone d n) :=
  (h.updPlain hb hx Dock.toEmpty rfl rfl).notice _ _

theorem clearFault (hx : (s.dock d).state ≠ .relatching) (r : StatusReply) : ReleaseSound o none (s.clearFault d r) := by
  unfold State.clearFault
  exact .ite ((h.updPlain hb hx _ rfl rfl).retag d _) (.ite (h.updPlain hb hx _ rfl rfl) (h.bikeGone hb hx _))

end

/-- Where the third attempt jams the dock, no ride binds it. -/
theorem relatchAttempt (h : ReleaseSound o none s) (x : Bool) (n : Option RideNo)
    (hb : x = true → Config.relatchLimit ≤ (s.dock d).relatch + 1 → s.boundAt d = []) :
    ReleaseSound o none (s.relatchAttempt d x n) := by
  unfold State.relatchAttempt
  split
  · next hx =>
    split
    · next hlimit => exact h.jamDock (hb hx hlimit) _ _
    · exact h.updDock d _
  · exact h

theorem plainReply (h : ReleaseSound o none s) (hb : s.boundAt d = []) (r : StatusReply) (cl : Bool) :
    ReleaseSound o none (s.plainReply d r cl) := by
  have hbike : (s.dock d).state ≠ .relatching → ReleaseSound o none (s.dockBike d r.tag) := fun hx =>
    h.updPlain hb hx _ rfl rfl
  unfold State.plainReply
  split
  case h_1 hx =>
    have hne : (s.dock d).state ≠ .relatching := by rw [hx]; exact DockState.noConfusion
    exact .ite (h.updPlain hb hne _ rfl rfl) (.ite (hbike hne) ((hbike hne).relatchUnbound hb))
  case h_2 hx =>
    have hne : (s.dock d).state ≠ .relatching := by rw [hx]; exact DockState.noConfusion
    exact .ite ((hbike hne).returnBike d _) h
  case h_3 hx =>
    have hne : (s.dock d).state ≠ .relatching := by rw [hx]; exact DockState.noConfusion
    exact .ite (h.bikeGone hb hne _) (.ite (h.retag d _) (h.relatchUnbound hb))
  case h_4 =>
    have hstill := h.dropClose_still hb
    exact .ite (h.updUnbound hb _ rfl hstill) (.ite ((h.updUnbound hb _ rfl hstill).retag d _)
      (h.relatchAttempt _ _ (fun _ _ => hb)))
  case h_5 hx =>
    have hne : (s.dock d).state ≠ .relatching := by rw [hx]; exact DockState.noConfusion
    exact .ite h (h.clearFault hb hne r)
  all_goals exact h

/-- The reader step acts at plain docks alone (R98). -/
theorem dockReply (h : ReleaseSound o none s) (hb : s.boundAt d = []) (r : StatusReply) (cl : Bool) :
    ReleaseSound o none (s.dockReply d r cl) := by
  unfold State.dockReply
  split
  · exact h.jamDock hb _ _
  · split
    · next hfault =>
      have hne : (s.dock d).state ≠ .relatching := by
        intro hx
        simp [readerFaults, hx] at hfault
      exact (h.updPlain hb hne _ rfl rfl).notice _ _
    · exact h.plainReply hb r cl

/-! ## Replies at a dock with a ride (R68 to R75) -/

theorem rideReply (h : ReleaseSound o none s) {x : Ride} (hx : x ∈ s.rides) (hd : x.dock = d) (r : StatusReply) (cl : Bool)
    (hkept : cancelCause x r (s.dock d).relatch cl = none) : ReleaseSound o none (s.rideReply d x r cl) := by
  subst hd
  unfold State.rideReply
  split
  case h_1 hst =>
    split
    · next hack =>
      have hsent : x.progress ≠ .notSent := (of_decide_eq_true hack).1
      have hacked := h.acknowledge hx hst hsent
      split
      · exact hacked
      · refine hacked.takeUp (r := { x with state := .releasing, release := some s.minute })
          (TablesSound.acknowledge_binds ⟨x, hx, rfl, rfl, by rw [hst]; exact RideState.noConfusion⟩) ?_ false
        show ((s.acknowledge x).dock x.dock).state ≠ .queued
        rw [State.acknowledge, State.leaveQueue_dock, State.dock_updDock, if_pos rfl]
        exact DockState.noConfusion
    · exact h
  case h_2 hst =>
    refine .ite h (h.takeUp (State.binds_of_mem hx (by rw [hst]; exact RideState.noConfusion)) ?_ false)
    have hdock := (h.bound hx (by rw [hst]; exact RideState.noConfusion)).2
    rw [hst] at hdock
    rw [Option.some.inj hdock]
    exact DockState.noConfusion
  case h_3 hst =>
    have hdock := (h.bound hx (by rw [hst]; exact RideState.noConfusion)).2
    split
    · next hbike =>
      refine h.relatchAttempt _ _ (fun hcl hlimit => ?_)
      exfalso
      unfold cancelCause at hkept
      rw [hst] at hkept
      cases hl : r.latch <;> simp [hl, hbike, hcl, hlimit] at hkept
    · refine h.takeUp (State.binds_of_mem hx (by rw [hst]; exact RideState.noConfusion)) ?_ true
      rw [hst] at hdock
      rw [Option.some.inj hdock]
      exact DockState.noConfusion
  case h_4 => exact h

theorem afterCancel (h : ReleaseSound o none s) (hb : s.boundAt d = []) (hd : (s.dock d).state ≠ .relatching) (x : Ride)
    (r : StatusReply) : ReleaseSound o none (s.afterCancel d x r) := by
  unfold State.afterCancel
  exact .ite (h.jamDock hb _ _) (.ite (.ite (h.retag d _) (h.jamDock hb _ _)) (h.bikeGone hb hd _))

theorem offerToken (h : ReleaseSound o none s) (d : DockIx) (r : StatusReply) : ReleaseSound o none (s.offerToken d r) := by
  rcases s.offerToken_cases d r with e | ⟨q, hold, a, e⟩ <;> rw [e]
  · exact h
  · exact (h.of_eq (t := { s with queue := q, holdOff := hold }) rfl rfl rfl rfl).updDock d _

theorem handleStatus (h : ReleaseSound o none s) (d : DockIx) (r : StatusReply) (cl : Bool) :
    ReleaseSound o none (s.handleStatus d r cl) := by
  have hrelatch : (((s.updDock d (fun x => { x with link := .online })).offerToken d r).dock d).relatch =
      (s.dock d).relatch := by
    rw [(State.offerToken_offered _ d r).dock, State.dock_updDock, if_pos rfl]
  unfold State.handleStatus
  extract_lets before s1 s2
  have h2 : ReleaseSound o none s2 := ((h.updDock d _).offerToken d r).updDock d _
  have hbefore : before.relatch = (s2.dock d).relatch := by
    rw [State.dock_updDock, if_pos rfl]
    exact hrelatch.symm
  clear_value s2
  split
  · next x hx =>
    obtain ⟨hmem, hdock, ho⟩ := State.rideAt_some hx
    split
    · next c _ =>
      obtain ⟨hcancel, hfree⟩ := h2.cancelRide hmem ho c
      have hpool := (s2.cancelRide x c).linkNotices_pool d before r
      refine (hcancel.pool hpool).afterCancel (hdock ▸ (State.boundAt_congr hpool.rides _).trans hfree) ?_ x r
      rw [hpool.dock, ← hdock, (s2.cancelRide_spec x c).dock]
      exact DockState.noConfusion
    · next hkept =>
      have hpool := s2.linkNotices_pool d before r
      refine (h2.pool hpool).rideReply (by rw [hpool.rides]; exact hmem) hdock r cl ?_
      rw [hpool.dock, ← hbefore]
      exact hkept
  · next hx =>
    have hpool := s2.linkNotices_pool d before r
    exact (h2.pool hpool).dockReply (State.boundAt_nil.mpr (State.rideAt_none_congr hx hpool.rides)) r cl

/-! ## Lost links and breaks (R75, R124, R130) -/

theorem loseLink (h : ReleaseSound o none s) (d : DockIx) : ReleaseSound o none (s.loseLink d) := by
  have hlost : ReleaseSound o none (s.updDock d (fun x => { x with link := .lost })) := h.updDock d _
  unfold State.loseLink
  dsimp only
  split
  · exact hlost.notice _ _
  · next r hr =>
    obtain ⟨hmem, -, ho⟩ := State.rideAt_some hr
    split
    · exact (hlost.cancelRide hmem ho _).1.notice _ _
    · next hst => exact (hlost.relatchRide hmem hst).notice _ _
    · exact hlost.notice _ _
    · exact hlost

theorem failTurn (h : ReleaseSound o none s) (d : DockIx) : ReleaseSound o none (s.failTurn d) := by
  have hfail : ReleaseSound o none (s.updDock d (fun x => { x with failed := (s.dock d).failed + 1 })) := h.updDock d _
  unfold State.failTurn
  exact .ite h (.ite (hfail.loseLink d) hfail)

theorem abandonTurn (h : ReleaseSound o none s) (l : Line) : ReleaseSound o none (s.abandonTurn l) := by
  unfold State.abandonTurn
  split
  · exact h
  · exact (h.settleOpen _ _).updLine l _

theorem enterBreak (h : ReleaseSound o none s) (l : Line) (x : BreakCause) : ReleaseSound o none (s.enterBreak l x) :=
  .ite (((h.abandonTurn l).updLine l _).latch _ _) ((h.abandonTurn l).updLine l _)

theorem disableLine (h : ReleaseSound o none s) (l : Line) : ReleaseSound o none (s.disableLine l) :=
  .ite (((h.abandonTurn l).updLine l _).latch _ _) ((h.abandonTurn l).updLine l _)

theorem lineError (h : ReleaseSound o none s) (l : Line) : ReleaseSound o none (s.lineError l) := by
  have hcount : ReleaseSound o none (s.updLine l (fun x => { x with errors := (s.line l).errors + 1 })) := h.updLine l _
  unfold State.lineError
  exact .ite ((hcount.notice _ _).enterBreak l _) hcount

/-! ## Turns (R120 to R124) -/

theorem endFailed (h : ReleaseSound o none s) (l : Line) (x : Turn) (e : Bool) :
    ReleaseSound o none (s.endFailed l x e) := by
  have hturn := (((h.settleOpen (dockIx l x.addr) true).endTurn l).updDock (dockIx l x.addr)
    (fun y => { y with busy := 0 })).failTurn (dockIx l x.addr)
  unfold State.endFailed
  exact .ite (hturn.lineError l) hturn

theorem endBusy (h : ReleaseSound o none s) (l : Line) (x : Turn) : ReleaseSound o none (s.endBusy l x) := by
  have hturn := (h.settleOpen (dockIx l x.addr) false).endTurn l
  unfold State.endBusy
  extract_lets d before s1 s2
  have h1 : ReleaseSound o none s1 := hturn.updDock d _
  have h2 : ReleaseSound o none s2 := .ite (h1.notice _ _) h1
  exact .ite ((h2.updDock d _).failTurn d) (h2.updDock d _)

/-- A SHOW that a turn delivered goes; at a granted QUEUED dock OPEN is still owed then (R61, R122). -/
theorem clearCounts (h : ReleaseSound none none s) (d : DockIx) (x : Turn) :
    ReleaseSound (some d) none (s.clearCounts d x) := by
  have hother : ReleaseSound (some d) (some d) s := ⟨h.sorted, h.nodup, fun j hj => by
    rw [decide_eq_false hj, ← decide_eq_false (p := none = some j) nofun]
    exact h.agree j⟩
  refine (hother.updGone _).closed ?_
  rw [State.dock_updDock, if_pos rfl, decide_eq_true rfl]
  refine ((h.agree d).congr (y := { s.dock d with failed := 0, busy := 0 }) rfl rfl).cleared ?_
  dsimp only
  split
  · next c q _ =>
    split
    · next hshow => exact .inr ⟨rfl, c, q, hshow⟩
    · exact .inl rfl
  all_goals exact .inl rfl

/-- OPEN follows a delivered SHOW at a QUEUED dock that holds a grant, so that none is owed (R61). -/
theorem openAfterShow (h : ReleaseSound (some d) none s) : ReleaseSound none none (s.openAfterShow d) := by
  have hother : ReleaseSound none (some d) s := ⟨h.sorted, h.nodup, fun j hj => by
    rw [decide_eq_false (p := none = some j) nofun, ← decide_eq_false hj]
    exact h.agree j⟩
  have hagree := h.agree d
  unfold State.openAfterShow
  split
  · next hcond =>
    obtain ⟨hst, hg, -⟩ := hcond
    refine hother.setPending .openCmd ?_
    obtain ⟨r, e, hrs, hes, hq⟩ := hagree.queued hst
    rw [hrs, hes]
    exact .of_queued hst ⟨hq.ride, hq.entry, hq.flag, Pending.noConfusion, fun _ => hg, fun _ hp => (nomatch hp), hq.sent⟩
  · next hcond => exact hother.closed (hagree.nothingOwed hcond _)

theorem endStatus (h : ReleaseSound none none s) (l : Line) (x : Turn) (r : StatusReply) :
    ReleaseSound none none (s.endStatus l x r) := by
  have hclear := ((h.settleOpen (dockIx l x.addr) true).endTurn l).clearCounts (dockIx l x.addr) x
  have hdone := (hclear.handleStatus (dockIx l x.addr) r (decide (x.cmd = .closeCmd))).openAfterShow
  unfold State.endStatus
  exact .ite ((hdone.updLine l _).quietReturn l) hdone

theorem recover (h : ReleaseSound o none s) (l : Line) : ReleaseSound o none (s.recover l) :=
  ((((h.updLine l _).latch _ _).notice _ _).issueGrants nofun).startRound l

theorem startTurn (h : ReleaseSound o none s) (l : Line) (a : Addr) : ReleaseSound o none (s.startTurn l a) := by
  have hturn : ReleaseSound o none (s.updLine l (fun x => { x with
      turn := some ⟨a, (s.dock (dockIx l a)).pending, (s.dock (dockIx l a)).ack, s.settings.replyWindow, .sending⟩ })) :=
    h.updLine l _
  unfold State.startTurn
  dsimp only
  split
  · next hopen => exact hturn.sendOpen (by rw [State.updLine_dock]; exact hopen)
  · exact hturn

end ReleaseSound

end Sys2Proof.Machine
end

section
/-! PROOFS. The agreement through an admission decision (R52, R56 to R60, R67). -/

namespace Sys2Proof.Machine

/-! ## A ride that joins the table (R56 to R58) -/

/-- Insertion leaves alone what does not concern the new ride. -/
theorem filter_insertRide {p : Ride → Bool} {r : Ride} (hp : p r = false) {xs : List Ride}
    (hn : ∀ x ∈ xs, x.number ≠ r.number) : (insertRide r xs).filter p = xs.filter p := by
  induction xs with
  | nil => exact List.filter_cons_of_neg (by rw [hp]; exact Bool.false_ne_true)
  | cons x xs ih =>
    have hrest := ih (fun y hy => hn y (List.mem_cons_of_mem _ hy))
    unfold insertRide
    split
    · exact List.filter_cons_of_neg (by rw [hp]; exact Bool.false_ne_true)
    · rw [if_neg (fun e => hn x List.mem_cons_self e.symm), List.filter_cons, List.filter_cons, hrest]

/-- The dock of a ride that joins it alone. -/
theorem filter_insertRide_self {p : Ride → Bool} {r : Ride} (hp : p r = true) {xs : List Ride}
    (hn : ∀ x ∈ xs, x.number ≠ r.number) (hempty : xs.filter p = []) : (insertRide r xs).filter p = [r] := by
  have hperm := (perm_insertRide r hn).filter p
  rw [List.filter_cons_of_pos hp, hempty] at hperm
  exact List.perm_singleton.mp hperm

/-- The ride that is aged out is OPEN (R67). -/
theorem oldestOpen_opened {now : Minute} {xs : List Ride} {r : Ride} (h : oldestOpen now xs = some r) :
    r.state = .opened := by
  have hself : oldestOpen now (xs.filter (fun r => decide (r.state = .opened))) = oldestOpen now xs := by
    unfold oldestOpen
    rw [List.filter_filter]
    simp only [Bool.and_self]
  exact of_decide_eq_true (List.mem_filter.mp (oldestOpen_mem (hself.trans h))).2

/-- A dock source is admitted at its own dock (R52). -/
theorem laterChecks_source {s : State} {d d' : DockIx} {q : Byte} {e : Cred} (h : laterChecks s (.dock d' q) e = .ok d) :
    d' = d := by
  unfold laterChecks at h
  split at h
  · cases h
  · split at h
    · cases h
    · next hd =>
      repeat' split at h
      all_goals cases h
      unfold dockFor at hd
      dsimp only at hd
      split at hd
      · cases hd
      · injection hd

namespace ReleaseSound

variable {o : Option DockIx} {s : State} {d : DockIx}

/-! ## The admission decision -/

/-- A SHOW that is set at a dock where no CLOSE is pending (R60). -/
theorem setShow (h : ReleaseSound o none s) (hd : (s.dock d).state ≠ .relatching) (c : ShowCode) (q : Byte) :
    ReleaseSound o none (s.setPending d (.showCmd c q)) := by
  refine (h.opened d).setPending _ ?_
  have hstill : Pending.Still (.showCmd c q) := ⟨Pending.noConfusion, Pending.noConfusion⟩
  have hagree := h.agree d
  unfold DockAgrees at hagree ⊢
  dsimp only
  split at hagree
  · obtain ⟨r, e, hr, he, hq⟩ := hagree
    exact ⟨r, e, hr, he, ⟨hq.ride, hq.entry, hq.flag, hstill.2, fun hp => absurd hp hstill.1, fun _ hp => (nomatch hp),
      hq.sent⟩⟩
  · obtain ⟨hr, he, hg, -⟩ := hagree
    exact ⟨hr, he, hg, hstill⟩
  · next hx => exact absurd hx hd
  all_goals
    obtain ⟨hr, he, hg, -⟩ := hagree
    exact ⟨hr, he, hg, hstill⟩

theorem showRefuse (h : ReleaseSound o none s) (x : Origin) : ReleaseSound o none (s.showRefuse x) := by
  unfold State.showRefuse
  split
  · exact h
  · next d q =>
    split
    case h_5 =>
      next hclose _ => exact h.setShow (fun hd => hclose ((h.agree d).close_iff.mpr hd)) _ _
    all_goals exact h

theorem showAdmitted (h : ReleaseSound o none s) (x : Origin)
    (hx : ∀ d q, x = .dock d q → (s.dock d).state ≠ .relatching) : ReleaseSound o none (s.showAdmitted x) := by
  unfold State.showAdmitted
  split
  · exact h
  · exact h.setShow (hx _ _ rfl) _ _

theorem burstNotice (h : ReleaseSound o none s) (d : DockIx) (n : CredNo) : ReleaseSound o none (s.burstNotice d n) :=
  .ite (h.notice _ _) h

theorem refuse (h : ReleaseSound o none s) (x : Presentation) (r : Reason) : ReleaseSound o none (s.refuse x r) := by
  unfold State.refuse
  dsimp only
  split
  · next d _ _ =>
    have hcount : ReleaseSound o none (s.countMismatch d) := by
      unfold State.countMismatch
      exact h.updDock d _
    exact (ReleaseSound.ite (h.postK _)
      (.ite ((hcount.burstNotice d _).postK _) ((hcount.postK _).burstNotice d _))).showRefuse _
  · exact (h.postK _).showRefuse _

theorem ageOut (h : ReleaseSound o none s) : ReleaseSound o none s.ageOut := by
  unfold State.ageOut
  split
  · exact h
  · next r hr =>
    refine ((h.endRideOf _).pool (State.postN_pool _ _ _ _)).dropRide (fun x hx hn ho => absurd ?_ ho)
    change x ∈ (s.endRideOf r.cred).rides at hx
    rw [State.endRideOf_rides] at hx
    exact RidesSorted.unique h.sorted hx (oldestOpen_mem hr) hn ▸ oldestOpen_opened hr

theorem withRoom (h : ReleaseSound o none s) : ReleaseSound o none s.withRoom := .ite h.ageOut h

/-- The new ride, its dock QUEUED and its entry last in the queue agree (R57, R58, R105). -/
theorem admitting (h : ReleaseSound o none s) (x : Presentation) (e : Cred) (hd : (s.dock d).state = .docked) {n : RideNo}
    (hn : ∀ y ∈ s.rides, y.number ≠ n) (slot : Nat) (rest : List Nat) :
    ReleaseSound o none (s.admitting x e d n slot rest) := by
  obtain ⟨hb, he, hg, hstill⟩ := (h.agree d).plain (by rw [hd]; rfl)
  have hothers : ReleaseSound o (some d) (s.admitting x e d n slot rest) := by
    refine (h.opened d).views (sorted_insertRide _ h.sorted) h.nodup (fun j hj => ?_)
    have hne : j ≠ d := fun a => hj (congrArg some a.symm)
    have hdock : (s.admitting x e d n slot rest).dock j = s.dock j := by
      show (State.queueDock _ x.origin d).dock j = _
      rw [State.queueDock, State.dock_updDock, if_neg hne]
      rfl
    refine ⟨by rw [hdock], by rw [hdock], ?_, ?_, rfl⟩
    · exact filter_insertRide (r := newRide s x e d n slot) (decide_eq_false (fun a => hne a.1.symm)) hn
    · show (s.releaseQ ++ [(⟨d, n, false⟩ : QEntry)]).filter _ = _
      rw [List.filter_append, List.filter_cons_of_neg (by simpa using hne.symm), List.filter_nil, List.append_nil]
      rfl
  refine hothers.closed ?_
  have hrides : (s.admitting x e d n slot rest).boundAt d = [newRide s x e d n slot] :=
    filter_insertRide_self (p := fun r => decide (r.dock = d ∧ r.state ≠ .opened)) (r := newRide s x e d n slot)
      (decide_eq_true ⟨rfl, RideState.noConfusion⟩) hn hb
  have hqueue : (s.admitting x e d n slot rest).entriesAt d = [⟨d, n, false⟩] := by
    show (s.releaseQ ++ [(⟨d, n, false⟩ : QEntry)]).filter _ = _
    rw [List.filter_append, List.filter_cons_of_pos (by simp), List.filter_nil]
    exact congrArg (· ++ _) he
  have hgrant : (s.admitting x e d n slot rest).granted d = false := hg
  have hdock : ((s.admitting x e d n slot rest).dock d).state = .queued ∧
      ((s.admitting x e d n slot rest).dock d).pending = (s.dock d).pending := by
    show ((State.queueDock _ x.origin d).dock d).state = _ ∧ ((State.queueDock _ x.origin d).dock d).pending = _
    rw [State.queueDock, State.dock_updDock, if_pos rfl]
    exact ⟨rfl, rfl⟩
  rw [hrides, hqueue, hgrant]
  refine .of_queued hdock.1 ⟨rfl, rfl, rfl, ?_, ?_, fun a => absurd a Bool.false_ne_true, fun a => absurd rfl a⟩
  · rw [hdock.2]
    exact hstill.2
  · rw [hdock.2]
    exact fun a => absurd a hstill.1

theorem admitRide (h : ReleaseSound o none s) (x : Presentation) (e : Cred) (hlen : s.rides.length ≤ 256)
    (hd : (s.dock d).state = .docked) (hsource : ∀ d' q, x.origin = .dock d' q → d' = d) :
    ReleaseSound o none (s.admitRide x e d) := by
  have hroom := h.withRoom
  cases hfree : s.withRoom.free with
  | nil =>
    have heq : s.admitRide x e d = s.withRoom := by
      show (match s.withRoom.free with
        | [] => s.withRoom
        | _ :: _ => _) = _
      rw [hfree]
    rw [heq]
    exact hroom
  | cons slot rest =>
    rw [State.admitRide_eq hfree]
    have hdock : s.withRoom.dock d = s.dock d := by
      unfold State.dock
      rw [s.withRoom_docks]
    have hshort : s.withRoom.rides.length < 65534 := by
      have := s.withRoom_rides.length_le
      omega
    have hfresh := freeNumber_fresh hshort
    generalize s.withRoom = u at hroom hdock hfresh hshort ⊢
    generalize freeNumber u (u.rides.length + 1) u.nextRide = n at hfresh ⊢
    have hnew := (hroom.admitting x e (by rw [hdock]; exact hd) (n := n) (fun y hy => by
      simpa using List.find?_eq_none.mp hfresh y hy) slot rest).issueGrants nofun
    refine (hnew.postK _).showAdmitted _ (fun d' q hx => ?_)
    obtain rfl := hsource d' q hx
    rw [(State.postK_pool _ _).dock, (State.issueGrants_frame _).dock]
    show ((State.queueDock _ x.origin d').dock d').state ≠ _
    rw [State.queueDock, State.dock_updDock, if_pos rfl]
    exact DockState.noConfusion

theorem decideOn (h : ReleaseSound o none s) (hlen : s.rides.length ≤ 256) (x : Presentation) :
    ReleaseSound o none (s.decideOn x) := by
  have hspend : ReleaseSound o none (s.spend x.token) := h.updCred _ _
  unfold State.decideOn
  split
  · exact h.refuse _ _
  · split
    · exact hspend.refuse _ _
    · next hlater =>
      obtain ⟨-, hdocked, -⟩ := laterChecks_ok hlater
      exact hspend.admitRide x _ hlen hdocked (fun d' q hx => laterChecks_source (by rw [← hx]; exact hlater))

end ReleaseSound

end Sys2Proof.Machine
end

section
/-! PROOFS. Every step keeps rides, docks, release queue, grants and pending commands in agreement (R66, R105 to R109). -/

namespace Sys2Proof.Machine

namespace ReleaseSound

variable {s : State}

/-! ## Credentials and sweeps -/

theorem restartIdle (h : ReleaseSound none none s) : ReleaseSound none none s.restartIdle := .ite h (h.of_eq rfl rfl rfl rfl)

theorem abandonSweep (h : ReleaseSound none none s) (x : AbandonCause) (n : Option Byte) :
    ReleaseSound none none (s.abandonSweep x n) := by
  have hdrop : ReleaseSound none none { s with sweep := { s.sweep with openNo := 0#8, idle := none } } :=
    h.of_eq rfl rfl rfl rfl
  exact .ite h ((hdrop.notice _ _).latch _ _)

theorem loadCred (h : ReleaseSound none none s) (n : CredNo) (st : CredState) (cls : Fin 4) (secret : BitVec 32)
    (counter : Word16) (balance : Int) (overdraft : Nat) (keep : Bool) :
    ReleaseSound none none (s.loadCred n st cls secret counter balance overdraft keep).1 := by
  unfold State.loadCred
  extract_lets old d bal e s1
  have h1 : ReleaseSound none none s1 := h.of_eq rfl rfl rfl rfl
  exact .ite (h1.cancelQueuedOf _) h1

theorem credLoadRule (h : ReleaseSound none none s) (n : CredNo) (st cls : Byte) (secret : BitVec 32)
    (counter balance overdraft : Word16) (keep : Byte) :
    ReleaseSound none none (credLoadRule n st cls secret counter balance overdraft keep s).1 := by
  unfold Machine.credLoadRule
  dsimp only
  split
  · exact h.restartIdle
  · split
    · exact h.restartIdle
    · split
      · exact h.restartIdle
      · split
        · exact h.restartIdle
        · exact h.restartIdle.loadCred _ _ _ _ _ _ _ _

theorem credStateRule (h : ReleaseSound none none s) (n : CredNo) (st : Byte) :
    ReleaseSound none none (credStateRule n st s).1 := by
  unfold Machine.credStateRule
  split
  · exact h
  · split
    · exact h
    · split
      · exact h
      · exact .ite ((h.updCred _ _).cancelQueuedOf _) (h.updCred _ _)

theorem credBalanceRule (h : ReleaseSound none none s) (n : CredNo) (mode : Byte) (amount : Word16) :
    ReleaseSound none none (credBalanceRule n mode amount s).1 := by
  unfold Machine.credBalanceRule
  split
  · exact h
  · split
    · exact h
    · exact h.updCred _ _

theorem credRemoveRule (h : ReleaseSound none none s) (n : CredNo) : ReleaseSound none none (credRemoveRule n s).1 := by
  unfold Machine.credRemoveRule
  split
  · exact h
  · split
    · exact h.of_eq rfl rfl rfl rfl
    · split
      · exact h
      · exact (h.updCred _ _).cancelQueuedOf _

theorem sweepOpenRule (h : ReleaseSound none none s) (n : Byte) : ReleaseSound none none (sweepOpenRule n s).1 := by
  unfold Machine.sweepOpenRule
  split
  · exact h
  · exact (h.abandonSweep .reopen (some n)).of_eq rfl rfl rfl rfl

theorem sweepCloseRule (h : ReleaseSound none none s) (n : Byte) : ReleaseSound none none (sweepCloseRule n s).1 := by
  unfold Machine.sweepCloseRule
  split
  · exact h
  · split
    · exact h.restartIdle
    · unfold State.closeSweep
      extract_lets counts s1 s2 s3 s4
      have h1 : ReleaseSound none none s1 := h.of_eq rfl rfl rfl rfl
      have h3 : ReleaseSound none none s3 := (h1.cancelQueuedOf _).of_eq rfl rfl rfl rfl
      have h4 : ReleaseSound none none s4 := (h3.notice _ _).latch _ _
      exact h4

/-! ## Docks, lines and rides -/

/-- A new map writes docks in plain states alone: check 3 turns away a map that would unfit a bound dock (R88, R89). -/
theorem writeMap (h : ReleaseSound none none s) {l : Line} {addrs : List Byte} (hcheck : ¬ unfitsBound s l addrs = true) :
    ReleaseSound none none (s.writeMap l addrs) := by
  have hrides : (s.writeMap l addrs).rides = s.rides := by unfold State.writeMap; rw [State.mapDocks_rides]
  have hqueue : (s.writeMap l addrs).releaseQ = s.releaseQ := by unfold State.writeMap; rw [State.mapDocks_releaseQ]
  have hgrants : (s.writeMap l addrs).grants = s.grants := by unfold State.writeMap; rw [State.mapDocks_grants]
  refine ⟨?_, ?_, fun d _ => ?_⟩
  · unfold RidesSorted
    rw [hrides]
    exact h.sorted
  · rw [hgrants]
    exact h.nodup
  rw [State.boundAt_congr hrides, State.entriesAt_congr hqueue, State.granted_congr hgrants]
  unfold State.writeMap
  rw [State.dock_mapDocks]
  have hagree := h.agree d
  have hplain : (s.dock d).state.isPlain = true → ∀ y : Dock, y.state.isPlain = true → y.pending = .none →
      DockAgrees y (s.boundAt d) (s.entriesAt d) (s.granted d) (decide (none = some d)) := by
    intro hx y hy hp
    obtain ⟨hb, he, hg, -⟩ := hagree.plain hx
    rw [hb, he, hg]
    exact .of_plain hy (by rw [hp]; exact ⟨Pending.noConfusion, Pending.noConfusion⟩) _
  split
  · next hl =>
    unfold Dock.refit
    split
    · split
      · next hun => exact hplain (by rw [hun]; rfl) _ rfl rfl
      · exact hagree
    · next hlisted =>
      split
      · exact hagree
      · refine hplain ?_ _ rfl rfl
        by_contra hbound
        refine hcheck (List.any_eq_true.mpr ⟨addrOf d, List.mem_finRange _, ?_⟩)
        rw [← hl, dockIx_lineOf_addrOf, boundDock_eq]
        rw [Bool.eq_false_iff.mpr hlisted, Bool.eq_false_iff.mpr hbound]
        rfl
  · exact hagree

theorem dockFitRule (h : ReleaseSound none none s) (p : Port) (line : Byte) (addrs : List Byte) :
    ReleaseSound none none (dockFitRule p line addrs s).1 := by
  unfold Machine.dockFitRule
  split
  · exact h
  · split
    · exact h
    · split
      · exact h
      · split
        · exact h
        · split
          · exact h
          · next hcheck =>
            have hmap := h.writeMap hcheck
            split
            · exact hmap.disableLine _
            · exact hmap.enterBreak _ _

theorem dockHoldRule (h : ReleaseSound none none s) (p : Port) (x : Byte) :
    ReleaseSound none none (dockHoldRule p x s).1 := by
  unfold Machine.dockHoldRule
  split
  · exact h
  · split
    · exact h.updDock _ (fun x => { x with hold := some (holdOrigin p) })
    · exact h

theorem dockFreeRule (h : ReleaseSound none none s) (x : Byte) : ReleaseSound none none (dockFreeRule x s).1 := by
  unfold Machine.dockFreeRule
  split
  · exact h
  · exact h.updDock _ (fun x => { x with hold := none })

theorem lineRestartRule (h : ReleaseSound none none s) (x : Byte) : ReleaseSound none none (lineRestartRule x s).1 := by
  unfold Machine.lineRestartRule
  split
  · exact h
  · split
    · exact h
    · exact h.enterBreak _ _

theorem rideCloseRule (h : ReleaseSound none none s) (g : BikeTag) (m : Minute) :
    ReleaseSound none none (rideCloseRule g m s).1 := by
  unfold Machine.rideCloseRule
  split
  · exact h
  · split
    · exact h
    · next r hr =>
      split
      · exact h
      · next hq => exact h.finishRide (State.rideOfTag_some hr).1 hq _ _ _

theorem rideCancelRule (h : ReleaseSound none none s) (n : RideNo) : ReleaseSound none none (rideCancelRule n s).1 := by
  unfold Machine.rideCancelRule
  split
  · exact h
  · next r hr =>
    have hmem := (State.findRide_some hr).1
    split
    · next hq => exact (h.cancelRide hmem (by rw [hq]; exact RideState.noConfusion) _).1
    · next hrel => exact h.relatchRide hmem hrel
    · exact h
    · exact h

theorem tokenPresentRule (h : ReleaseSound none none s) (x : Token) (y : Byte) :
    ReleaseSound none none (tokenPresentRule x y s).1 := by
  unfold Machine.tokenPresentRule
  split
  · exact h
  · split
    · exact h
    · exact h.of_eq rfl rfl rfl rfl

/-! ## Records and ports -/

theorem untake (h : ReleaseSound none none s) (p : Port) : ReleaseSound none none (s.untake p) := by
  have htrim : ∀ (k : Nat) {u : State}, ReleaseSound none none u → ReleaseSound none none (u.trimK k) := by
    intro k
    induction k with
    | zero => exact fun hu => hu
    | succ k ih => exact fun hu => .ite (ih (hu.pool (State.evictK_pool _))) hu
  cases p
  · exact h.of_eq rfl rfl rfl rfl
  · exact htrim _ (h.of_eq rfl rfl rfl rfl)

theorem takeRule (h : ReleaseSound none none s) (p : Port) : ReleaseSound none none (takeRule p s).1 := by
  have hdrop : ReleaseSound none none (s.dropHead p) := by cases p <;> exact h.of_eq rfl rfl rfl rfl
  unfold Machine.takeRule
  split
  · exact h
  · split
    · exact h
    · next x _ _ => exact hdrop.updPort p (fun y => { y with taken := y.taken ++ [x] })

theorem giveBackRule (h : ReleaseSound none none s) (p : Port) (n : Word16) :
    ReleaseSound none none (giveBackRule p n s).1 := by
  unfold Machine.giveBackRule
  split
  · exact h
  · split
    · exact (h.updPort p _).of_eq rfl rfl rfl rfl
    · exact h

theorem portClearRule (h : ReleaseSound none none s) (p : Port) : ReleaseSound none none (portClearRule p s).1 :=
  .ite (((h.updPort p _).untake p).abandonSweep _ _) ((h.updPort p _).untake p)

/-! ## Station settings (R44, R113, R137 to R139) -/

theorem setNumber (h : ReleaseSound none none s) (name : Byte) (n : NumSetting) (value : Nat) :
    ReleaseSound none none (s.setNumber name n value).1 := by
  have hset : ∀ x : Settings, ReleaseSound none none { s with settings := x } := fun _ => h.of_eq rfl rfl rfl rfl
  unfold State.setNumber
  dsimp only
  split
  · exact h
  · generalize Settings.setNum _ n _ = x
    have hhold : ReleaseSound none none (State.reholdOff { s with settings := x }) := by
      unfold State.reholdOff
      exact .ite (h.of_eq rfl rfl rfl rfl) (h.of_eq rfl rfl rfl rfl)
    cases n
    case high => exact hhold
    case low => exact hhold
    case budget => exact .ite ((hset x).issueGrants nofun) (hset x)
    all_goals exact hset x

theorem setQuietEnable (h : ReleaseSound none none s) (name : Byte) (l : Line) (on : Bool) :
    ReleaseSound none none (s.setQuietEnable name l on).1 := by
  unfold State.setQuietEnable
  extract_lets reply s1 s2
  have h1 : ReleaseSound none none s1 := h.of_eq rfl rfl rfl rfl
  have h2 : ReleaseSound none none s2 := .ite (h1.updLine l _) h1
  split
  · exact h
  · exact .ite h2 (h2.quietReturn l)

theorem setLineRate (h : ReleaseSound none none s) (name : Byte) (l : Line) (r : Rate) :
    ReleaseSound none none (s.setLineRate name l r).1 := by
  have hset : ReleaseSound none none { s with settings := s.settings.setRate l r } := h.of_eq rfl rfl rfl rfl
  unfold State.setLineRate
  dsimp only
  split
  · exact h
  · exact .ite hset (hset.enterBreak l _)

theorem stationSetRule (h : ReleaseSound none none s) (setting line : Byte) (value : Word16) :
    ReleaseSound none none (stationSetRule setting line value s).1 := by
  unfold Machine.stationSetRule
  split
  · exact h
  · exact h.setNumber _ _ _
  · split
    · exact h
    · exact h.setQuietEnable _ _ _
  · split
    · exact h
    · split
      · exact h
      · exact h.setLineRate _ _ _

/-! ## The tick -/

/-- One second off its windows changes nothing else of a ride (R2). -/
theorem tick (h : ReleaseSound none none s) : ReleaseSound none none s.tick := by
  have hrides := h.mapRides Ride.tick (fun _ _ => ⟨rfl, rfl, rfl, .inl⟩)
  refine hrides.same ?_ ?_ ?_ (fun d _ => ?_)
  · rw [State.tick_rest, State.ticked_rest]
  · rw [State.tick_rest, State.ticked_rest]
  · rw [State.tick_rest, State.ticked_rest]
  · rw [State.tick_dock, State.tickMismatch_dock]
    split <;> exact ⟨rfl, rfl⟩

end ReleaseSound

/-! ## Commands -/

/-- The next state that a command answers has release tables that agree. -/
def ReleaseNext (o : Outcome) : Prop := ∀ t, o = .next t → ReleaseSound none none t

namespace ReleaseNext

variable {s t : State}

theorem next (h : ReleaseSound none none s) : ReleaseNext (.next s) := by
  intro t e
  injection e with e
  exact e ▸ h

theorem event {f : State → State} (h : ReleaseSound none none (f s)) : ReleaseNext (event f s) :=
  next (h.pool (latchStoreLow_pool _ _))

theorem request (h : ReleaseSound none none s) {rule : State → State × Reply} (hr : ReleaseSound none none (rule s).1)
    (p : Port) (code : Byte) (n : Nat) : ReleaseNext (request p code n rule s) := by
  unfold Machine.request
  split
  · exact next (h.endTransaction p [])
  · exact event (hr.respond p code n _)

theorem onlyN (h : ReleaseSound none none s) {rule : State → State × Reply} (hr : ReleaseSound none none (rule s).1)
    (p : Port) (code : Byte) (n : Nat) : ReleaseNext (Machine.request p code n (onlyN p rule) s) := by
  cases p
  · exact request h hr .n code n
  · exact request h h .k code n

/-- A request whose rule answers without a change of the state. -/
theorem reads (h : ReleaseSound none none s) {rule : State → State × Reply} (hr : (rule s).1 = s) (p : Port) (code : Byte)
    (n : Nat) : ReleaseNext (Machine.request p code n rule s) := request h (hr.symm ▸ h) p code n

theorem powerOnOrPinReset (s : State) (selN selK : Bool) : ReleaseNext (exec (.powerOnOrPinReset selN selK) s) := by
  rw [exec_reset]
  exact next (State.reset_releaseInv.sound.of_eq rfl rfl rfl rfl)

theorem minuteRollover (h : ReleaseSound none none s) : ReleaseNext (execMinuteRollover s) := by
  refine event ?_
  exact .ite h h.tick

theorem emptyTransactionEnd (h : ReleaseSound none none s) (p : Port) : ReleaseNext (execEmptyTransactionEnd p s) := by
  refine event ?_
  exact .ite h (h.endTransaction p [])

theorem collect (h : ReleaseSound none none s) (p : Port) (bytes : Nat) : ReleaseNext (execCollect p bytes s) := by
  have hcollect : ∀ present masks, ReleaseSound none none (s.collect p present masks bytes) :=
    fun _ _ => (h.updPort p _).endTransaction p _
  unfold execCollect
  split
  · exact next (h.endTransaction p [])
  · exact event (hcollect _ _)
  · exact event (hcollect _ _)

theorem badFrame (h : ReleaseSound none none s) (p : Port) (bytes : List Byte) (tail : List Bool) :
    ReleaseNext (execBadFrame p bytes tail s) := by
  unfold execBadFrame
  split
  · exact request h h p _ _
  · exact next h

theorem admissionDecision (h : ReleaseSound none none s) (hlen : s.rides.length ≤ 256) :
    ReleaseNext (execAdmissionDecision s) := by
  have hdeq : ReleaseSound none none s.dequeue := h.of_eq rfl rfl rfl rfl
  refine event ?_
  split
  · exact h
  · exact hdeq.decideOn hlen _

theorem queueWaitExpiry (h : ReleaseSound none none s) (n : RideNo) : ReleaseNext (execQueueWaitExpiry n s) := by
  refine event ?_
  split
  · next r hr =>
    split
    · next hq =>
      exact (h.cancelRide (State.findRide_some hr).1 (by rw [hq.1]; exact RideState.noConfusion) _).1
    · exact h
  · exact h

theorem takeUpWindowExpiry (h : ReleaseSound none none s) (n : RideNo) : ReleaseNext (execTakeUpWindowExpiry n s) := by
  refine event ?_
  split
  · next r hr =>
    split
    · next hrel => exact h.relatchRide (State.findRide_some hr).1 hrel.1
    · exact h
  · exact h

theorem turnStart (h : ReleaseSound none none s) (l : Line) : ReleaseNext (execTurnStart l s) := by
  refine event ?_
  dsimp only
  split
  · exact .ite (h.startTurn l _) h
  · exact h

theorem statusReply (h : ReleaseSound none none s) (l : Line) (r : StatusReply) : ReleaseNext (execStatusReply l r s) := by
  refine event ?_
  split
  · exact .ite (h.endStatus l _ r) h
  · exact h

theorem busyReply (h : ReleaseSound none none s) (l : Line) : ReleaseNext (execBusyReply l s) := by
  refine event ?_
  split
  · exact .ite (h.endBusy l _) h
  · exact h

theorem badReply (h : ReleaseSound none none s) (l : Line) (marked : Byte) (rest : List Byte) :
    ReleaseNext (execBadReply l marked rest s) := by
  refine event ?_
  split
  · exact .ite (h.endFailed l _ true) h
  · exact h

theorem replyGapTimeout (h : ReleaseSound none none s) (l : Line) : ReleaseNext (execReplyGapTimeout l s) := by
  refine event ?_
  split
  · exact h.endFailed l _ true
  · exact h

theorem replyWindowExpiry (h : ReleaseSound none none s) (l : Line) : ReleaseNext (execReplyWindowExpiry l s) := by
  refine event ?_
  split
  · exact .ite (h.endFailed l _ _) h
  · exact h

theorem errorPeriodBoundary (h : ReleaseSound none none s) (l : Line) : ReleaseNext (execErrorPeriodBoundary l s) := by
  refine event ?_
  split
  · exact .ite (h.updLine l _) h
  · exact h

theorem quietIntervalExpiry (h : ReleaseSound none none s) (l : Line) : ReleaseNext (execQuietIntervalExpiry l s) := by
  refine event ?_
  dsimp only
  split
  · exact .ite (.ite (h.updLine l _) ((h.updLine l _).startRound l)) h
  · exact h

theorem wake (h : ReleaseSound none none s) (l : Line) : ReleaseNext (execWake l s) := by
  refine event ?_
  split
  · exact h.quietReturn l
  · exact .ite (h.endFailed l _ true) h

end ReleaseNext

/-- Every command keeps the agreement; the bound on the ride table is asked for by an admission. -/
theorem exec_releaseSound {s : State} (h : ReleaseSound none none s) (hlen : s.rides.length ≤ 256) (i : Instr) :
    ReleaseNext (exec i s) := by
  cases i with
  | powerOnOrPinReset selN selK => exact .powerOnOrPinReset s selN selK
  | secondTick => exact .event h.tick
  | minuteRollover => exact .minuteRollover h
  | clockSet p minute second => exact .onlyN h (rule := clockSetRule minute second) (h.of_eq rfl rfl rfl rfl) p _ _
  | classSet p cls incl unit price cap minBal limit life held =>
    refine .onlyN h ?_ p _ _
    unfold classSetRule
    split
    · exact h
    · exact h.of_eq rfl rfl rfl rfl
  | credLoad p cred state cls secret counter balance overdraft keep =>
    exact .onlyN h (h.credLoadRule cred state cls secret counter balance overdraft keep) p _ _
  | credState p cred state => exact .onlyN h (h.credStateRule cred state) p _ _
  | credBalance p cred mode amount => exact .onlyN h (h.credBalanceRule cred mode amount) p _ _
  | credRemove p cred => exact .onlyN h (h.credRemoveRule cred) p _ _
  | readCred p cred => exact .reads h (by unfold readCredRule; split <;> rfl) p _ _
  | sweepOpen p number => exact .onlyN h (h.sweepOpenRule number) p _ _
  | sweepClose p number => exact .onlyN h (h.sweepCloseRule number) p _ _
  | sweepIdleExpiry => exact .event (.ite (h.abandonSweep _ _) h)
  | stationSet p setting line value => exact .onlyN h (h.stationSetRule setting line value) p _ _
  | kindSet p kind level =>
    refine .onlyN h ?_ p _ _
    unfold kindSetRule
    split
    · exact h
    · exact h.of_eq rfl rfl rfl rfl
  | dockFit p line addrs => exact .request h (h.dockFitRule p line addrs) p _ _
  | rideClose p tag endMinute => exact .onlyN h (h.rideCloseRule tag endMinute) p _ _
  | lineRestart p line => exact .onlyN h (h.lineRestartRule line) p _ _
  | tokenPresent p token preferred =>
    cases p
    · exact .request h h .n _ _
    · exact .request h (h.tokenPresentRule token preferred) .k _ _
  | dockHold p dock => exact .request h (h.dockHoldRule p dock) p _ _
  | dockFree p dock => exact .request h (h.dockFreeRule dock) p _ _
  | readDock p dock => exact .reads h (by unfold readDockRule; split <;> rfl) p _ _
  | rideCancel p ride => exact .request h (h.rideCancelRule ride) p _ _
  | readRide p selector value => exact .reads h (by unfold readRideRule; split <;> [rfl; (split <;> rfl)]) p _ _
  | take p => exact .request h (h.takeRule p) p _ _
  | giveBack p slot => exact .request h (h.giveBackRule p slot) p _ _
  | readStation p => exact .reads h (rule := readStationRule p) rfl p _ _
  | maskSet p events =>
    refine .request h ?_ p _ _
    unfold maskSetRule
    split
    · exact h.updPort p (fun x => { x with masks := x.masks ||| events })
    · exact h
  | maskClear p events =>
    refine .request h ?_ p _ _
    unfold maskClearRule
    split
    · exact h.updPort p (fun x => { x with masks := x.masks &&& ~~~events })
    · exact h
  | eventClear p events =>
    refine .request h ?_ p _ _
    unfold eventClearRule
    split
    · exact h.updPort p (fun x => { x with latched := x.latched &&& ~~~events })
    · exact h
  | portClear p => exact .request h (h.portClearRule p) p _ _
  | collect p bytes => exact .collect h p bytes
  | badFrame p bytes tail => exact .badFrame h p bytes tail
  | admissionDecision => exact .admissionDecision h hlen
  | queueWaitExpiry ride => exact .queueWaitExpiry h ride
  | takeUpWindowExpiry ride => exact .takeUpWindowExpiry h ride
  | turnStart l => exact .turnStart h l
  | commandDelivered l => exact .event (.ite (h.updLine l _) h)
  | statusReply l r => exact .statusReply h l r
  | busyReply l => exact .busyReply h l
  | badReply l marked rest => exact .badReply h l marked rest
  | replyGapTimeout l => exact .replyGapTimeout h l
  | replyWindowExpiry l => exact .replyWindowExpiry h l
  | errorPeriodBoundary l => exact .errorPeriodBoundary h l
  | breakTimeEnd l => exact .event (.ite (h.updLine l _) h)
  | recoveryEnd l => exact .event (.ite (h.recover l) h)
  | quietEntry l => exact .event (.ite ((h.updLine l _).latch _ _) h)
  | quietIntervalExpiry l => exact .quietIntervalExpiry h l
  | wake l => exact .wake h l
  | replyStart l marked => exact .event (.ite (h.updLine l _) h)
  | transactionStart p => exact .event (.ite (h.updPort p _) h)
  | emptyTransactionEnd p => exact .emptyTransactionEnd h p

/-- A step is a command on the rest of the queue of commands, or idles. -/
theorem step_releaseSound {s t : State} (h : ReleaseSound none none s) (hlen : s.rides.length ≤ 256)
    (hstep : step s = .next t) : ReleaseSound none none t := by
  unfold step at hstep
  split at hstep
  · exact ReleaseNext.next h t hstep
  · next rest _ =>
    exact exec_releaseSound (h.of_eq (t := { s with pending := rest }) rfl rfl rfl rfl) hlen _ t hstep

end Sys2Proof.Machine

namespace Sys2Proof.Proofs

open Sys2Proof.Machine

/-- Settles O56: the agreement is kept dock by dock; while a command writes one dock the others agree, and the dock agrees
again once its record, ride, entry and grant are written. -/
theorem releaseKept : Obligations.ReleaseKept := by
  intro s t hrelease hbound hstep
  exact (step_releaseSound hrelease.sound hbound.1 hstep).inv

end Sys2Proof.Proofs
end

section
/-! PROOFS. RIDE CANCEL, the queue wait expiry and the take-up window expiry (R71, R74, R75, R77, R112). -/

namespace Sys2Proof.Machine

/-! ## Lines where a pending command has gone first -/

/-- Fitted docks stand, and each pending command has stood or gone. -/
structure PendingDropped (s t : State) : Prop where
  fitted  : ∀ d : DockIx, t.fitted d = s.fitted d
  pending : ∀ d : DockIx, (t.dock d).pending = (s.dock d).pending ∨ (t.dock d).pending = .none

/-- A line that follows the commands set after others have gone follows those set since before. -/
theorem LineTrace.follows {s u t : State} (h : LineTrace u t) (k : PendingDropped s u) (l : Line) :
    LineFollows s t l (u.line l) := by
  refine ⟨h.stands l, fun hq => ?_, fun hq hnone => ?_⟩
  · rintro ⟨a, hset, hnew⟩
    rcases h.quiet l hq with ⟨-, hsame⟩ | ⟨⟨first, hlow, hline, hlatch⟩, -⟩
    · rw [hsame a] at hset hnew
      exact ((k.pending _).resolve_right hset |> hnew).elim
    · exact ⟨first, hlow.congr k.fitted, hline, hlatch⟩
  · rcases h.quiet l hq with ⟨hline, -⟩ | ⟨-, a, ha⟩
    · exact hline
    · exact absurd (hnone a).2 ha

/-- Both lines, where the drop leaves them alone. -/
theorem LineTrace.bothFollow {s u t : State} (h : LineTrace u t) (k : PendingDropped s u)
    (hline : ∀ l, u.line l = s.line l) : LinesFollow s t := by
  intro l _
  have hl := h.follows k l
  rwa [hline] at hl

theorem State.cancelled_dropped {s : State} (h : ReleaseInv s) {r : Ride} (hr : r ∈ s.rides) (ho : r.state ≠ .opened)
    (o : RideOutcome) : PendingDropped s (s.cancelled r o) := by
  have hbefore := s.cancelled_beforeReturn r o
  have hfit := h.1.fitted hr ho
  refine ⟨fun d => ?_, fun d => ?_⟩
  · by_cases hd : d = r.dock
    · subst hd
      rw [hfit]
      exact decide_eq_true (by rw [hbefore.dock, if_pos rfl]; exact DockState.noConfusion)
    · exact State.fitted_of_dock (by rw [hbefore.dock, if_neg hd])
  · rw [hbefore.dock]
    split
    · next hd =>
      rw [hd]
      show (s.dock r.dock).pending.dropLatch = _ ∨ (s.dock r.dock).pending.dropLatch = _
      cases (s.dock r.dock).pending
      · exact .inl rfl
      · exact .inr rfl
      · exact .inr rfl
      · exact .inl rfl
    · exact .inl rfl

/-! ## A ride that is cancelled (R74) -/

theorem State.cancelRide_out (s : State) (r : Ride) (o : RideOutcome) : ∀ y ∈ (s.cancelRide r o).releaseQ, y.dock ≠ r.dock := by
  intro y hy
  have hmem := List.mem_map_of_mem (f := fun e : QEntry => (e.dock, e.ride)) hy
  rw [(s.cancelRide_spec r o).queue] at hmem
  obtain ⟨y', hy', heq⟩ := List.mem_map.mp hmem
  rw [← show y'.dock = y.dock from congrArg Prod.fst heq]
  exact of_decide_eq_true (List.mem_filter.mp hy').2

/-- A cancellation as the statements ask for it. -/
theorem State.cancelRide_ended {s : State} {r : Ride} {e : Cred} (he : s.findCred r.cred = some e) (o : RideOutcome) :
    RideEnded s (s.cancelRide r o) r e o := by
  have hspec := s.cancelRide_spec r o
  refine ⟨?_, .filtered hspec.rides, ?_, fun c hc => ?_, congrArg Prod.snd (s.cancelRide_pool r o), fun y hy => ?_,
    hspec.grant, fun _ hissued => (State.cancelRide_moved hissued r o).1⟩
  · unfold State.findRide
    rw [hspec.rides]
    refine List.find?_eq_none.mpr (fun x hx => ?_)
    simpa using (List.mem_filter.mp hx).2
  · rw [hspec.cred, if_pos rfl, he, Option.bind_some]
  · rw [hspec.cred, if_neg hc]
  · exact s.cancelRide_out r o y hy

theorem SameTables.agree {s t : State} (h : SameTables s t) (d : DockIx) : AgreeBut s t d :=
  ⟨h.station.1.2.2.2.2.2.2.2.1, fun j => by unfold State.lineRuns; rw [h.line], h.releaseQ, h.grants, fun j _ => h.dock j⟩

theorem SameTables.findRide {s t : State} (h : SameTables s t) (n : RideNo) : t.findRide n = s.findRide n := by
  unfold State.findRide
  rw [h.rides]

theorem AgreeBut.refl (s : State) (d : DockIx) : AgreeBut s s d := ⟨rfl, fun _ => rfl, rfl, rfl, fun _ _ => rfl⟩

theorem RideEnded.of_tables {s u t : State} {r : Ride} {e : Cred} {o : RideOutcome} (h : RideEnded s u r e o)
    (k : SameTables u t) : RideEnded s t r e o := by
  obtain ⟨hgone, hothers, hcred, hcreds, hlist, hqueue, hgrant, hmoved⟩ := h
  refine ⟨(k.findRide _).trans hgone, hothers.trans (.of_eq k.rides _), (k.findCred _).trans hcred,
    fun c hc => (k.findCred c).trans (hcreds c hc), k.listK.trans hlist, k.releaseQ ▸ hqueue, k.grants ▸ hgrant,
    fun hinv hissued => (AgreeBut.refl s r.dock).moved (k.agree r.dock) (hmoved hinv hissued)⟩

theorem State.relatchRide_docksKept (s : State) (r : Ride) : DocksKept s (s.relatchRide r) [r.dock] :=
  ((DocksKept.of_docks (fun _ => rfl) _ : DocksKept s (s.updRide r.number Ride.relatched) [r.dock]).trans
    (State.returnGrant_docksKept (s.updRide r.number Ride.relatched) r.dock _)).trans
    (State.relatchDock_docksKept ((s.updRide r.number Ride.relatched).returnGrant r.dock) r.dock)

theorem State.relatchRide_trace {s : State} {r : Ride} (h : s.fitted r.dock = true) : LineTrace s (s.relatchRide r) := by
  have hgrant := (s.updRide r.number Ride.relatched).returnGrant_trace r.dock
  have htrace : LineTrace (s.updRide r.number Ride.relatched) (s.relatchRide r) :=
    hgrant.trans (State.relatchDock_trace ((hgrant.fitted _).trans h))
  exact htrace.of_before (fun l => by cases l <;> rfl) (fun _ => rfl) rfl

/-! ## The events and the request (R71, R77, R112) -/

/-- A command whose event or answer adds nothing to what it does to the tables. -/
structure Ends (u t : State) : Prop where
  tables : SameTables u t
  trace  : LineTrace u t

theorem Ends.event (n : Nat) (u : State) : Ends u (latchStoreLow n u) := by
  have hsame := latchStoreLow_sameTables n u
  refine ⟨hsame, fun d => State.fitted_of_dock (by rw [hsame.dock]), fun d => .inl (by rw [hsame.dock]),
    fun l _ => hsame.line l, fun l _ => .inl ⟨hsame.line l, fun a => by rw [hsame.dock]⟩, fun h => ?_⟩
  exact latchStoreLow_latched h n

theorem Ends.request (n : Nat) (u : State) (p : Port) (c : Byte) (k : Nat) (st : Status) (f : Fields) :
    Ends u (latchStoreLow n (u.answered p c k st f)) :=
  ⟨u.answered_sameTables n p c k st f, (LineTrace.refl u).answered n p c k st f⟩

/-- RIDE CANCEL, or the expiry that does the same to the ride of a number: what it leaves, and what it answers. -/
theorem exec_rideCancel_ends {s u : State} {n : RideNo} {i : Instr}
    (h : (∃ p : Port, s.takes p ∧ i = .rideCancel p n ∧ rideCancelRule n s = (u, ⟨.ok, .none⟩)) ∨
      exec i s = event (fun _ => u) s ∧ ∀ p, i ≠ .rideCancel p n) (hports : PortsKept s u) :
    ∃ t, exec i s = .next t ∧ Ends u t ∧ ∀ p, i = .rideCancel p n → Answers s t p ⟨0x13#8, .ok, .none⟩ 5 := by
  rcases h with ⟨p, hp, rfl, hrule⟩ | ⟨hexec, hother⟩
  · have hreq : exec (.rideCancel p n) s = _ := request_takes hp Req.rideCancel.code 5 (rideCancelRule n)
    rw [hrule] at hreq
    refine ⟨_, hreq, .request _ u p _ 5 .ok .none, fun q hq => ?_⟩
    injection hq with hq
    exact hq ▸ answers_of_portsKept hports _ _ _ _ _
  · exact ⟨_, hexec.trans (event_eq _ s), .event _ u, fun p hp => absurd hp (hother p)⟩

end Sys2Proof.Machine

namespace Sys2Proof.Proofs

open Sys2Proof.Machine

/-- Settles O24: request and expiry do the same to the tables, a QUEUED ride by the law of a cancellation, a RELEASING one
by that of relatching. -/
theorem rideCancelAndExpiries : Obligations.RideCancelAndExpiries := by
  refine ⟨fun s p n hs => ⟨fun hr => ?_, fun r hr hst => ?_⟩, fun s r e i o hr he hq hi => ?_,
    fun s r i hr hst hout hi => ?_⟩
  · refine request_refused hs _ _ ?_
    rw [rideCancelRule, hr]
  · refine request_refused hs _ _ ?_
    rcases hst with hst | hst <;> rw [rideCancelRule, hr] <;> dsimp only <;> rw [hst]
  · have hmem := (State.findRide_some hr).1
    have ho : r.state ≠ .opened := by rw [hq]; exact RideState.noConfusion
    have hspec := s.cancelRide_spec r o
    obtain ⟨t, hexec, hends, hans⟩ := exec_rideCancel_ends (u := s.cancelRide r o) (n := r.number) (i := i) (by
      rcases hi with ⟨p, hp, rfl, rfl⟩ | ⟨hw, rfl, rfl⟩
      · refine .inl ⟨p, hp, rfl, ?_⟩
        rw [rideCancelRule, hr]
        dsimp only
        rw [hq]
      · refine .inr ⟨?_, fun _ => nofun⟩
        show execQueueWaitExpiry r.number s = _
        rw [execQueueWaitExpiry, event_eq, event_eq, hr]
        dsimp only
        rw [if_pos ⟨hq, hw⟩]) hspec.frame.ports
    have hsame := hends.tables
    refine ⟨t, hexec, (State.cancelRide_ended he o).of_tables hsame, hsame.rides.trans hspec.rides, ?_,
      hsame.free.trans (congrArg Prod.fst (s.cancelRide_pool r o)), ?_,
      (s.cancelRide_docksKept r o).trans (.of_docks hsame.dock _), fun hrel => ?_, hsame.listN.trans hspec.listN,
      SameStation.trans hspec.frame.station hsame.station, hans⟩
    · rw [PostedK, hsame.listK]
      exact hspec.posted
    · rw [hsame.dock, hspec.dock, ← Pending.dropLatch_eq]
      rfl
    · have htrace : LineTrace (s.cancelled r o) t := (State.returnGrant_trace _ _).trans hends.trace
      exact htrace.bothFollow (State.cancelled_dropped hrel hmem ho o) (s.cancelled_beforeReturn r o).line
  · have hmem := (State.findRide_some hr).1
    have ho : r.state ≠ .opened := by rw [hst]; exact RideState.noConfusion
    have hspec := s.relatchRide_spec r
    obtain ⟨t, hexec, hends, hans⟩ := exec_rideCancel_ends (u := s.relatchRide r) (n := r.number) (i := i) (by
      rcases hi with ⟨p, hp, rfl⟩ | ⟨hw, rfl⟩
      · refine .inl ⟨p, hp, rfl, ?_⟩
        rw [rideCancelRule, hr]
        dsimp only
        rw [hst]
      · refine .inr ⟨?_, fun _ => nofun⟩
        show execTakeUpWindowExpiry r.number s = _
        rw [execTakeUpWindowExpiry, event_eq, event_eq, hr]
        dsimp only
        rw [if_pos ⟨hst, hw⟩]) hspec.frame.ports
    have hsame := hends.tables
    refine ⟨t, hexec, hsame.rides.trans hspec.rides, by rw [hsame.dock, hspec.dock], hsame.grants ▸ hspec.grant hout,
      (s.relatchRide_docksKept r).trans (.of_docks hsame.dock _), fun _ hissued => ?_, fun hrel => ?_, hsame.creds.trans hspec.creds,
      SamePool.trans hspec.pool ⟨hsame.free, hsame.listN, hsame.listK⟩,
      SameStation.trans hspec.frame.station hsame.station, hans⟩
    · have hmoved : Moved s (s.relatchRide r) [r.dock] :=
        State.returnRelatch_moved (s := s.updRide r.number Ride.relatched) hout hissued
      exact (AgreeBut.refl s r.dock).moved (hsame.agree r.dock) hmoved
    · exact ((State.relatchRide_trace (hrel.1.fitted hmem ho)).trans hends.trace).linesFollow

end Sys2Proof.Proofs
end

section
/-! PROOFS. A reply that acts on one dock, given what it has written there already: where no ride ends, and where the ride
of the dock is cancelled (R74, R90, R94, R97 to R99, R122). -/

namespace Sys2Proof.Machine

/-- Settling changes nothing of a ride but how far OPEN has come. -/
theorem SameRides.settled {s t : State} {d : DockIx} {p : OpenProgress}
    (h : t.rides = s.rides.map (fun r => r.settled d p)) : SameRides s t := by
  unfold SameRides
  rw [h, List.map_map]
  refine List.map_congr_left (fun r _ => ?_)
  rw [Function.comp, Ride.settled_eq]

theorem SameRides.othersKept {s t : State} (h : SameRides s t) (n : RideNo) : OtherRidesKept s t n := by
  have hkeep : (fun r : Ride => decide (r.number ≠ n)) ∘ (fun r : Ride => { r with progress := .notSent }) =
      fun r => decide (r.number ≠ n) := rfl
  have hfilter := congrArg (List.filter (fun r : Ride => decide (r.number ≠ n))) h
  rwa [List.filter_map, List.filter_map, hkeep] at hfilter

theorem SameRides.findRide_none {s t : State} (h : SameRides s t) (n : RideNo) :
    t.findRide n = none ↔ s.findRide n = none := by
  have hkeep : (fun r : Ride => decide (r.number = n)) ∘ (fun r : Ride => { r with progress := .notSent }) =
      fun r => decide (r.number = n) := rfl
  have hfind := congrArg (List.find? (fun r : Ride => decide (r.number = n))) h
  rw [List.find?_map, List.find?_map, hkeep] at hfind
  have hnone := congrArg Option.isNone hfind
  rw [Option.isNone_map, Option.isNone_map] at hnone
  rw [← Option.isNone_iff_eq_none, ← Option.isNone_iff_eq_none]
  exact iff_of_eq (congrArg (· = true) hnone)

/-! ## What happens at one dock -/

/-- A change of one dock's record and of the Port N records, with what a pending command set there causes. -/
structure AtDock (s t : State) (d : DockIx) : Prop where
  base  : SameBase s t
  ports : PortsKept s t
  rides : SameRides s t
  creds : t.creds = s.creds
  listK : t.listK = s.listK
  docks : DocksKept s t [d]
  stand : GrantsIssued s → AgreeBut s t d
  out   : (∀ y ∈ s.releaseQ, y.dock ≠ d) → (∀ y ∈ t.releaseQ, y.dock ≠ d) ∧ (d ∉ s.grants → d ∉ t.grants)

namespace AtDock

variable {s t u : State} {d : DockIx}

theorem refl (s : State) (d : DockIx) : AtDock s s d :=
  ⟨SameBase.refl s, PortsKept.refl s, rfl, rfl, rfl, .refl s [d], fun _ => .refl s d, fun h => ⟨h, id⟩⟩

theorem trans (h : AtDock s t d) (k : AtDock t u d) : AtDock s u d where
  base := SameBase.trans h.base k.base
  ports := PortsKept.trans h.ports k.ports
  rides := h.rides.trans k.rides
  creds := k.creds.trans h.creds
  listK := k.listK.trans h.listK
  docks := h.docks.trans k.docks
  stand hi := (h.stand hi).trans (k.stand ((h.stand hi).issued hi))
  out hq := by
    obtain ⟨hqueue, hgrants⟩ := h.out hq
    obtain ⟨kqueue, kgrants⟩ := k.out hqueue
    exact ⟨kqueue, kgrants ∘ hgrants⟩

theorem of_same (hframe : RideFrame s t) (hrides : SameRides s t) (hcreds : t.creds = s.creds)
    (hlist : t.listK = s.listK) (hdocks : DocksKept s t [d]) (hagree : AgreeBut s t d) : AtDock s t d :=
  ⟨hframe.station.1, hframe.ports, hrides, hcreds, hlist, hdocks, fun _ => hagree,
    fun h => ⟨hagree.releaseQ ▸ h, hagree.grants ▸ id⟩⟩

theorem heard {sent : Pending} {rep : StatusReply} (h : Heard s t d sent rep) : AtDock s t d where
  base := h.base
  ports := (ReplyKept.heard h (n := 0)).ports
  rides := .settled h.rides
  creds := h.creds
  listK := h.pool.2.2
  docks := (ReplyKept.heard h (n := 0)).docks
  stand _ := .heard h
  out hq := ⟨h.releaseQ ▸ hq, h.grants ▸ id⟩

theorem pool (h : PoolFrame s t) (hlist : t.listK = s.listK) : AtDock s t d :=
  of_same h.ride (.of_eq h.rides) h.creds hlist (.of_docks h.dock [d]) (.pool h)

theorem notice (s : State) (d : DockIx) (sub : Subject) (b : NoticeBody) : AtDock s (s.notice sub b) d :=
  pool (s.notice_pool sub b) (s.notice_listK sub b)

theorem linkNotices (s : State) (d : DockIx) (before : Dock) (rep : StatusReply) :
    AtDock s (s.linkNotices d before rep) d :=
  pool (s.linkNotices_pool d before rep) (s.linkNotices_listK d before rep)

theorem updDock (s : State) (d : DockIx) (f : Dock → Dock) : AtDock s (s.updDock d f) d :=
  of_same (s.updDock_ride d f) rfl rfl rfl (s.updDock_docksKept d f) (.updDock s d f)

theorem relatchDock (s : State) (d : DockIx) : AtDock s (s.relatchDock d) d := by
  have hframe := s.relatchDock_frame d
  refine ⟨(s.relatchDock_ride d).station.1, (s.relatchDock_ride d).ports, .of_eq hframe.rides, hframe.creds,
    hframe.pool.2.2, s.relatchDock_docksKept d, fun hissued => ?_, fun hout => ?_⟩
  · obtain ⟨hqueue, hgrants, hothers⟩ := hissued.relatchDock d
    exact ⟨hframe.station.1.2.2.2.2.2.2.2.1,
      fun j => (hframe.lineRuns j).trans ((AgreeBut.updDock s d _).runs j), hqueue, hgrants, hothers⟩
  · exact ⟨hframe.not_queued hout, fun hg => State.setPending_not_mem hg hout⟩

theorem closed (k : TurnClosed s t) : AtDock s t d where
  base := k.frame.station.1
  ports := k.frame.ports
  rides := .of_eq k.rides
  creds := k.creds
  listK := k.pool.2.2
  docks := k.docks.mono (List.nil_subset _)
  stand hissued := .closed k hissued
  out hq := (k.idle d hq).2

/-- The end of the turn leaves the dock's record, but for what a grant may do to it. -/
theorem dock_closed (h : AtDock s t d) (k : TurnClosed t u) (hout : ∀ y ∈ s.releaseQ, y.dock ≠ d) :
    u.dock d = t.dock d := (k.idle d (h.out hout).1).1

theorem grantsStand (h : AtDock s t d) : GrantsStand s t d := fun _ hissued =>
  ⟨(h.stand hissued).releaseQ, (h.stand hissued).grants, (h.stand hissued).others⟩

end AtDock

theorem TurnClosed.dock_pending {s t : State} (k : TurnClosed s t) (d : DockIx) :
    t.dock d = { s.dock d with pending := (t.dock d).pending } := (k.docks d List.not_mem_nil).1

/-- The notice with which an event ends, seen from before it. -/
theorem Notified.closed {s c t : State} {sub : Subject} {b : NoticeBody} (hbase : SameBase s c) (hports : PortsKept s c)
    (hlist : c.listN = s.listN) (k : TurnClosed (c.notice sub b) t) : Notified s t c.free sub b :=
  ((c.notice_notified sub b).seen hbase hports hlist).carry k.pool.1 k.pool.2.1 (k.latchedN _)

/-! ## A reply that is due (R90, R122) -/

/-- The reply is heard in u, and its handling there and the turn's end lead to t; before is the dock record it found. -/
structure Handled (s u t : State) (d : DockIx) (sent : Pending) (rep : StatusReply) (before : Dock) : Prop where
  heard   : Heard s u d sent rep
  link    : before.link = (s.dock d).link
  power   : before.powerLow = (s.dock d).powerLow
  relatch : before.relatch = (s.dock d).relatch
  closed  : TurnClosed ((u.settleReply d before rep (decide (sent = .closeCmd))).openAfterShow d) t

theorem State.endStatus_eq (s : State) (l : Line) (x : Turn) (rep : StatusReply) :
    s.endStatus l x rep =
      let z := ((s.heard l x rep).settleReply (dockIx l x.addr) ((s.turnOver l x).dock (dockIx l x.addr)) rep
        (decide (x.cmd = .closeCmd))).openAfterShow (dockIx l x.addr)
      if newToken (s.dock (dockIx l x.addr)) rep || bikeChange (s.dock (dockIx l x.addr)) rep then z.quietActivity l
      else z := rfl

theorem ReplyDue.handledAt {s : State} {l : Line} {x : Turn} (h : ReplyDue s l x) (rep : StatusReply) :
    Handled s (s.heard l x rep) (latchStoreLow s.free.length (s.endStatus l x rep)) (dockIx l x.addr) x.cmd rep
      ((s.turnOver l x).dock (dockIx l x.addr)) := by
  have hbefore := s.turnOver_dock l x (dockIx l x.addr)
  rw [if_pos rfl] at hbefore
  refine ⟨State.heard_heard h.2.1 rep, by rw [hbefore], by rw [hbefore], by rw [hbefore], ?_⟩
  rw [State.endStatus_eq]
  refine TurnClosed.trans ?_ (latchStoreLow_closed _ _)
  dsimp only
  split
  · exact State.quietActivity_closed _ l
  · exact .refl _

theorem ReplyDue.handled {s : State} {l : Line} {x : Turn} (h : ReplyDue s l x) (rep : StatusReply) :
    ∃ u t before, exec (.statusReply l rep) s = .next t ∧ Handled s u t (dockIx l x.addr) x.cmd rep before :=
  ⟨_, _, _, exec_statusReply_due h rep, h.handledAt rep⟩

/-! ## The reply of a dock whose ride, if it has one, is not cancelled -/

/-- The station w at which bike and latch of the reply are looked at, what is done there leading to v. -/
structure Heeded (s w v t : State) (d : DockIx) (sent : Pending) (rep : StatusReply) : Prop where
  kept   : AtDock s w d
  dock   : w.dock d = replied (s.dock d) rep (w.dock d).ack (clearedPending sent (s.dock d).pending)
  pool   : NoLinkNotice (s.dock d) rep → SamePool s w
  room   : s.free.length ≤ w.free.length + 2
  rides  : w.rides = s.rides.map (fun r => r.settled d .delivered)
  queue  : w.releaseQ = s.releaseQ
  runs   : TurnClosed (v.openAfterShow d) t

/-- The same where no ride names the dock. -/
abbrev Unbound (s w t : State) (d : DockIx) (sent : Pending) (rep : StatusReply) : Prop :=
  Heeded s w (w.dockReply d rep (decide (sent = .closeCmd))) t d sent rep

theorem State.notice_room (s : State) (sub : Subject) (b : NoticeBody) :
    s.free.length ≤ (s.notice sub b).free.length + 1 := by
  have hnotice := s.notice_notified sub b
  unfold Notified at hnotice
  split at hnotice
  · rw [hnotice.1]
    omega
  · split at hnotice
    · next hempty =>
      rw [hempty]
      exact Nat.zero_le _
    · rw [hnotice.1, List.length_tail]
      omega

theorem State.linkNotices_room (s : State) (d : DockIx) (before : Dock) (r : StatusReply) :
    s.free.length ≤ (s.linkNotices d before r).free.length + 2 := by
  have hback : s.free.length ≤
      (if before.link = .lost then s.notice (.dock d) (.nodeBack .status) else s).free.length + 1 := by
    split
    · exact s.notice_room _ _
    · exact Nat.le_succ _
  unfold State.linkNotices
  dsimp only
  split
  · exact Nat.le_trans hback (Nat.succ_le_succ (State.notice_room _ _ _))
  · exact Nat.le_trans hback (Nat.le_succ _)

theorem Handled.heeded {s u t v : State} {d : DockIx} {sent : Pending} {rep : StatusReply} {before : Dock}
    (h : Handled s u t d sent rep before) (hv : u.settleReply d before rep (decide (sent = .closeCmd)) = v) :
    Heeded s (u.linkNotices d before rep) v t d sent rep where
  kept := (AtDock.heard h.heard).trans (.linkNotices u d before rep)
  dock := by
    rw [(u.linkNotices_pool d before rep).dock]
    exact h.heard.dock
  pool hquiet := by
    rw [hquiet.linkNotices h.link h.power]
    exact h.heard.pool
  room := by
    rw [← h.heard.pool.1]
    exact u.linkNotices_room d before rep
  rides := (u.linkNotices_pool d before rep).rides.trans h.heard.rides
  queue := (u.linkNotices_pool d before rep).releaseQ.trans h.heard.releaseQ
  runs := hv ▸ h.closed

theorem Handled.unbound {s u t : State} {d : DockIx} {sent : Pending} {rep : StatusReply} {before : Dock}
    (h : Handled s u t d sent rep before) (hnone : s.rideAt d = none) :
    Unbound s (u.linkNotices d before rep) t d sent rep := by
  have hu : u.rideAt d = none := by rw [rideAt_settled h.heard.rides, hnone, Option.map_none]
  refine h.heeded ?_
  unfold State.settleReply
  rw [hu]

/-- Where a ride names the dock and the reply does not cancel it. -/
theorem Handled.bound {s u t : State} {r : Ride} {sent : Pending} {rep : StatusReply} {before : Dock}
    (h : Handled s u t r.dock sent rep before) (hr : s.rideAt r.dock = some r)
    (hcause : cancelCause (r.settled r.dock .delivered) rep (s.dock r.dock).relatch (decide (sent = .closeCmd)) = none) :
    Heeded s (u.linkNotices r.dock before rep) ((u.linkNotices r.dock before rep).rideReply r.dock
      (r.settled r.dock .delivered) rep (decide (sent = .closeCmd))) t r.dock sent rep := by
  have hur : u.rideAt r.dock = some (r.settled r.dock .delivered) := by
    rw [rideAt_settled h.heard.rides, hr, Option.map_some]
  refine h.heeded ?_
  unfold State.settleReply
  rw [hur]
  dsimp only
  rw [h.relatch, hcause]

namespace Heeded

variable {s w t v v' : State} {d : DockIx} {sent : Pending} {rep : StatusReply}

theorem settled (h : Heeded s w v t d sent rep) (hv : v = v') (hq : (v'.dock d).state ≠ .queued) : TurnClosed v' t := by
  have hruns := h.runs
  rwa [hv, State.openAfterShow_eq hq] at hruns

/-- The one notice of a reply without link notices. -/
theorem notified (h : Heeded s w v t d sent rep) {c : State} {sub : Subject} {b : NoticeBody} (hc : AtDock w c d)
    (hpool : SamePool w c) (k : TurnClosed (c.notice sub b) t) (hquiet : NoLinkNotice (s.dock d) rep) :
    Notified s t s.free sub b := by
  have hwhole := h.kept.trans hc
  obtain ⟨hfree, hlist, -⟩ := SamePool.trans (h.pool hquiet) hpool
  rw [← hfree]
  exact Notified.closed hwhole.base hwhole.ports hlist k

theorem samePool (h : Heeded s w v t d sent rep) (hpool : SamePool w v') (k : TurnClosed v' t)
    (hquiet : NoLinkNotice (s.dock d) rep) : SamePool s t := ((h.pool hquiet).trans hpool).trans k.pool

end Heeded

/-! ## The ride that an event cancels once its OPEN is settled (R74, R120) -/

/-- The station u in which an event meets the ride of its dock: how far OPEN has come is settled, and records, credentials,
queue, grants and the other docks stand. -/
structure Prior (s u : State) (d : DockIx) (p : OpenProgress) : Prop where
  rides : u.rides = s.rides.map (fun r => r.settled d p)
  creds : u.creds = s.creds
  pool  : SamePool s u
  agree : AgreeBut s u d

theorem Heard.prior {s u : State} {d : DockIx} {sent : Pending} {rep : StatusReply} (h : Heard s u d sent rep) :
    Prior s u d .delivered := ⟨h.rides, h.creds, h.pool, .heard h⟩

section
variable {s u t : State} {r r' : Ride} {p : OpenProgress} (h : Prior s u r.dock p)
  (hr' : r' = { r with progress := r'.progress }) (o : RideOutcome)
include h hr'

/-- A cancellation of the ride whose OPEN has been settled, as the statements put it of the ride before. -/
theorem Prior.ended {e : Cred} (he : s.findCred r.cred = some e) (k : AtDock (u.cancelRide r' o) t r.dock) :
    RideEnded s t r e o := by
  have hnumber : r'.number = r.number := by rw [hr']
  have hcred : r'.cred = r.cred := by rw [hr']
  have hdock : r'.dock = r.dock := by rw [hr']
  have hu : u.findCred r'.cred = some e := by rw [State.findCred_congr h.creds, hcred, he]
  obtain ⟨hgone, hothers, hself, hcreds, hlist, hqueue, hgrant, -⟩ := State.cancelRide_ended hu o
  rw [hnumber] at hgone hothers
  rw [hcred] at hself hcreds
  rw [hdock] at hqueue hgrant
  obtain ⟨hqueue', hgrant'⟩ := k.out hqueue
  have htcred : ∀ c, t.findCred c = (u.cancelRide r' o).findCred c := State.findCred_congr k.creds
  refine ⟨?_, (OtherRidesKept.settled h.rides r.number).trans (hothers.trans (SameRides.othersKept k.rides r.number)),
    (htcred _).trans hself, fun c hc => ((htcred c).trans (hcreds c hc)).trans (State.findCred_congr h.creds c), ?_,
    hqueue', hgrant' hgrant, fun _ hissued => ?_⟩
  · exact (SameRides.findRide_none k.rides r.number).mpr hgone
  · rw [h.pool.1, h.pool.2.2] at hlist
    refine (k.listK.trans hlist).trans ?_
    rw [hr']
    rfl
  · obtain ⟨hmoved, hissued'⟩ := State.cancelRide_moved (h.agree.issued hissued) r' o
    rw [hdock] at hmoved
    exact h.agree.moved (k.stand hissued') hmoved

theorem Prior.cancelled_free : (u.cancelRide r' o).free = (cancelPool s.free s.listK r o).1 := by
  have hfree := congrArg Prod.fst (u.cancelRide_pool r' o)
  rw [h.pool.1, h.pool.2.2] at hfree
  refine hfree.trans ?_
  rw [hr']
  rfl

omit hr' in
theorem Prior.cancelled_listN (r' : Ride) : (u.cancelRide r' o).listN = s.listN :=
  (u.cancelRide_spec r' o).listN.trans h.pool.2.1

end

/-! ## The reply of a dock whose ride it cancels (R74) -/

section
variable {s u t : State} {r r' : Ride} {sent : Pending} {rep : StatusReply} (h : Heard s u r.dock sent rep)
  (hr' : r' = { r with progress := r'.progress }) (o : RideOutcome)
include h hr'

/-- The dock of the cancelled ride. -/
theorem Heard.cancelled_dock : (u.cancelRide r' o).dock r.dock =
    { replied (s.dock r.dock) rep (u.dock r.dock).ack (withoutLatch (clearedPending sent (s.dock r.dock).pending)) with
      state := .docked, relatch := 0 } := by
  have hdock : r'.dock = r.dock := by rw [hr']
  have hspec := (u.cancelRide_spec r' o).dock
  rw [hdock, h.dock] at hspec
  rw [hspec, ← Pending.dropLatch_eq]
  rfl

theorem Heard.cancelled_kept : ReplyKept s (u.cancelRide r' o) r.dock r.number :=
  (ReplyKept.heard h).trans (.cancelRide u (by rw [hr']) (by rw [hr']) o)

end

end Sys2Proof.Machine
end

section
/-! PROOFS. LATCH_JAM and READER_FAULT: how a dock becomes FAULTED and how the fault clears (R90, R94, R97 to R99). -/

namespace Sys2Proof.Machine

/-! ## Writes of one dock record -/

/-- One dock has this record, what stands beside it stands, and no record is posted. -/
structure DockSet (s t : State) (d : DockIx) (y : Dock) : Prop where
  kept : AtDock s t d
  pool : SamePool s t
  dock : t.dock d = y

namespace DockSet

theorem refl (s : State) (d : DockIx) : DockSet s s d (s.dock d) := ⟨.refl s d, ⟨rfl, rfl, rfl⟩, rfl⟩

theorem updDock (s : State) (d : DockIx) (f : Dock → Dock) : DockSet s (s.updDock d f) d (f (s.dock d)) :=
  ⟨.updDock s d f, ⟨rfl, rfl, rfl⟩, by rw [State.dock_updDock, if_pos rfl]⟩

theorem trans {s t u : State} {d : DockIx} {x y : Dock} (h : DockSet s t d x) (k : DockSet t u d y) : DockSet s u d y :=
  ⟨h.kept.trans k.kept, h.pool.trans k.pool, k.dock⟩

theorem relatchDock (s : State) (d : DockIx) :
    DockSet s (s.relatchDock d) d { s.dock d with state := .relatching, relatch := 0, pending := .closeCmd } :=
  ⟨.relatchDock s d, (s.relatchDock_frame d).pool, s.relatchDock_dock d⟩

/-- No return is looked up where the stored tag is a real one, or none is read (R94). -/
theorem retag {s : State} {d : DockIx} {g : BikeTag} (h : (s.dock d).tag ≠ 0#32 ∨ g = 0#32) :
    DockSet s (s.retag d g) d (retagged s (s.dock d) g) := by
  unfold State.retag retagged
  dsimp only
  by_cases hsame : g = (s.dock d).tag
  · rw [if_pos hsame, if_pos hsame]
    exact refl s d
  · have hreal : (s.dock d).tag ≠ 0#32 := fun hz => h.elim (fun hne => hne hz) (fun hg => hsame (hg.trans hz.symm))
    rw [if_neg hsame, if_neg hreal, if_neg hsame]
    exact updDock s d _

end DockSet

/-- A dock record once its latch is found jammed (R97). -/
def Dock.toJammed (x : Dock) : Dock :=
  { x with state := .faulted .jammed, pending := x.pending.dropLatch, relatch := 0 }

theorem State.jamDock_eq {s : State} {d : DockIx} (h : (s.dock d).state ≠ .faulted .jammed) (c : JamCause)
    (n : Option RideNo) :
    s.jamDock d c n = (s.updDock d Dock.toJammed).notice (.dock d) (.latchJam (s.dock d).tag c n) := if_neg h

theorem State.jamDock_again {s : State} {d : DockIx} (h : (s.dock d).state = .faulted .jammed) (c : JamCause)
    (n : Option RideNo) : s.jamDock d c n = s := if_pos h

theorem State.notice_dock (s : State) (sub : Subject) (b : NoticeBody) (d : DockIx) :
    (s.notice sub b).dock d = s.dock d := (s.notice_pool sub b).dock d

theorem Dock.toJammed_eq (x : Dock) :
    x.toJammed = { x with state := .faulted .jammed, pending := withoutLatch x.pending, relatch := 0 } := by
  unfold Dock.toJammed
  rw [Pending.dropLatch_eq]

theorem retagged_congr {s t : State} (h : t.minute = s.minute) (x : Dock) (g : BikeTag) :
    retagged t x g = retagged s x g := by
  unfold retagged
  rw [h]

theorem retagged_state (s : State) (x : Dock) (g : BikeTag) : (retagged s x g).state = x.state := by
  unfold retagged
  split <;> rfl

theorem retagged_ack (s : State) (x : Dock) (g : BikeTag) : (retagged s x g).ack = x.ack := by
  unfold retagged
  split <;> rfl

/-! ## What a reply to a dock without a ride leaves (R90) -/

/-- A reply has changed the record of its dock in this way, after what every reply writes there; no ride, credential, Port
K record, grant or other dock changed with it. -/
structure Replies (s t : State) (d : DockIx) (sent : Pending) (rep : StatusReply) (f : Dock → Dock) : Prop where
  kept : AtDock s t d
  same : t.dock d = { f (replied (s.dock d) rep (t.dock d).ack (clearedPending sent (s.dock d).pending)) with
    pending := (t.dock d).pending }
  dock : (∀ y ∈ s.releaseQ, y.dock ≠ d) →
    t.dock d = f (replied (s.dock d) rep (t.dock d).ack (clearedPending sent (s.dock d).pending))

namespace Heeded

variable {s w v t v' : State} {d : DockIx} {sent : Pending} {rep : StatusReply} (h : Heeded s w v t d sent rep)
include h

theorem state : (w.dock d).state = (s.dock d).state := by rw [h.dock]; rfl
theorem tag : (w.dock d).tag = (s.dock d).tag := by rw [h.dock]; rfl
theorem attempts : (w.dock d).relatch = (s.dock d).relatch := by rw [h.dock]; rfl
theorem minute : w.minute = s.minute := h.kept.base.1

/-- The record that the dock is left, and what the change of it keeps. -/
theorem replies {f : Dock → Dock} (hf : ∀ x, (f x).ack = x.ack) (k : AtDock w v' d) (hv : v'.dock d = f (w.dock d))
    (hclosed : TurnClosed v' t) : Replies s t d sent rep f := by
  have hkept := h.kept.trans k
  have hsame := hclosed.dock_pending d
  have hack : (t.dock d).ack = (w.dock d).ack := by
    rw [hsame, hv]
    exact hf _
  have hwritten : v'.dock d = f (replied (s.dock d) rep (t.dock d).ack (clearedPending sent (s.dock d).pending)) := by
    rw [hv, hack]
    exact congrArg f h.dock
  exact ⟨hkept.trans (.closed hclosed), hwritten ▸ hsame, fun hout => (hkept.dock_closed hclosed hout).trans hwritten⟩

/-- The reply changes the dock's record and posts nothing of its own. -/
theorem set {f : Dock → Dock} (hf : ∀ x, (f x).ack = x.ack) (hv : v = v')
    (k : DockSet w v' d (f (w.dock d))) (hq : (f (w.dock d)).state ≠ .queued) :
    Replies s t d sent rep f ∧ (NoLinkNotice (s.dock d) rep → SamePool s t) := by
  have hclosed := h.settled hv (by rw [k.dock]; exact hq)
  exact ⟨h.replies hf k.kept k.dock hclosed, h.samePool k.pool hclosed⟩

/-- The reply changes the dock's record and posts one notice. -/
theorem noted {c : State} {f : Dock → Dock} {sub : Subject} {b : NoticeBody} (hf : ∀ x, (f x).ack = x.ack)
    (hv : v = c.notice sub b) (k : DockSet w c d (f (w.dock d)))
    (hq : (f (w.dock d)).state ≠ .queued) :
    Replies s t d sent rep f ∧ (NoLinkNotice (s.dock d) rep → Notified s t s.free sub b) := by
  have hdock : (c.notice sub b).dock d = f (w.dock d) := by rw [State.notice_dock, k.dock]
  have hclosed := h.settled hv (by rw [hdock]; exact hq)
  exact ⟨h.replies hf (k.kept.trans (.notice c d sub b)) hdock hclosed, h.notified k.kept k.pool hclosed⟩

end Heeded

/-! ## The steps of a reply at a dock without a ride (R90, R97 to R99) -/

section
variable {s : State} {d : DockIx} {rep : StatusReply} (c : Bool)

theorem State.dockReply_jammed (h : rep.latch = .jammed) : s.dockReply d rep c = s.jamDock d .node none := if_pos h

theorem State.dockReply_readerFault (hjam : rep.latch ≠ .jammed) (hfault : rep.readerFault = true)
    (hstate : (s.dock d).state = .unknown ∨ (s.dock d).state = .empty ∨ (s.dock d).state = .docked) :
    s.dockReply d rep c = s.readerFaultDock d := by
  unfold State.dockReply readerFaults
  rw [if_neg hjam, hfault, decide_eq_true hstate]
  rfl

/-- Past the jam and the reader fault, bike and latch are looked at by the dock's state. -/
theorem State.dockReply_plain (hjam : rep.latch ≠ .jammed)
    (hreader : rep.readerFault = true → (s.dock d).state ≠ .unknown ∧ (s.dock d).state ≠ .empty ∧
      (s.dock d).state ≠ .docked) : s.dockReply d rep c = s.plainReply d rep c := by
  unfold State.dockReply readerFaults
  rw [if_neg hjam, if_neg]
  intro hboth
  obtain ⟨hfault, hstate⟩ := Bool.and_eq_true_iff.mp hboth
  obtain ⟨hunknown, hempty, hdocked⟩ := hreader hfault
  rcases of_decide_eq_true hstate with h | h | h
  · exact hunknown h
  · exact hempty h
  · exact hdocked h

theorem State.dockReply_faulted {reason : FaultReason} (hjam : rep.latch ≠ .jammed) (hstate : (s.dock d).state = .faulted reason) :
    s.dockReply d rep c = if rep.readerFault || (rep.bike && decide (rep.latch = .unlatched)) then s
      else s.clearFault d rep := by
  rw [State.dockReply_plain c hjam (fun _ => by rw [hstate]; exact ⟨nofun, nofun, nofun⟩)]
  unfold State.plainReply
  rw [hstate]

end

/-! ## What a reply that cancels the ride at its dock leaves (R73 to R75, R97) -/

/-- The station w at which a reply has cancelled the ride of its dock and posted its link notices. -/
structure Ousted (s w t : State) (r : Ride) (o : RideOutcome) (sent : Pending) (rep : StatusReply) : Prop where
  ends  : ∀ (t' : State) (e : Cred), s.findCred r.cred = some e → AtDock w t' r.dock → RideEnded s t' r e o
  kept  : ReplyKept s w r.dock r.number
  dock  : w.dock r.dock = { replied (s.dock r.dock) rep (w.dock r.dock).ack
    (withoutLatch (clearedPending sent (s.dock r.dock).pending)) with state := .docked, relatch := 0 }
  out   : ∀ y ∈ w.releaseQ, y.dock ≠ r.dock
  pool  : NoLinkNotice (s.dock r.dock) rep →
    w.free = (cancelPool s.free s.listK r o).1 ∧ w.listN = s.listN
  runs  : TurnClosed ((w.afterCancel r.dock (r.settled r.dock .delivered) rep).openAfterShow r.dock) t

theorem Handled.ousted {s u t : State} {r : Ride} {sent : Pending} {rep : StatusReply} {before : Dock} {o : RideOutcome}
    (h : Handled s u t r.dock sent rep before) (hr : s.rideAt r.dock = some r)
    (hcause : cancelCause (r.settled r.dock .delivered) rep (s.dock r.dock).relatch (decide (sent = .closeCmd)) = some o) :
    ∃ w, Ousted s w t r o sent rep := by
  have hr' : r.settled r.dock .delivered = { r with progress := (r.settled r.dock .delivered).progress } :=
    Ride.settled_eq r r.dock .delivered
  have hur : u.rideAt r.dock = some (r.settled r.dock .delivered) := by
    rw [rideAt_settled h.heard.rides, hr, Option.map_some]
  have hclosed := h.closed
  unfold State.settleReply at hclosed
  rw [hur] at hclosed
  dsimp only at hclosed
  rw [h.relatch, hcause] at hclosed
  have hlink := AtDock.linkNotices (u.cancelRide (r.settled r.dock .delivered) o) r.dock before rep
  have hpool := State.linkNotices_pool (u.cancelRide (r.settled r.dock .delivered) o) r.dock before rep
  have hdock := h.heard.cancelled_dock hr' o
  refine ⟨_, fun t' e he k => h.heard.prior.ended hr' o he (hlink.trans k), (h.heard.cancelled_kept hr' o).trans (.pool hpool),
    ?_, ?_, fun hquiet => ?_, hclosed⟩
  · rw [hpool.dock, hdock]
    rfl
  · rw [hpool.releaseQ]
    have hspec := State.cancelRide_out u (r.settled r.dock .delivered) o
    rwa [show (r.settled r.dock .delivered).dock = r.dock by rw [hr']] at hspec
  · rw [hquiet.linkNotices h.link h.power]
    exact ⟨h.heard.prior.cancelled_free hr' o, h.heard.prior.cancelled_listN o _⟩

namespace Ousted

variable {s w t v : State} {r : Ride} {o : RideOutcome} {sent : Pending} {rep : StatusReply}
  (h : Ousted s w t r o sent rep)
include h

theorem state : (w.dock r.dock).state = .docked := by rw [h.dock]
theorem tag : (w.dock r.dock).tag = (s.dock r.dock).tag := by rw [h.dock]; rfl
theorem minute : w.minute = s.minute := h.kept.base.1

theorem settled (hv : w.afterCancel r.dock (r.settled r.dock .delivered) rep = v)
    (hq : (v.dock r.dock).state ≠ .queued) : TurnClosed v t := by
  have hruns := h.runs
  rwa [hv, State.openAfterShow_eq hq] at hruns

theorem whole (k : AtDock w t r.dock) : (∀ e, s.findCred r.cred = some e → RideEnded s t r e o) ∧
    DocksKept s t [r.dock] ∧ SameBase s t ∧ PortsKept s t :=
  ⟨fun e he => h.ends t e he k, h.kept.docks.trans k.docks, SameBase.trans h.kept.base k.base,
    PortsKept.trans h.kept.ports k.ports⟩

/-- The dock is left this record, and nothing more is posted. -/
theorem set {y : Dock} (hv : w.afterCancel r.dock (r.settled r.dock .delivered) rep = v) (k : DockSet w v r.dock y)
    (hq : y.state ≠ .queued) :
    ((∀ e, s.findCred r.cred = some e → RideEnded s t r e o) ∧ DocksKept s t [r.dock] ∧ SameBase s t ∧ PortsKept s t) ∧
    t.dock r.dock = y ∧
    (NoLinkNotice (s.dock r.dock) rep → t.free = (cancelPool s.free s.listK r o).1 ∧ t.listN = s.listN) := by
  have hclosed := h.settled hv (by rw [k.dock]; exact hq)
  refine ⟨h.whole (k.kept.trans (.closed hclosed)), by rw [k.kept.dock_closed hclosed h.out, k.dock], fun hquiet => ?_⟩
  obtain ⟨hfree, hlist⟩ := h.pool hquiet
  obtain ⟨kfree, klist, -⟩ := k.pool.trans hclosed.pool
  exact ⟨kfree.trans hfree, klist.trans hlist⟩

/-- The dock is left this record, and one notice is posted after the outcome. -/
theorem noted {c : State} {y : Dock} {sub : Subject} {b : NoticeBody}
    (hv : w.afterCancel r.dock (r.settled r.dock .delivered) rep = c.notice sub b) (k : DockSet w c r.dock y)
    (hq : y.state ≠ .queued) :
    ((∀ e, s.findCred r.cred = some e → RideEnded s t r e o) ∧ DocksKept s t [r.dock] ∧ SameBase s t ∧ PortsKept s t) ∧
    t.dock r.dock = y ∧
    (NoLinkNotice (s.dock r.dock) rep → Notified s t (cancelPool s.free s.listK r o).1 sub b) := by
  have hdock : (c.notice sub b).dock r.dock = y := by rw [State.notice_dock, k.dock]
  have hclosed := h.settled hv (by rw [hdock]; exact hq)
  have hkept := k.kept.trans (.notice c r.dock sub b)
  refine ⟨h.whole (hkept.trans (.closed hclosed)), by rw [hkept.dock_closed hclosed h.out, hdock], fun hquiet => ?_⟩
  obtain ⟨hfree, hlist⟩ := h.pool hquiet
  obtain ⟨kfree, klist, -⟩ := k.pool
  rw [← hfree, ← kfree]
  exact Notified.closed (SameBase.trans h.kept.base k.kept.base) (PortsKept.trans h.kept.ports k.kept.ports)
    (klist.trans hlist) hclosed

end Ousted

/-! ## A dock FAULTED already (R97, R99) -/

/-- A real tag is stored, or none is read: no return is seen (R94). -/
theorem tagKnown_of_not_returnSeen {x : Dock} {rep : StatusReply} (h : ¬ ReturnSeen x rep) (hbike : rep.bike = true)
    (hlatch : rep.latch = .locked) (hreader : rep.readerFault = true → x.state = .relatching)
    (hstate : x.state = .docked ∨ x.state = .relatching ∨ x.state = .faulted .jammed ∨ x.state = .faulted .reader) :
    x.tag ≠ 0#32 ∨ rep.tag = 0#32 := by
  by_contra hneither
  obtain ⟨hzero, hreal⟩ := not_or.mp hneither
  exact h ⟨hbike, hlatch, hreader, .inr ⟨not_not.mp hzero, hreal, hstate⟩⟩

/-- The jam of a dock with a ride: the ride is cancelled first (R74, R75, R97). -/
theorem Handled.jammed {s u t : State} {r : Ride} {sent : Pending} {rep : StatusReply} {before : Dock} {e : Cred}
    (h : Handled s u t r.dock sent rep before) (hr : s.rideAt r.dock = some r) (he : s.findCred r.cred = some e)
    (hjam : rep.latch = .jammed) :
    RideEnded s t r e .latchFault ∧
    t.dock r.dock = { replied (s.dock r.dock) rep (t.dock r.dock).ack
      (withoutLatch (clearedPending sent (s.dock r.dock).pending)) with state := .faulted .jammed, relatch := 0 } ∧
    (NoLinkNotice (s.dock r.dock) rep → Notified s t (cancelPool s.free s.listK r .latchFault).1 (.dock r.dock)
      (.latchJam (s.dock r.dock).tag .node (some r.number))) ∧
    DocksKept s t [r.dock] ∧ SameBase s t ∧ PortsKept s t := by
  obtain ⟨w, hw⟩ := h.ousted hr (o := .latchFault) (by unfold cancelCause; rw [hjam])
  have hv : w.afterCancel r.dock (r.settled r.dock .delivered) rep =
      (w.updDock r.dock Dock.toJammed).notice (.dock r.dock) (.latchJam (s.dock r.dock).tag .node (some r.number)) := by
    unfold State.afterCancel
    rw [if_pos hjam, State.jamDock_eq (by rw [hw.state]; nofun), hw.tag, Ride.settled_number]
  obtain ⟨⟨hends, hdocks, hbase, hports⟩, hdock, hnotice⟩ := hw.noted hv (.updDock w r.dock Dock.toJammed) nofun
  refine ⟨hends e he, ?_, hnotice, hdocks, hbase, hports⟩
  rw [hdock, hw.dock]
  unfold Dock.toJammed replied
  dsimp only
  rw [Pending.dropLatch_eq]
  cases clearedPending sent (s.dock r.dock).pending <;> rfl

/-! ## The ways of a reply at a dock without a ride (R97 to R99) -/

namespace Unbound

variable {s w t : State} {d : DockIx} {sent : Pending} {rep : StatusReply} (h : Unbound s w t d sent rep)
include h

theorem frame : SameBase s t ∧ PortsKept s t := by
  have hstep := (w.dockReply_ride d rep (decide (sent = .closeCmd))).trans (State.openAfterShow_frame _ d).ride
  have hall := hstep.trans h.runs.frame
  exact ⟨SameBase.trans h.kept.base hall.station.1, PortsKept.trans h.kept.ports hall.ports⟩

theorem jammed (hjam : rep.latch = .jammed) (hstate : (s.dock d).state ≠ .faulted .jammed) :
    Replies s t d sent rep Dock.toJammed ∧ (NoLinkNotice (s.dock d) rep →
      Notified s t s.free (.dock d) (.latchJam (s.dock d).tag .node none)) :=
  h.noted (fun _ => rfl) (by rw [State.dockReply_jammed _ hjam, State.jamDock_eq (by rwa [h.state]), h.tag])
    (.updDock w d Dock.toJammed) nofun

theorem faulted_stays (hstays : (s.dock d).state = .faulted .jammed ∧ rep.latch = .jammed ∨
      ((s.dock d).state = .faulted .jammed ∨ (s.dock d).state = .faulted .reader) ∧ rep.latch ≠ .jammed ∧
        (rep.readerFault = true ∨ rep.bike = true ∧ rep.latch = .unlatched)) :
    Replies s t d sent rep id ∧ (NoLinkNotice (s.dock d) rep → SamePool s t) := by
  refine h.set (v' := w) (fun _ => rfl) ?_ (.refl w d) ?_
  · rcases hstays with ⟨hstate, hjam⟩ | ⟨hstate, hjam, hfault⟩
    · rw [State.dockReply_jammed _ hjam, State.jamDock_again (h.state.trans hstate)]
    · have hkeep : (rep.readerFault || (rep.bike && decide (rep.latch = .unlatched))) = true := by
        rcases hfault with hf | ⟨hb, hl⟩
        · rw [hf, Bool.true_or]
        · rw [hb, hl, decide_eq_true rfl, Bool.and_self, Bool.or_true]
      rcases hstate with hstate | hstate <;>
        rw [State.dockReply_faulted _ hjam (h.state.trans hstate), if_pos hkeep]
  · rw [id, h.state]
    rcases hstays with ⟨hstate, -⟩ | ⟨hstate | hstate, -⟩ <;> rw [hstate] <;> nofun

theorem readerFaulted (hjam : rep.latch ≠ .jammed) (hfault : rep.readerFault = true)
    (hstate : (s.dock d).state = .unknown ∨ (s.dock d).state = .empty ∨ (s.dock d).state = .docked) :
    Replies s t d sent rep (fun x => { x with state := .faulted .reader }) ∧ (NoLinkNotice (s.dock d) rep →
      Notified s t s.free (.dock d) (.readerFault (s.dock d).tag)) :=
  h.noted (fun _ => rfl)
    (by rw [State.dockReply_readerFault _ hjam hfault (by rwa [h.state]), State.readerFaultDock, h.tag])
    (.updDock w d (fun x => { x with state := .faulted .reader })) nofun

section
variable (hfaulted : (s.dock d).state = .faulted .jammed ∨ (s.dock d).state = .faulted .reader)
  (hjam : rep.latch ≠ .jammed) (hreader : rep.readerFault = false)
include hfaulted hjam hreader

theorem clears (hlatch : rep.bike = true → rep.latch = .locked) :
    w.dockReply d rep (decide (sent = .closeCmd)) = w.clearFault d rep := by
  have hclear : (rep.readerFault || (rep.bike && decide (rep.latch = .unlatched))) = false := by
    rw [hreader, Bool.false_or]
    cases hbike : rep.bike
    · rfl
    · rw [hlatch hbike]
      rfl
  rcases hfaulted with hstate | hstate <;>
    rw [State.dockReply_faulted _ hjam (h.state.trans hstate), if_neg (by rw [hclear]; exact Bool.false_ne_true)]

theorem clears_empty (hbike : rep.bike = false) (htag : (s.dock d).tag = 0#32) :
    Replies s t d sent rep Dock.toEmpty ∧ (NoLinkNotice (s.dock d) rep → SamePool s t) := by
  refine h.set (fun _ => rfl) ?_ (.updDock w d Dock.toEmpty) nofun
  rw [h.clears hfaulted hjam hreader (fun hb => absurd (hbike.symm.trans hb) Bool.false_ne_true), State.clearFault,
    if_neg (by rw [hbike]; exact Bool.false_ne_true), if_pos (h.tag.trans htag)]

theorem clears_gone (hbike : rep.bike = false) (htag : (s.dock d).tag ≠ 0#32) :
    Replies s t d sent rep Dock.toEmpty ∧ (NoLinkNotice (s.dock d) rep →
      Notified s t s.free (.dock d) (.unauthRemoval (s.dock d).tag none)) := by
  refine h.noted (fun _ => rfl) ?_ (.updDock w d Dock.toEmpty) nofun
  rw [h.clears hfaulted hjam hreader (fun hb => absurd (hbike.symm.trans hb) Bool.false_ne_true), State.clearFault,
    if_neg (by rw [hbike]; exact Bool.false_ne_true), if_neg (h.tag.symm ▸ htag), State.bikeGone, h.tag]

theorem clears_docked (hbike : rep.bike = true) (hlatch : rep.latch = .locked)
    (htag : (s.dock d).tag ≠ 0#32 ∨ rep.tag = 0#32) :
    Replies s t d sent rep (fun x => retagged s { x with state := .docked } rep.tag) ∧
    (NoLinkNotice (s.dock d) rep → SamePool s t) := by
  have hdocked := DockSet.updDock w d (fun x => { x with state := .docked })
  have htag' : ((w.updDock d (fun x => { x with state := .docked })).dock d).tag ≠ 0#32 ∨ rep.tag = 0#32 := by
    rw [hdocked.dock]
    exact h.tag ▸ htag
  have hset := hdocked.trans (.retag htag')
  rw [hdocked.dock, retagged_congr (t := w.updDock d _) h.minute] at hset
  refine h.set (fun _ => retagged_ack _ _ _) ?_ hset (by rw [retagged_state]; nofun)
  rw [h.clears hfaulted hjam hreader (fun _ => hlatch), State.clearFault, if_pos hbike]

end

theorem faults_kept (hcase : rep.latch = .jammed ∨ rep.readerFault = true ∧
      ((s.dock d).state = .unknown ∨ (s.dock d).state = .empty ∨ (s.dock d).state = .docked) ∨
      ((s.dock d).state = .faulted .jammed ∨ (s.dock d).state = .faulted .reader) ∧ ¬ ReturnSeen (s.dock d) rep) :
    AtDock s t d := by
  by_cases hjam : rep.latch = .jammed
  · by_cases hstate : (s.dock d).state = .faulted .jammed
    · exact (h.faulted_stays (.inl ⟨hstate, hjam⟩)).1.kept
    · exact (h.jammed hjam hstate).1.kept
  rcases hcase with hjammed | ⟨hfault, hstate⟩ | ⟨hfaulted, hnot⟩
  · exact absurd hjammed hjam
  · exact (h.readerFaulted hjam hfault hstate).1.kept
  · cases hreader : rep.readerFault
    · cases hbike : rep.bike
      · by_cases htag : (s.dock d).tag = 0#32
        · exact (h.clears_empty hfaulted hjam hreader hbike htag).1.kept
        · exact (h.clears_gone hfaulted hjam hreader hbike htag).1.kept
      · cases hlatch : rep.latch with
        | jammed => exact absurd hlatch hjam
        | unlatched => exact (h.faulted_stays (.inr ⟨hfaulted, hjam, .inr ⟨hbike, hlatch⟩⟩)).1.kept
        | locked =>
          have htag := tagKnown_of_not_returnSeen hnot hbike hlatch (fun hr => absurd (hreader.symm.trans hr) Bool.false_ne_true)
            (.inr (.inr hfaulted))
          exact (h.clears_docked hfaulted hjam hreader hbike hlatch htag).1.kept
    · exact (h.faulted_stays (.inr ⟨hfaulted, hjam, .inl hreader⟩)).1.kept

end Unbound

/-- The tag of a reply is stored after what every reply writes, or before it. -/
theorem retagged_docked (s : State) (x : Dock) (rep : StatusReply) (a : Byte) (p : Pending) :
    retagged s { replied x rep a p with state := .docked } rep.tag =
      { replied (retagged s x rep.tag) rep a p with state := .docked } := by
  unfold retagged replied
  dsimp only
  split <;> rfl

end Sys2Proof.Machine

namespace Sys2Proof.Proofs

open Sys2Proof.Machine

/-- Settles O36: a jam, a reader fault, a fault that stays and a fault that clears are the ways of a reply at such a
dock. -/
theorem dockFaults : Obligations.DockFaults := by
  constructor
  · intro s l x r e rep d hdue _ hr he hjam
    obtain ⟨u, t, before, hexec, hhandled⟩ := hdue.handled rep
    obtain ⟨-, hd, -⟩ := State.rideAt_some hr
    change Handled s u t d x.cmd rep before at hhandled
    clear_value d
    subst hd
    exact ⟨t, hexec, hhandled.jammed hr he hjam⟩
  · intro s l x rep d hdue hnone hout pending faulted clear
    obtain ⟨u, t, before, hexec, hhandled⟩ := hdue.handled rep
    have hw := hhandled.unbound hnone
    change Unbound s _ t d x.cmd rep at hw
    generalize u.linkNotices (dockIx l x.addr) before rep = w at hw
    obtain ⟨hbase, hports⟩ := hw.frame
    refine ⟨t, hexec, hbase, hports, fun hcase => ?_, fun hjam hstate => ?_, fun hjam hfault hstate => ?_,
      fun hstays => ?_, fun ⟨hfaulted, hjam, hreader⟩ hbike => ?_, fun ⟨hfaulted, hjam, hreader⟩ hbike hlatch htag => ?_⟩
    · have hat := hw.faults_kept hcase
      exact ⟨hat.docks, hat.grantsStand, hat.rides, hat.creds, hat.listK⟩
    · obtain ⟨hreplies, hnotice⟩ := hw.jammed hjam hstate
      have hdock := hreplies.dock hout
      rw [Dock.toJammed_eq] at hdock
      exact ⟨hdock, hnotice⟩
    · obtain ⟨hreplies, hnotice⟩ := hw.readerFaulted hjam hfault hstate
      exact ⟨hreplies.dock hout, hnotice⟩
    · obtain ⟨hreplies, hpool⟩ := hw.faulted_stays hstays
      exact ⟨hreplies.dock hout, hpool⟩
    · by_cases htag : (s.dock d).tag = 0#32
      · obtain ⟨hreplies, hpool⟩ := hw.clears_empty hfaulted hjam hreader hbike htag
        exact ⟨hreplies.dock hout, fun hquiet _ => hpool hquiet, fun _ hreal => absurd htag hreal⟩
      · obtain ⟨hreplies, hnotice⟩ := hw.clears_gone hfaulted hjam hreader hbike htag
        exact ⟨hreplies.dock hout, fun _ hzero => absurd hzero htag, fun hquiet _ => hnotice hquiet⟩
    · obtain ⟨hreplies, hpool⟩ := hw.clears_docked hfaulted hjam hreader hbike hlatch htag
      exact ⟨(hreplies.dock hout).trans (retagged_docked s (s.dock d) rep _ _), hpool⟩

end Sys2Proof.Proofs
end

section
/-! PROOFS. How a RELEASING or RELATCHING dock is settled by a reply that shows its bike, a relatch without a ride, and the
take-up (R69, R70, R72, R73, R94, R96). -/

namespace Sys2Proof.Machine

/-! ## The attempts of a relatch (R73, R96) -/

section
variable {s : State} {d : DockIx} {c : Bool}

theorem State.relatchAttempt_counts (h : c = true → (s.dock d).relatch < 2) (n : Option RideNo) :
    s.relatchAttempt d c n = if c then s.updDock d (fun x => { x with relatch := x.relatch + 1 }) else s := by
  unfold State.relatchAttempt
  split
  · next hc => rw [if_neg (show ¬ Config.relatchLimit ≤ (s.dock d).relatch + 1 by have := h hc; unfold Config.relatchLimit; omega)]
  · rfl

theorem State.relatchAttempt_third (h : 2 ≤ (s.dock d).relatch) (n : Option RideNo) :
    s.relatchAttempt d true n = s.jamDock d .relatch n := by
  unfold State.relatchAttempt
  rw [if_pos rfl, if_pos (show Config.relatchLimit ≤ (s.dock d).relatch + 1 by unfold Config.relatchLimit; omega)]

end

/-- An attempt is counted, or the record stands. -/
def Dock.attempted (c : Bool) (x : Dock) : Dock := if c then { x with relatch := x.relatch + 1 } else x

theorem DockSet.attempted {s : State} {d : DockIx} (c : Bool) :
    DockSet s (if c then s.updDock d (fun x => { x with relatch := x.relatch + 1 }) else s) d
      ((s.dock d).attempted c) := by
  cases c
  · exact .refl s d
  · exact .updDock s d (fun x => { x with relatch := x.relatch + 1 })

theorem Dock.attempted_ack (c : Bool) (x : Dock) : (x.attempted c).ack = x.ack := by cases c <;> rfl
theorem Dock.attempted_state (c : Bool) (x : Dock) : (x.attempted c).state = x.state := by cases c <;> rfl

theorem Dock.attempted_replied (c : Prop) [Decidable c] (x : Dock) (rep : StatusReply) (a : Byte) (p : Pending) :
    (replied x rep a p).attempted (decide c) =
      { replied x rep a p with relatch := if c then x.relatch + 1 else x.relatch } := by
  unfold Dock.attempted
  by_cases h : c
  · rw [if_pos (decide_eq_true h), if_pos h]
    rfl
  · rw [if_neg (by rw [decide_eq_false h]; exact Bool.false_ne_true), if_neg h]
    rfl

/-! ## The replies that show the bike of a RELEASING or RELATCHING ride (R70, R72, R73) -/

section
variable {s u t : State} {r : Ride} {sent : Pending} {rep : StatusReply} {before : Dock}
  (h : Handled s u t r.dock sent rep before) (hr : s.rideAt r.dock = some r)
  (hstate : r.state = .releasing ∨ r.state = .relatching) (hbike : rep.bike = true)
include h hr hstate hbike

/-- Latched again: the ride is cancelled with NOT_TAKEN, and its dock DOCKED (R70, R72). -/
theorem Handled.relatched (htag : (s.dock r.dock).tag ≠ 0#32) (hlatch : rep.latch = .locked) :
    ((∀ e, s.findCred r.cred = some e → RideEnded s t r e .notTaken) ∧ DocksKept s t [r.dock] ∧ SameBase s t ∧
      PortsKept s t) ∧
    t.dock r.dock = { replied (retagged s (s.dock r.dock) rep.tag) rep (t.dock r.dock).ack
      (withoutLatch (clearedPending sent (s.dock r.dock).pending)) with state := .docked, relatch := 0 } ∧
    (NoLinkNotice (s.dock r.dock) rep → t.free = (cancelPool s.free s.listK r .notTaken).1 ∧ t.listN = s.listN) := by
  have hr' := Ride.settled_eq r r.dock .delivered
  obtain ⟨w, hw⟩ := h.ousted hr (o := .notTaken) (by
    unfold cancelCause
    rw [hlatch, hbike, hr']
    rcases hstate with hs | hs <;> rw [hs] <;> rfl)
  have hv : w.afterCancel r.dock (r.settled r.dock .delivered) rep = w.retag r.dock rep.tag := by
    unfold State.afterCancel
    rw [hlatch, hbike]
    rfl
  obtain ⟨hwhole, hdock, hpool⟩ := hw.set hv (.retag (.inl (hw.tag ▸ htag)))
    (by rw [retagged_state, hw.state]; nofun)
  refine ⟨hwhole, ?_, hpool⟩
  have hack : (t.dock r.dock).ack = (w.dock r.dock).ack := by rw [hdock, retagged_ack]
  rw [hack, hdock, retagged_congr hw.minute, hw.dock]
  unfold retagged replied
  dsimp only
  split <;> rfl

omit hstate in
/-- The third attempt: the ride is cancelled with LATCH_FAULT, and its dock FAULTED(JAMMED) (R73). -/
theorem Handled.relatchFailed (hlatch : rep.latch = .unlatched) (hrelatching : r.state = .relatching)
    (hclose : sent = .closeCmd) (hthird : 2 ≤ (s.dock r.dock).relatch) :
    ((∀ e, s.findCred r.cred = some e → RideEnded s t r e .latchFault) ∧ DocksKept s t [r.dock] ∧ SameBase s t ∧
      PortsKept s t) ∧
    t.dock r.dock = { replied (s.dock r.dock) rep (t.dock r.dock).ack
      (withoutLatch (clearedPending sent (s.dock r.dock).pending)) with state := .faulted .jammed, relatch := 0 } ∧
    (NoLinkNotice (s.dock r.dock) rep → Notified s t (cancelPool s.free s.listK r .latchFault).1 (.dock r.dock)
      (.latchJam (s.dock r.dock).tag .relatch (some r.number))) := by
  have hr' := Ride.settled_eq r r.dock .delivered
  obtain ⟨w, hw⟩ := h.ousted hr (o := .latchFault) (by
    have hlimit : Config.relatchLimit ≤ (s.dock r.dock).relatch + 1 := by unfold Config.relatchLimit; omega
    unfold cancelCause
    rw [hlatch, hbike, hr', hrelatching, hclose]
    simp [hlimit])
  have hv : w.afterCancel r.dock (r.settled r.dock .delivered) rep =
      (w.updDock r.dock Dock.toJammed).notice (.dock r.dock) (.latchJam (s.dock r.dock).tag .relatch (some r.number)) := by
    rw [← hw.tag, ← Ride.settled_number r r.dock .delivered, ← State.jamDock_eq (by rw [hw.state]; nofun)]
    unfold State.afterCancel
    rw [hlatch, hbike]
    rfl
  obtain ⟨hwhole, hdock, hnotice⟩ := hw.noted hv (.updDock w r.dock Dock.toJammed) nofun
  refine ⟨hwhole, ?_, hnotice⟩
  rw [hdock, hw.dock, Dock.toJammed_eq]
  unfold replied
  dsimp only
  cases clearedPending sent (s.dock r.dock).pending <;> rfl

/-- The latch still open: the ride goes on, an attempt of its relatch counted (R70, R72, R73). -/
theorem Handled.goesOn (hdock : some (s.dock r.dock).state = r.state.dockState) (hlatch : rep.latch = .unlatched)
    (hearly : ¬ (r.state = .relatching ∧ sent = .closeCmd) ∨ (s.dock r.dock).relatch < 2) :
    Replies s t r.dock sent rep (Dock.attempted (decide (r.state = .relatching ∧ sent = .closeCmd))) ∧
    (NoLinkNotice (s.dock r.dock) rep → SamePool s t) := by
  have hr' := Ride.settled_eq r r.dock .delivered
  have hq : (s.dock r.dock).state ≠ .queued := by
    intro hq
    rw [hq] at hdock
    rcases hstate with hs | hs <;> rw [hs] at hdock <;> exact absurd hdock (by decide)
  have hearly' : r.state = .relatching → sent = .closeCmd → (s.dock r.dock).relatch < 2 :=
    fun hs hclose => hearly.resolve_left (fun hnot => hnot ⟨hs, hclose⟩)
  have hw := h.bound hr (by
    unfold cancelCause
    rw [hlatch, hr']
    rcases hstate with hs | hs
    · rw [hs]
    · rw [hs]
      refine if_neg (fun hall => ?_)
      obtain ⟨hclose, hlimit⟩ := Bool.and_eq_true_iff.mp hall
      have hlt := hearly' hs (of_decide_eq_true (Bool.and_eq_true_iff.mp hclose).2)
      have hle : 2 + 1 ≤ (s.dock r.dock).relatch + 1 := of_decide_eq_true hlimit
      omega)
  generalize u.linkNotices r.dock before rep = w at hw
  refine hw.set (Dock.attempted_ack _) ?_ (.attempted _) (by rw [Dock.attempted_state, hw.state]; exact hq)
  unfold State.rideReply
  rw [hr']
  rcases hstate with hs | hs <;> rw [hs] <;> dsimp only <;> rw [if_pos hbike]
  · rfl
  · rw [State.relatchAttempt_counts (fun hclose => hw.attempts.symm ▸ hearly' hs (of_decide_eq_true hclose))]
    simp

end

/-! ## The replies of a RELATCHING dock without a ride (R94, R96) -/

theorem Pending.dropClose_eq (p : Pending) : p.dropClose = if p = .closeCmd then .none else p := by
  cases p <;> rfl

/-- A RELATCHING dock becomes DOCKED: CLOSE is pending no longer, relatch attempts 0 (R96). -/
def Dock.toLatched (x : Dock) : Dock := { x with state := .docked, relatch := 0, pending := x.pending.dropClose }

theorem State.dockReply_relatching {s : State} {d : DockIx} {rep : StatusReply} (c : Bool) (hjam : rep.latch ≠ .jammed)
    (hstate : (s.dock d).state = .relatching) : s.dockReply d rep c =
      if !rep.bike then s.updDock d Dock.toTaken
      else if rep.latch = .locked then (s.updDock d Dock.toLatched).retag d rep.tag
      else s.relatchAttempt d c none := by
  rw [State.dockReply_plain c hjam (fun _ => by rw [hstate]; exact ⟨nofun, nofun, nofun⟩)]
  unfold State.plainReply
  rw [hstate]
  rfl

namespace Unbound

variable {s w t : State} {d : DockIx} {sent : Pending} {rep : StatusReply} (h : Unbound s w t d sent rep)
  (hstate : (s.dock d).state = .relatching)
include h hstate

theorem relatch_gone (hbike : rep.bike = false) (hjam : rep.latch ≠ .jammed) :
    Replies s t d sent rep Dock.toTaken ∧ (NoLinkNotice (s.dock d) rep → SamePool s t) := by
  refine h.set (fun _ => rfl) ?_ (.updDock w d Dock.toTaken) nofun
  rw [State.dockReply_relatching _ hjam (h.state.trans hstate), hbike]
  rfl

theorem relatch_docked (hbike : rep.bike = true) (hlatch : rep.latch = .locked)
    (htag : (s.dock d).tag ≠ 0#32 ∨ rep.tag = 0#32) :
    Replies s t d sent rep (fun x => retagged s x.toLatched rep.tag) ∧
    (NoLinkNotice (s.dock d) rep → SamePool s t) := by
  have hdocked := DockSet.updDock w d Dock.toLatched
  have htag' : ((w.updDock d Dock.toLatched).dock d).tag ≠ 0#32 ∨ rep.tag = 0#32 := by
    rw [hdocked.dock]
    exact h.tag ▸ htag
  have hset := hdocked.trans (.retag htag')
  rw [hdocked.dock, retagged_congr (t := w.updDock d _) h.minute] at hset
  refine h.set (fun _ => retagged_ack _ _ _) ?_ hset (by rw [retagged_state]; nofun)
  rw [State.dockReply_relatching _ (by rw [hlatch]; nofun) (h.state.trans hstate), hbike, hlatch]
  rfl

theorem relatch_attempt (hbike : rep.bike = true) (hlatch : rep.latch = .unlatched)
    (hearly : sent = .closeCmd → (s.dock d).relatch < 2) :
    Replies s t d sent rep (Dock.attempted (decide (sent = .closeCmd))) ∧
    (NoLinkNotice (s.dock d) rep → SamePool s t) := by
  refine h.set (Dock.attempted_ack _) ?_ (.attempted _) (by rw [Dock.attempted_state, h.state, hstate]; nofun)
  rw [State.dockReply_relatching _ (by rw [hlatch]; nofun) (h.state.trans hstate), hbike, hlatch,
    ← State.relatchAttempt_counts (fun hclose => h.attempts.symm ▸ hearly (of_decide_eq_true hclose)) none]
  rfl

theorem relatch_third (hbike : rep.bike = true) (hlatch : rep.latch = .unlatched) (hclose : sent = .closeCmd)
    (hthird : 2 ≤ (s.dock d).relatch) :
    Replies s t d sent rep Dock.toJammed ∧ (NoLinkNotice (s.dock d) rep →
      Notified s t s.free (.dock d) (.latchJam (s.dock d).tag .relatch none)) := by
  refine h.noted (fun _ => rfl) ?_ (.updDock w d Dock.toJammed) nofun
  rw [← h.tag, ← State.jamDock_eq (by rw [h.state, hstate]; nofun),
    ← State.relatchAttempt_third (h.attempts.symm ▸ hthird),
    State.dockReply_relatching _ (by rw [hlatch]; nofun) (h.state.trans hstate), hbike, hlatch, hclose]
  rfl

theorem relatch_kept (hnot : ¬ ReturnSeen (s.dock d) rep) : AtDock s t d := by
  by_cases hjam : rep.latch = .jammed
  · exact (h.jammed hjam (by rw [hstate]; nofun)).1.kept
  cases hbike : rep.bike
  · exact (h.relatch_gone hstate hbike hjam).1.kept
  cases hlatch : rep.latch with
  | jammed => exact absurd hlatch hjam
  | locked =>
    have htag := tagKnown_of_not_returnSeen hnot hbike hlatch (fun _ => hstate) (.inr (.inl hstate))
    exact (h.relatch_docked hstate hbike hlatch htag).1.kept
  | unlatched =>
    by_cases hthird : sent = .closeCmd ∧ 2 ≤ (s.dock d).relatch
    · exact (h.relatch_third hstate hbike hlatch hthird.1 hthird.2).1.kept
    · refine (h.relatch_attempt hstate hbike hlatch (fun hclose => ?_)).1.kept
      exact Nat.lt_of_not_le (fun hle => hthird ⟨hclose, hle⟩)

end Unbound

/-- The tag of a reply is stored after what every reply writes, or before it. -/
theorem retagged_latched (s : State) (x : Dock) (rep : StatusReply) (a : Byte) (p : Pending) :
    retagged s (replied x rep a p).toLatched rep.tag =
      { replied (retagged s x rep.tag) rep a (if p = .closeCmd then .none else p) with state := .docked, relatch := 0 } := by
  rw [← Pending.dropClose_eq]
  unfold retagged replied Dock.toLatched
  dsimp only
  split <;> rfl

theorem Dock.toTaken_replied (x : Dock) (rep : StatusReply) (a : Byte) (p : Pending) :
    (replied x rep a p).toTaken = { replied x rep a (if p = .closeCmd then .none else p) with
      state := .empty, tag := 0#32, since := 0#16, relatch := 0 } := by
  rw [← Pending.dropClose_eq]
  rfl

end Sys2Proof.Machine

namespace Sys2Proof.Proofs

open Sys2Proof.Machine

/-- Settles O32: with a ride, the bike latched again, a relatch that goes on and its third attempt; without one, the same
and the bike gone. -/
theorem relatchResolves : Obligations.RelatchResolves := by
  constructor
  · intro s l x r e rep d hdue _ hr hstate hdock he hout htag hbike counted pending
    obtain ⟨u, t, before, hexec, hhandled⟩ := hdue.handled rep
    obtain ⟨-, hd, -⟩ := State.rideAt_some hr
    change Handled s u t d x.cmd rep before at hhandled
    clear_value d
    subst hd
    cases hlatch : rep.latch with
    | jammed =>
      obtain ⟨-, -, -, hdocks, hbase, hports⟩ := hhandled.jammed hr he hlatch
      exact ⟨t, hexec, hdocks, hbase, hports, nofun, nofun, nofun⟩
    | locked =>
      obtain ⟨⟨hends, hdocks, hbase, hports⟩, hset, hpool⟩ := hhandled.relatched hr hstate hbike htag hlatch
      exact ⟨t, hexec, hdocks, hbase, hports, fun _ => ⟨hends e he, hset, hpool⟩, nofun, nofun⟩
    | unlatched =>
      by_cases hthird : counted ∧ 2 ≤ (s.dock r.dock).relatch
      · obtain ⟨hcounted, hlate⟩ := id hthird
        obtain ⟨⟨hends, hdocks, hbase, hports⟩, hset, hnotice⟩ :=
          hhandled.relatchFailed hr hbike hlatch hcounted.1 hcounted.2 hlate
        exact ⟨t, hexec, hdocks, hbase, hports, nofun,
          fun _ hearly => absurd hearly (not_or.mpr ⟨not_not.mpr hcounted, Nat.not_lt.mpr hlate⟩),
          fun _ _ _ => ⟨hends e he, hset, hnotice⟩⟩
      · have hearly : ¬ counted ∨ (s.dock r.dock).relatch < 2 :=
          (Decidable.not_and_iff_not_or_not.mp hthird).imp_right Nat.lt_of_not_le
        obtain ⟨hreplies, hpool⟩ := hhandled.goesOn hr hstate hbike hdock hlatch hearly
        have hat := hreplies.kept
        exact ⟨t, hexec, hat.docks, hat.base, hat.ports, nofun,
          fun _ _ => ⟨hat.rides, hat.creds, hat.grantsStand,
            (hreplies.dock hout).trans (Dock.attempted_replied _ _ _ _ _), hpool⟩,
          fun _ hcounted hlate => absurd ⟨hcounted, hlate⟩ hthird⟩
  · intro s l x rep d hdue hnone hstate hout hnot pending noClose
    obtain ⟨u, t, before, hexec, hhandled⟩ := hdue.handled rep
    have hw := hhandled.unbound hnone
    change Unbound s _ t d x.cmd rep at hw
    generalize u.linkNotices (dockIx l x.addr) before rep = w at hw
    have hat := hw.relatch_kept hstate hnot
    refine ⟨t, hexec, hat.docks, hat.rides, hat.creds, hat.base, hat.ports, hat.listK, hat.grantsStand,
      fun hbike hjam => ?_, fun hbike hlatch => ?_, fun hbike hlatch hearly => ?_, fun hbike hlatch hclose hthird => ?_⟩
    · obtain ⟨hreplies, hpool⟩ := hw.relatch_gone hstate hbike hjam
      exact ⟨(hreplies.dock hout).trans (Dock.toTaken_replied _ _ _ _), hpool⟩
    · have htag := tagKnown_of_not_returnSeen hnot hbike hlatch (fun _ => hstate) (.inr (.inl hstate))
      obtain ⟨hreplies, hpool⟩ := hw.relatch_docked hstate hbike hlatch htag
      exact ⟨(hreplies.dock hout).trans (retagged_latched _ _ _ _ _), hpool⟩
    · obtain ⟨hreplies, hpool⟩ := hw.relatch_attempt hstate hbike hlatch (fun hclose => hearly.resolve_left (fun hne => hne hclose))
      exact ⟨(hreplies.dock hout).trans (Dock.attempted_replied _ _ _ _ _), hpool⟩
    · obtain ⟨hreplies, hnotice⟩ := hw.relatch_third hstate hbike hlatch hclose hthird
      have hdock := hreplies.dock hout
      rw [Dock.toJammed_eq] at hdock
      exact ⟨hdock, hnotice⟩

end Sys2Proof.Proofs
end

section
/-! PROOFS. The take-up of a RELEASING or RELATCHING ride (R69, R72, R105, R108, R110, R147). -/

namespace Sys2Proof.Machine

/-- A dock that is out of the release queue has left it. -/
theorem LeftQueue.of_out {s w : State} {d : DockIx} (h : AgreeBut s w d) (hout : ∀ y ∈ s.releaseQ, y.dock ≠ d) :
    LeftQueue s w d := by
  refine ⟨h.settings, h.runs, h.releaseQ.trans ?_, h.grants, h.others⟩
  exact (List.filter_eq_self.mpr (fun y hy => decide_eq_true (hout y hy))).symm

/-- What the turn's end leaves after a take-up at a dock that had left the queue. -/
structure TookUp (s t : State) (d : DockIx) (sent : Pending) (rep : StatusReply) (r : Ride) (late : Bool) : Prop where
  ride   : t.findRide r.number = some { r.settled d .delivered with
    state := .opened, takeUp := some s.minute, late := r.late || late, windowLeft := none }
  kept   : ReplyKept s t d r.number
  dock   : t.dock d = (replied (s.dock d) rep (t.dock d).ack (clearedPending sent (s.dock d).pending)).toTaken
  grant  : d ∉ t.grants
  moved  : GrantsMoved s t [d] [d]
  posted : 3 ≤ s.free.length ∨ s.listK ≠ [] → PostedK t (.outcome r.number r.cred d .taken)
  pool   : NoLinkNotice (s.dock d) rep →
    t.listK = (postPool s.free s.listK (.outcome r.number r.cred d .taken)).2 ∧
    Notified s t (postPool s.free s.listK (.outcome r.number r.cred d .taken)).1 (.dock d)
      (.rideStarted r.number r.cred late)
  creds  : t.creds = s.creds

theorem cancelCause_gone {r : Ride} {rep : StatusReply} (hstate : r.state = .releasing ∨ r.state = .relatching)
    (hbike : rep.bike = false) (hjam : rep.latch ≠ .jammed) (attempts : Nat) (c : Bool) :
    cancelCause r rep attempts c = none := by
  unfold cancelCause
  cases hlatch : rep.latch with
  | jammed => exact absurd hlatch hjam
  | locked => rcases hstate with hs | hs <;> rw [hs, hbike] <;> rfl
  | unlatched =>
    rw [hbike]
    rcases hstate with hs | hs
    · rw [hs]
    · rw [hs]
      rfl

theorem State.rideReply_gone {s : State} {d : DockIx} {r : Ride} {rep : StatusReply}
    (hstate : r.state = .releasing ∨ r.state = .relatching) (hbike : rep.bike = false) (c : Bool) :
    s.rideReply d r rep c = s.takeUp r (decide (r.state = .relatching)) := by
  unfold State.rideReply
  rcases hstate with hs | hs <;> rw [hs, hbike] <;> rfl

/-- The bike gone from the dock of a RELEASING or RELATCHING ride: the ride is taken up (R69, R72). -/
theorem Handled.tookUp {s u t : State} {r : Ride} {sent : Pending} {rep : StatusReply} {before : Dock}
    (h : Handled s u t r.dock sent rep before) (hsorted : RidesSorted s) (hr : s.rideAt r.dock = some r)
    (hstate : r.state = .releasing ∨ r.state = .relatching) (hout : ∀ y ∈ s.releaseQ, y.dock ≠ r.dock)
    (hbike : rep.bike = false) (hjam : rep.latch ≠ .jammed) :
    TookUp s t r.dock sent rep r (decide (r.state = .relatching)) := by
  have hr' := Ride.settled_eq r r.dock .delivered
  have hstate' : (r.settled r.dock .delivered).state = .releasing ∨ (r.settled r.dock .delivered).state = .relatching := by
    rw [hr']
    exact hstate
  have hw := h.bound hr (cancelCause_gone hstate' hbike hjam _ _)
  have hlistK := u.linkNotices_listK r.dock before rep
  have hready : Ready s (u.linkNotices r.dock before rep) r.dock sent rep r :=
    h.heard.ready hsorted hr (u.linkNotices_pool r.dock before rep)
      (fun hquiet => hquiet.linkNotices h.link h.power u r.dock)
  rw [State.rideReply_gone hstate' hbike] at hw
  have hnumber : (r.settled r.dock .delivered).number = r.number := Ride.settled_number r r.dock _
  have hcred : (r.settled r.dock .delivered).cred = r.cred := by rw [hr']
  have hdock : (r.settled r.dock .delivered).dock = r.dock := by rw [hr']
  have hlate : (r.settled r.dock .delivered).late = r.late := by rw [hr']
  have hst : (r.settled r.dock .delivered).state = r.state := by rw [hr']
  generalize u.linkNotices r.dock before rep = w at hw hready hlistK
  have hleft := LeftQueue.of_out hready.agree hout
  have hspec := w.takeUp_spec (r.settled r.dock .delivered) (decide ((r.settled r.dock .delivered).state = .relatching))
  rw [hst] at hw hspec
  have htaken := hspec.dock (hdock.symm ▸ hleft.out)
  have hgrant := hspec.grant (hdock.symm ▸ hleft.out)
  have hposted := hspec.posted
  rw [hdock] at htaken hgrant hposted
  rw [hnumber, hcred] at hposted
  have k := hw.settled rfl (by rw [htaken]; nofun)
  obtain ⟨hkept, -, hgrant'⟩ := k.idle r.dock (State.takeUp_out hleft.out _ _)
  refine ⟨?_, ?_, ?_, hgrant' hgrant, fun _ hissued => ?_, fun hroom => ?_, fun hquiet => ?_,
    (k.creds.trans hspec.creds).trans hready.creds⟩
  · have hfind := w.takeUp_findRide (r.settled r.dock .delivered) (decide (r.state = .relatching))
    rw [hnumber, hready.ride, Option.map_some, hready.kept.base.1, hlate] at hfind
    exact (k.findRide _).trans hfind
  · exact (hready.kept.trans (.takeUp w hdock hnumber _)).trans (.closed k)
  · rw [hkept, htaken, hready.dock]
    rfl
  · obtain ⟨hmoved, hissued'⟩ := LeftQueue.takeUp (r := r.settled r.dock .delivered) (hdock.symm ▸ hleft) hissued
      (decide (r.state = .relatching))
    rw [hdock] at hmoved
    exact (AgreeBut.refl s r.dock).moved (.closed k hissued') hmoved
  · obtain ⟨n, hn⟩ := hposted (hroom.imp (fun hthree hnone => by
      have := hw.room
      rw [hnone] at this
      simp at this
      omega) (fun hk => by rwa [hlistK, h.heard.pool.2.2]))
    exact ⟨n, by rw [k.pool.2.2]; exact hn⟩
  · obtain ⟨hfree, hlistN, hlistK⟩ := hready.pool hquiet
    obtain ⟨hposts, hnotice⟩ := w.takeUp_records (r.settled r.dock .delivered) (decide (r.state = .relatching))
    rw [hnumber, hcred, hdock, hfree, hlistK] at hposts hnotice
    exact ⟨k.pool.2.2.trans hposts,
      (hnotice.seen hready.kept.base hready.kept.ports hlistN).carry k.pool.1 k.pool.2.1 (k.latchedN _)⟩

end Sys2Proof.Machine

namespace Sys2Proof.Proofs

open Sys2Proof.Machine

/-- Settles O30: the reply is heard, the ride taken up at its dock, and the turn closed. -/
theorem takeUp : Obligations.TakeUp := by
  intro s l x r rep d hdue hsorted hr hstate hout hbike hjam late b pending
  obtain ⟨u, t, before, hexec, hhandled⟩ := hdue.handled rep
  obtain ⟨-, hd, -⟩ := State.rideAt_some hr
  change Handled s u t d x.cmd rep before at hhandled
  clear_value d
  subst hd
  have htook := hhandled.tookUp hsorted hr hstate hout hbike hjam
  exact ⟨t, hexec, htook.ride, htook.kept.rides, htook.dock.trans (Dock.toTaken_replied _ _ _ _), htook.grant,
    htook.kept.docks, htook.moved, htook.posted, htook.pool, htook.creds, htook.kept.base, htook.kept.ports⟩

end Sys2Proof.Proofs
end

section
/-! PROOFS. A bike latched where none was known, and the replies of a DOCKED dock without a ride: FOREIGN_RETURN,
UNAUTH_REMOVAL, another tag, an open latch (R78, R79, R92 to R94, R99). -/

namespace Sys2Proof.Machine

/-! ## The bike is docked, and its return looked up (R79, R92, R94, R99) -/

/-- A dock record once a bike is docked there: CLOSE and the attempts of a relatch go with the relatch (R96). -/
def Dock.housed (x : Dock) (now : Minute) (g : BikeTag) : Dock :=
  { x with
    state := .docked, tag := g, since := now
    relatch := if x.state = .relatching then 0 else x.relatch
    pending := if x.state = .relatching then x.pending.dropClose else x.pending }

theorem Dock.housed_still {x : Dock} (h : x.state ≠ .relatching) (now : Minute) (g : BikeTag) :
    x.housed now g = { x with state := .docked, tag := g, since := now } := by
  unfold Dock.housed
  rw [if_neg h, if_neg h]

theorem Dock.housed_relatching {x : Dock} (h : x.state = .relatching) (now : Minute) (g : BikeTag) :
    x.housed now g = { x.toLatched with tag := g, since := now } := by
  unfold Dock.housed Dock.toLatched
  rw [if_pos h, if_pos h]

/-- A real tag in the place of tag 0 is looked up as a return (R94). -/
theorem State.retag_first {s : State} {d : DockIx} {g : BikeTag} (hzero : (s.dock d).tag = 0#32) (hg : g ≠ 0#32) :
    s.retag d g = (s.updDock d (fun x => { x with tag := g, since := s.minute })).returnBike d g := by
  unfold State.retag
  dsimp only
  rw [if_neg (by rw [hzero]; exact hg), if_pos hzero]

theorem State.updDock_updDock (s : State) (d : DockIx) (f g : Dock → Dock) :
    DockSet s ((s.updDock d f).updDock d g) d (g (f (s.dock d))) := by
  have hset := (DockSet.updDock s d f).trans (.updDock (s.updDock d f) d g)
  rwa [(DockSet.updDock s d f).dock] at hset

/-- The dock of a bike that is retagged out of tag 0, its state set before. -/
theorem State.housed_retag {s : State} {d : DockIx} {g : BikeTag} {f : Dock → Dock} (hzero : (f (s.dock d)).tag = 0#32)
    (hg : g ≠ 0#32) (hf : { f (s.dock d) with tag := g, since := s.minute } = (s.dock d).housed s.minute g) :
    ∃ v, (s.updDock d f).retag d g = v.returnBike d g ∧ DockSet s v d ((s.dock d).housed s.minute g) ∧
      v.rides = s.rides ∧ v.releaseQ = s.releaseQ := by
  refine ⟨(s.updDock d f).updDock d (fun x => { x with tag := g, since := s.minute }), ?_, ?_, rfl, rfl⟩
  · refine State.retag_first ?_ hg
    rw [State.dock_updDock, if_pos rfl]
    exact hzero
  · have hset := s.updDock_updDock d f (fun x => { x with tag := g, since := s.minute })
    rwa [hf] at hset

/-- The station v in which a bike has been docked at d; its return is still to be looked up. -/
structure Housed (s v t : State) (d : DockIx) (sent : Pending) (rep : StatusReply) : Prop where
  kept  : AtDock s v d
  dock  : v.dock d =
    (replied (s.dock d) rep (v.dock d).ack (clearedPending sent (s.dock d).pending)).housed s.minute rep.tag
  pool  : NoLinkNotice (s.dock d) rep → SamePool s v
  rides : v.rides = s.rides.map (fun r => r.settled d .delivered)
  queue : v.releaseQ = s.releaseQ
  runs  : TurnClosed ((v.returnBike d rep.tag).openAfterShow d) t

/-- A return that is seen docks the bike and looks its tag up. -/
theorem Unbound.dockReply_returns {s w t : State} {d : DockIx} {sent : Pending} {rep : StatusReply}
    (h : Unbound s w t d sent rep) (hseen : ReturnSeen (s.dock d) rep) :
    ∃ v, w.dockReply d rep (decide (sent = .closeCmd)) = v.returnBike d rep.tag ∧
      DockSet w v d ((w.dock d).housed w.minute rep.tag) ∧ v.rides = w.rides ∧ v.releaseQ = w.releaseQ := by
  obtain ⟨hbike, hlatch, hreader, hwhere⟩ := hseen
  have hjam : rep.latch ≠ .jammed := by rw [hlatch]; nofun
  have hsound : (s.dock d).state ≠ .relatching → rep.readerFault = false := fun hne => by
    cases hfault : rep.readerFault
    · rfl
    · exact absurd (hreader hfault) hne
  rcases hwhere with hempty | ⟨hzero, hreal, hdocked | hrelatching | hfaulted⟩
  · have hw : (w.dock d).state = .empty := h.state.trans hempty
    have hset := DockSet.updDock w d (fun x => { x with state := .docked, tag := rep.tag, since := w.minute })
    rw [← Dock.housed_still (x := w.dock d) (by rw [hw]; nofun)] at hset
    refine ⟨w.dockBike d rep.tag, ?_, hset, rfl, rfl⟩
    rw [State.dockReply_plain _ hjam (fun hf => absurd (hf.symm.trans (hsound (by rw [hempty]; nofun))) (by decide)),
      State.plainReply, hw, hbike, hlatch]
    rfl
  · have hw : (w.dock d).state = .docked := h.state.trans hdocked
    have hstill : { (w.dock d) with tag := rep.tag, since := w.minute } = (w.dock d).housed w.minute rep.tag := by
      rw [Dock.housed_still (by rw [hw]; nofun), ← hw]
    have hset := DockSet.updDock w d (fun x => { x with tag := rep.tag, since := w.minute })
    rw [hstill] at hset
    refine ⟨_, ?_, hset, rfl, rfl⟩
    rw [← State.retag_first (h.tag.trans hzero) hreal,
      State.dockReply_plain _ hjam (fun hf => absurd (hf.symm.trans (hsound (by rw [hdocked]; nofun))) (by decide)),
      State.plainReply, hw, hbike, hlatch]
    rfl
  · have hw : (w.dock d).state = .relatching := h.state.trans hrelatching
    rw [State.dockReply_relatching _ hjam hw, hbike, hlatch]
    exact State.housed_retag (h.tag.trans hzero) hreal (Dock.housed_relatching hw _ _).symm
  · have hne : (s.dock d).state ≠ .relatching := by rcases hfaulted with hs | hs <;> rw [hs] <;> nofun
    rw [h.clears hfaulted hjam (hsound hne) (fun _ => hlatch), State.clearFault, if_pos hbike]
    exact State.housed_retag (h.tag.trans hzero) hreal (Dock.housed_still (by rwa [h.state]) _ _).symm

theorem Unbound.housed {s w t : State} {d : DockIx} {sent : Pending} {rep : StatusReply}
    (h : Unbound s w t d sent rep) (hseen : ReturnSeen (s.dock d) rep) : ∃ v, Housed s v t d sent rep := by
  obtain ⟨v, hv, hset, hrides, hqueue⟩ := h.dockReply_returns hseen
  have hdock := hset.dock
  rw [h.minute] at hdock
  refine ⟨v, h.kept.trans hset.kept, ?_, fun hquiet => (h.pool hquiet).trans hset.pool, hrides.trans h.rides,
    hqueue.trans h.queue, hv ▸ h.runs⟩
  have hack : (v.dock d).ack = (w.dock d).ack := by
    rw [hdock]
    rfl
  rw [hack, hdock]
  exact congrArg (fun x => x.housed s.minute rep.tag) h.dock

/-- A tag is stored after what every reply writes, or before it. -/
theorem retagged_replied (s : State) (x : Dock) (rep : StatusReply) (a : Byte) (p : Pending) :
    retagged s (replied x rep a p) rep.tag = replied (retagged s x rep.tag) rep a p := by
  unfold retagged replied
  dsimp only
  split <;> rfl

/-- The end of a turn gives no other command to a dock that has one pending. -/
theorem TurnClosed.dock_pending_set {s t : State} (k : TurnClosed s t) {d : DockIx} (h : (s.dock d).pending ≠ .none) :
    t.dock d = s.dock d := by
  obtain ⟨hsame, hpending⟩ := k.docks d List.not_mem_nil
  rw [hsame, hpending.resolve_right (fun hnone => h hnone.1)]

/-- The lookup of a ride by its tag after settling. -/
theorem rideOfTag_settled {s t : State} {d : DockIx} {p : OpenProgress}
    (h : t.rides = s.rides.map (fun r => r.settled d p)) (g : BikeTag) :
    t.rideOfTag g = (s.rideOfTag g).map (fun r => r.settled d p) := by
  have hfind : (fun r : Ride => decide (r.tag = g)) ∘ (fun r : Ride => r.settled d p) =
      fun r => decide (r.tag = g) := by
    funext r
    rw [Function.comp, Ride.settled_eq]
  unfold State.rideOfTag
  rw [h, List.find?_map, hfind]

/-- What the statements say of a dock where a bike has been docked. -/
theorem Housed.dock_final {s v t : State} {d : DockIx} {sent : Pending} {rep : StatusReply}
    (h : Housed s v t d sent rep) (hsame : t.dock d = { v.dock d with pending := (t.dock d).pending })
    (hidle : (∀ y ∈ s.releaseQ, y.dock ≠ d) → t.dock d = v.dock d) :
    t.dock d = { replied (s.dock d) rep (t.dock d).ack (t.dock d).pending with
      state := .docked, tag := rep.tag, since := s.minute, relatch := (t.dock d).relatch } ∧
    ((∀ y ∈ s.releaseQ, y.dock ≠ d) →
      let pending := clearedPending sent (s.dock d).pending
      ((s.dock d).state ≠ .relatching → (t.dock d).pending = pending ∧ (t.dock d).relatch = (s.dock d).relatch) ∧
      ((s.dock d).state = .relatching →
        (t.dock d).pending = (if pending = .closeCmd then .none else pending) ∧ (t.dock d).relatch = 0)) := by
  refine ⟨?_, fun hout => ⟨fun hstate => ?_, fun hstate => ?_⟩⟩
  · rw [hsame, h.dock]
    rfl
  · rw [hidle hout, h.dock, Dock.housed_still (by exact hstate)]
    exact ⟨rfl, rfl⟩
  · rw [hidle hout, h.dock, Dock.housed_relatching (by exact hstate), ← Pending.dropClose_eq]
    exact ⟨rfl, rfl⟩

/-! ## No ride holds the tag: FOREIGN_RETURN (R79, R149) -/

/-- The bike of no ride, or of a QUEUED one. -/
theorem Housed.foreign {s v t : State} {d : DockIx} {sent : Pending} {rep : StatusReply} (h : Housed s v t d sent rep)
    (hforeign : rep.tag = 0#32 ∨ s.rideOfTag rep.tag = none ∨
      ∃ r : Ride, s.rideOfTag rep.tag = some r ∧ r.state = .queued) : TurnClosed (v.foreignReturn d rep.tag) t := by
  have hreturn : v.returnBike d rep.tag = v.foreignReturn d rep.tag := by
    unfold State.returnBike
    split
    · rfl
    · next hreal =>
      rw [rideOfTag_settled h.rides]
      rcases hforeign with hzero | hnone | ⟨r, hr, hq⟩
      · exact absurd hzero hreal
      · rw [hnone]
        rfl
      · rw [hr, Option.map_some]
        dsimp only
        rw [if_pos (.inl (by rw [Ride.settled_eq]; exact hq))]
  have hruns := h.runs
  rwa [hreturn, State.openAfterShow_eq] at hruns
  rw [(v.foreignReturn_pool d rep.tag).dock, h.dock]
  nofun

theorem State.foreignReturn_listK (s : State) (d : DockIx) (g : BikeTag) : (s.foreignReturn d g).listK = s.listK := by
  unfold State.foreignReturn
  rcases s.postFree_cases .foreignReturn _ with ⟨n, rest, -, h⟩ | ⟨-, h⟩ <;> rw [h]
  exact State.latch_listK ..

theorem SameBase.level {s t : State} (h : SameBase s t) (k : Kind) : t.level k = s.level k := by
  obtain ⟨-, -, -, -, -, -, hlevels, -⟩ := h
  unfold State.level
  rw [hlevels]

theorem State.foreignReturn_posts {s : State} {slot : Nat} {rest : List Nat} (h : s.free = slot :: rest) (d : DockIx)
    (g : BikeTag) : (s.foreignReturn d g).free = rest ∧
      (s.foreignReturn d g).listN = insertTail ⟨slot, ⟨(s.level .foreignReturn).val, s.clockSet, .trip .foreignReturn
        ⟨none, 0#24, g, none, some d, none, s.minute, none, 0, 0, none, false, false, false, false⟩⟩⟩ s.listN := by
  unfold State.foreignReturn State.postFree
  rw [h]
  exact ⟨rfl, rfl⟩

theorem AtDock.foreignReturn (s : State) (d : DockIx) (g : BikeTag) : AtDock s (s.foreignReturn d g) d :=
  .pool (s.foreignReturn_pool d g) (s.foreignReturn_listK d g)

/-! ## The replies of a DOCKED dock without a ride (R78, R93, R94) -/

theorem State.dockReply_docked {s : State} {d : DockIx} {rep : StatusReply} (c : Bool) (hjam : rep.latch ≠ .jammed)
    (hreader : rep.readerFault = false) (hstate : (s.dock d).state = .docked) : s.dockReply d rep c =
      if !rep.bike then s.bikeGone d none
      else if rep.latch = .locked then s.retag d rep.tag
      else s.relatchDock d := by
  rw [State.dockReply_plain c hjam (fun hf => absurd (hf.symm.trans hreader) (by decide))]
  unfold State.plainReply
  rw [hstate]

namespace Unbound

variable {s w t : State} {d : DockIx} {sent : Pending} {rep : StatusReply} (h : Unbound s w t d sent rep)
  (hstate : (s.dock d).state = .docked) (hreader : rep.readerFault = false)
include h hstate hreader

theorem docked_gone (hbike : rep.bike = false) (hjam : rep.latch ≠ .jammed) :
    Replies s t d sent rep Dock.toEmpty ∧ (NoLinkNotice (s.dock d) rep →
      Notified s t s.free (.dock d) (.unauthRemoval (s.dock d).tag none)) := by
  refine h.noted (fun _ => rfl) ?_ (.updDock w d Dock.toEmpty) nofun
  rw [State.dockReply_docked _ hjam hreader (h.state.trans hstate), hbike, ← h.tag]
  rfl

theorem docked_retagged (hbike : rep.bike = true) (hlatch : rep.latch = .locked)
    (htag : (s.dock d).tag ≠ 0#32 ∨ rep.tag = 0#32) :
    Replies s t d sent rep (fun x => retagged s x rep.tag) ∧ (NoLinkNotice (s.dock d) rep → SamePool s t) := by
  have hset : DockSet w (w.retag d rep.tag) d (retagged w (w.dock d) rep.tag) := .retag (h.tag.symm ▸ htag)
  rw [retagged_congr h.minute] at hset
  refine h.set (fun _ => retagged_ack _ _ _) ?_ hset (by rw [retagged_state, h.state, hstate]; nofun)
  rw [State.dockReply_docked _ (by rw [hlatch]; nofun) hreader (h.state.trans hstate), hbike, hlatch]
  rfl

theorem docked_open (hbike : rep.bike = true) (hlatch : rep.latch = .unlatched) :
    AtDock s t d ∧
    t.dock d = { replied (s.dock d) rep (t.dock d).ack .closeCmd with state := .relatching, relatch := 0 } ∧
    (NoLinkNotice (s.dock d) rep → SamePool s t) := by
  have hv : w.dockReply d rep (decide (sent = .closeCmd)) = w.relatchDock d := by
    rw [State.dockReply_docked _ (by rw [hlatch]; nofun) hreader (h.state.trans hstate), hbike, hlatch]
    rfl
  have hset := DockSet.relatchDock w d
  have hclosed := h.settled hv (by rw [hset.dock]; nofun)
  refine ⟨(h.kept.trans hset.kept).trans (.closed hclosed), ?_, h.samePool hset.pool hclosed⟩
  rw [hclosed.dock_pending_set (by rw [hset.dock]; nofun), hset.dock, h.dock]
  rfl

end Unbound

end Sys2Proof.Machine

namespace Sys2Proof.Proofs

open Sys2Proof.Machine

/-- Settles O34: a return of no ride, and the three replies of a DOCKED dock. -/
theorem bikeWithoutRide : Obligations.BikeWithoutRide := by
  intro s l x rep d hdue hnone pending
  obtain ⟨u, t, before, hexec, hhandled⟩ := hdue.handled rep
  have hw := hhandled.unbound hnone
  change Unbound s _ t d x.cmd rep at hw
  generalize u.linkNotices (dockIx l x.addr) before rep = w at hw
  clear_value d
  refine ⟨fun hseen hforeign => ?_, fun hstate hbike hjam hreader => ?_, fun hstate hbike hreader hnot hlatch => ?_⟩
  · obtain ⟨v, hv⟩ := hw.housed hseen
    have hclosed := hv.foreign hforeign
    have hforeignDock := (v.foreignReturn_pool d rep.tag).dock d
    have hwhole := hv.kept.trans (.foreignReturn v d rep.tag)
    have hat := hwhole.trans (.closed hclosed)
    obtain ⟨hdock, hpending⟩ := hv.dock_final (hforeignDock ▸ hclosed.dock_pending d)
      (fun hout => (hwhole.dock_closed hclosed hout).trans hforeignDock)
    refine ⟨t, hexec, hdock, hpending, hat.grantsStand, fun hquiet hfree => ?_, fun slot rest hquiet hfree => ?_,
      hat.docks, hat.rides, hat.creds, hat.listK, hat.base, hat.ports⟩
    · obtain ⟨hvfree, hvlist, -⟩ := hv.pool hquiet
      have hlost : v.foreignReturn d rep.tag = v.latch .n evOverflow := State.foreignReturn_starved (hvfree.trans hfree) _ _
      rw [hlost] at hclosed
      refine ⟨(hclosed.pool.1.trans (State.latch_free ..)).trans (hvfree.trans hfree),
        (hclosed.pool.2.1.trans (State.latch_listN ..)).trans hvlist, hclosed.latchedN _ (v.latch_latched_self evOverflow)⟩
    · obtain ⟨hvfree, hvlist, -⟩ := hv.pool hquiet
      obtain ⟨hfree', hlist'⟩ := State.foreignReturn_posts (hvfree.trans hfree) d rep.tag
      obtain ⟨hminute, -, hclock, -⟩ := hv.kept.base
      rw [hvlist] at hlist'
      refine ⟨hclosed.pool.1.trans hfree', ?_, ?_⟩
      · rw [hclosed.pool.2.1, hlist']
        exact length_insertTail _ _
      · rw [PostedN, hclosed.pool.2.1, hlist', SameBase.level hv.kept.base, hclock, hminute]
        exact mem_insertTail.mpr (.inl rfl)
  · obtain ⟨hreplies, hnotice⟩ := hw.docked_gone hstate hreader hbike hjam
    have hat := hreplies.kept
    refine ⟨t, hexec, hreplies.same, fun hout => ?_, hat.grantsStand, hnotice, hat.docks, hat.rides, hat.creds, hat.listK,
      hat.base, hat.ports⟩
    rw [hreplies.dock hout]
    rfl
  · rcases hlatch with hlatch | hlatch
    · have htag := tagKnown_of_not_returnSeen hnot hbike hlatch (fun hf => absurd (hf.symm.trans hreader) (by decide))
        (.inl hstate)
      obtain ⟨hreplies, hpool⟩ := hw.docked_retagged hstate hreader hbike hlatch htag
      have hat := hreplies.kept
      refine ⟨t, hexec, fun _ => ⟨?_, fun hout => ?_⟩, hat.grantsStand, fun hopen => absurd (hlatch.symm.trans hopen) nofun, hpool,
        hat.docks, hat.rides, hat.creds, hat.listK, hat.base, hat.ports⟩
      · have hsame := hreplies.same
        dsimp only at hsame
        rw [retagged_replied] at hsame
        exact hsame
      · rw [hreplies.dock hout, retagged_replied]
        rfl
    · obtain ⟨hat, hdock, hpool⟩ := hw.docked_open hstate hreader hbike hlatch
      exact ⟨t, hexec, fun hlocked => absurd (hlatch.symm.trans hlocked) nofun, hat.grantsStand, fun _ => hdock, hpool,
        hat.docks, hat.rides, hat.creds, hat.listK, hat.base, hat.ports⟩

end Sys2Proof.Proofs
end

section
/-! PROOFS. A bike latched where none was known, and the ride of its tag closed there: the OPEN ride's close and the quick
return (R79 to R81, R84, R108, R110, R147). -/

namespace Sys2Proof.Machine

/-- The ride of a returned bike closed at its dock (R80, R81). -/
def State.closedAt (v : State) (r : Ride) (d : DockIx) : State :=
  v.finishRide (r.settled d .delivered) .closedHere (some d) v.minute

/-! ## Queue, grants and docks beside two docks -/

/-- Where grants went is the same seen from states that agree but at one dock, which keeps its place. -/
theorem AgreeBut.movedBeside {s v c t : State} {d e : DockIx} (h : AgreeBut s v d) (k : AgreeBut c t d)
    (hm : Moved v c [e]) : QueueMoved s t [e] ∧ DocksMoved s t [e] [d, e] := by
  have hnew := newGrants_congr h.settings h.grants h.releaseQ h.runs [e]
  obtain ⟨⟨hqueue, hgrants⟩, hdocks⟩ := hm
  rw [hnew] at hgrants
  refine ⟨⟨?_, ?_⟩, fun j hj => ?_⟩
  · rw [k.releaseQ, hqueue, hnew, h.releaseQ]
  · rw [k.grants, hgrants, h.grants]
  · obtain ⟨hd, he⟩ : j ≠ d ∧ j ∉ [e] := by simpa using hj
    rw [k.others j hd, hdocks j he, hnew, h.others j hd]

/-- A dock put into RELATCHING leaves every other dock alone that waits for no grant. -/
theorem State.relatchDock_idle {s : State} {d j : DockIx} (hj : j ≠ d) (hout : ∀ y ∈ s.releaseQ, y.dock ≠ j) :
    (s.relatchDock d).dock j = s.dock j := by
  have hmark : ∀ u : State, (u.markPending d .closeCmd).dock j = u.dock j := fun u => by
    rw [State.markPending_dock, if_neg hj]
  have hupd : (s.updDock d (fun x => { x with state := .relatching, relatch := 0 })).dock j = s.dock j := by
    rw [State.dock_updDock, if_neg hj]
  unfold State.relatchDock State.setPending
  dsimp only
  split
  · rw [State.issueGrants_dock, hmark, hupd]
    intro hmem
    obtain ⟨y, hy, -, hd⟩ := State.mem_waiting.mp hmem
    rw [State.markPending_releaseQ] at hy
    exact hout y hy hd
  · rw [hmark, hupd]

theorem GrantsIssued.returnRelatch {s : State} {d : DockIx} (hq : ∀ y ∈ s.releaseQ, y.dock ≠ d) (h : GrantsIssued s) :
    GrantsIssued ((s.returnGrant d).relatchDock d) := by
  obtain ⟨-, hissued⟩ := State.returnGrant_granted hq h
  exact ((AtDock.relatchDock (s.returnGrant d) d).stand hissued).issued hissued

/-! ## What every close leaves (R80, R84) -/

namespace Housed

variable {s v t : State} {d : DockIx} {sent : Pending} {rep : StatusReply} (h : Housed s v t d sent rep)
include h

theorem returnBike_closes {r : Ride} (hreal : rep.tag ≠ 0#32) (hr : s.rideOfTag rep.tag = some r) (hq : r.state ≠ .queued)
    (helse : r.state ≠ .opened → r.dock ≠ d) : v.returnBike d rep.tag = v.closedAt r d := by
  unfold State.returnBike
  rw [if_neg hreal, rideOfTag_settled h.rides, hr, Option.map_some]
  dsimp only
  rw [if_neg]
  · rfl
  · rw [Ride.settled_eq]
    exact not_or.mpr ⟨hq, fun hboth => helse hboth.1 hboth.2⟩

theorem figures {r : Ride} {e : Cred} {rel : Minute} (hrel : r.release = some rel) (he : s.findCred r.cred = some e) :
    v.figures (r.settled d .delivered) v.minute = settlement (s.classOf e) e rel s.minute := by
  obtain ⟨hminute, -, -, hclasses, -⟩ := h.kept.base
  have hclass : v.classOf e = s.classOf e := by
    unfold State.classOf
    rw [hclasses]
  rw [← hclass, ← hminute]
  refine State.figures_eq_settlement (s := v) ?_ ?_ v.minute
  · rw [Ride.settled_eq]
    exact hrel
  · rw [State.findCred_congr h.kept.creds, Ride.settled_eq]
    exact he

/-- Ride, entry and record of the close. -/
theorem settled {r : Ride} {e : Cred} {rel : Minute} (hrel : r.release = some rel) (he : s.findCred r.cred = some e)
    (k : TurnClosed (v.closedAt r d) t) :
    let f := settlement (s.classOf e) e rel s.minute
    t.findRide r.number = none ∧ OtherRidesKept s t r.number ∧ t.findCred r.cred = settledEntry e f ∧
    (∀ c, c ≠ r.cred → t.findCred c = s.findCred c) ∧
    PostedN s t r.slot .closedHere (.trip .closedHere (settledTrip r (some d) s.minute f
      (r.late || decide (r.state = .relatching)) (decide (r.state ≠ .opened)))) ∧
    (NoLinkNotice (s.dock d) rep → t.listN.length = s.listN.length + 1) ∧ SameBase s t ∧ PortsKept s t := by
  intro f
  have hr' := Ride.settled_eq r d .delivered
  have hspec := v.finishRide_spec (r.settled d .delivered) .closedHere (some d) v.minute
  have hfig := h.figures hrel he
  change FinishSpec v (v.closedAt r d) _ _ _ _ at hspec
  have hcreds := State.findCred_congr h.kept.creds
  obtain ⟨hminute, -, hclock, -⟩ := h.kept.base
  have hframe := hspec.frame.trans k.frame
  have hrides : t.rides = v.rides.filter (fun x => decide (x.number ≠ r.number)) := by
    rw [k.rides, hspec.rides, Ride.settled_number]
  have hcred : ∀ c, t.findCred c = if c = r.cred then (s.findCred c).bind (fun e => settledEntry e f) else s.findCred c := by
    intro c
    rw [k.findCred, hspec.cred, hfig, hcreds, hr']
  refine ⟨?_, ?_, ?_, fun c hc => ?_, ?_, fun hquiet => ?_, SameBase.trans h.kept.base hframe.station.1,
    PortsKept.trans h.kept.ports hframe.ports⟩
  · unfold State.findRide
    rw [hrides]
    refine List.find?_eq_none.mpr (fun x hx => ?_)
    simpa using (List.mem_filter.mp hx).2
  · exact (SameRides.othersKept h.kept.rides r.number).trans (.filtered hrides)
  · rw [hcred, if_pos rfl, he, Option.bind_some]
  · rw [hcred, if_neg hc]
  · rw [PostedN, k.pool.2.1, hspec.listN, hfig, hr', SameBase.level h.kept.base, hclock, hminute]
    exact mem_insertTail.mpr (.inl rfl)
  · rw [k.pool.2.1, hspec.listN, length_insertTail, (h.pool hquiet).2.1]

/-! ## The close of an OPEN ride (R80) -/

theorem opened {r : Ride} (hreal : rep.tag ≠ 0#32) (hr : s.rideOfTag rep.tag = some r) (ho : r.state = .opened) :
    TurnClosed (v.closedAt r d) t ∧ t.dock d = { v.dock d with pending := (t.dock d).pending } ∧
    ((∀ y ∈ s.releaseQ, y.dock ≠ d) → t.dock d = v.dock d) ∧
    DocksKept s t [d] ∧ GrantsStand s t d ∧ t.listK = s.listK ∧ (NoLinkNotice (s.dock d) rep → t.free = s.free) := by
  have hr' : (r.settled d .delivered).state = .opened := by rw [Ride.settled_eq, ho]
  have hspec := v.closeRide_spec (r.settled d .delivered) .closedHere (some d) v.minute false
  have hruns := h.runs
  rw [h.returnBike_closes hreal hr (by rw [ho]; nofun) (fun hne => absurd ho hne)] at hruns
  rw [← State.finishRide_opened hr'] at hspec
  change CloseSpec v (v.closedAt r d) _ _ _ _ at hspec
  generalize v.closedAt r d = c at hspec hruns
  have hdock : ∀ j, c.dock j = v.dock j := fun j => by
    unfold State.dock
    rw [hspec.docks]
  have k : TurnClosed c t := by
    rwa [State.openAfterShow_eq] at hruns
    rw [hdock, h.dock]
    nofun
  have hagree : AgreeBut v c d := by
    refine ⟨hspec.frame.station.1.2.2.2.2.2.2.2.1, fun j => ?_, hspec.queue, hspec.grants, fun j _ => hdock j⟩
    unfold State.lineRuns
    rw [State.line_of_eq hspec.lineA hspec.lineB]
  refine ⟨k, hdock d ▸ k.dock_pending d, fun hout => ?_,
    (h.kept.docks.trans (.of_docks hdock _)).trans (k.docks.mono (List.nil_subset _)), fun _ hissued => ?_,
    (k.pool.2.2.trans hspec.listK).trans h.kept.listK, fun hquiet => (k.pool.1.trans hspec.free).trans (h.pool hquiet).1⟩
  · rw [(k.idle d (hspec.queue ▸ (h.kept.out hout).1)).1, hdock]
  · have hbefore := (h.kept.stand hissued).trans hagree
    have hall := hbefore.trans (.closed k (hbefore.issued hissued))
    exact ⟨hall.releaseQ, hall.grants, hall.others⟩

/-! ## The quick return (R81) -/

theorem early {r : Ride} (hreal : rep.tag ≠ 0#32) (hr : s.rideOfTag rep.tag = some r) (hq : r.state ≠ .queued)
    (ho : r.state ≠ .opened) (hne : r.dock ≠ d) (hout : ∀ y ∈ s.releaseQ, y.dock ≠ r.dock) :
    TurnClosed (v.closedAt r d) t ∧ t.dock d = { v.dock d with pending := (t.dock d).pending } ∧
    ((∀ y ∈ s.releaseQ, y.dock ≠ d) → t.dock d = v.dock d) ∧
    t.dock r.dock = { s.dock r.dock with state := .relatching, relatch := 0, pending := .closeCmd } ∧
    r.dock ∉ t.grants ∧ DocksKept s t [d, r.dock] ∧ GrantsMoved s t [r.dock] [d, r.dock] ∧
    (NoLinkNotice (s.dock d) rep →
      (t.free, t.listK) = postPool s.free s.listK (.outcome r.number r.cred r.dock .taken)) := by
  have hr' := Ride.settled_eq r d .delivered
  have ho' : (r.settled d .delivered).state ≠ .opened := by rwa [hr']
  have hrdock : (r.settled d .delivered).dock = r.dock := by rw [hr']
  have hqueue : ∀ y ∈ v.releaseQ, y.dock ≠ r.dock := h.queue ▸ hout
  have hspec := State.closedEarly_relatch (hrdock.symm ▸ hqueue) .closedHere (some d) v.minute
  have htables := v.closedEarly_tables (r.settled d .delivered) .closedHere (some d) v.minute
  have hset : (v.closedEarly (r.settled d .delivered) .closedHere (some d) v.minute).settings = v.settings :=
    (SameStation.trans (v.closeRide_ride _ .closedHere (some d) v.minute true).station
      (State.postK_pool _ _).station).1.2.2.2.2.2.2.2.1
  have hruns := h.runs
  rw [h.returnBike_closes hreal hr hq (fun _ => hne), State.closedAt, State.finishRide_early ho'] at hruns
  rw [State.closedAt, State.finishRide_early ho']
  rw [hrdock] at hspec hruns ⊢
  generalize v.closedEarly (r.settled d .delivered) .closedHere (some d) v.minute = u at hspec htables hset hruns
  obtain ⟨hdocks, hqueues, hgrants, hlines, -⟩ := htables
  have hudock : ∀ j, u.dock j = v.dock j := fun j => by
    unfold State.dock
    rw [hdocks]
  have huruns : ∀ j, u.lineRuns j = v.lineRuns j := fun j => by
    unfold State.lineRuns
    rw [hlines]
  have hleave : ∀ j, (∀ y ∈ u.releaseQ, y.dock ≠ j) → ∀ y ∈ ((u.returnGrant r.dock).relatchDock r.dock).releaseQ, y.dock ≠ j :=
    fun j hj => (State.relatchDock_frame (u.returnGrant r.dock) r.dock).not_queued
      (s := (u.returnGrant r.dock).updDock r.dock _) ((u.returnGrant_frame r.dock).not_queued hj)
  have hissued : GrantsIssued s → GrantsIssued ((u.returnGrant r.dock).relatchDock r.dock) := fun hissued =>
    ((h.kept.stand hissued).issued hissued |>.congr hset hgrants hqueues huruns).returnRelatch (hqueues ▸ hqueue)
  have hidle : (∀ y ∈ s.releaseQ, y.dock ≠ d) →
      ((u.returnGrant r.dock).relatchDock r.dock).dock d = v.dock d := fun houtd => by
    have hu : ∀ y ∈ u.releaseQ, y.dock ≠ d := by rwa [hqueues, h.queue]
    rw [State.relatchDock_idle (Ne.symm hne) ((u.returnGrant_frame r.dock).not_queued hu), State.returnGrant_dock hu, hudock]
  generalize (u.returnGrant r.dock).relatchDock r.dock = c at hspec hruns hleave hissued hidle
  obtain ⟨hcd, hpending⟩ := hspec.kept d (by simpa using Ne.symm hne)
  have k : TurnClosed c t := by
    rwa [State.openAfterShow_eq] at hruns
    rw [hcd, h.dock]
    nofun
  obtain ⟨hrd, -, hrgrant⟩ := k.idle r.dock (hleave r.dock (hqueues ▸ hqueue))
  have hvdock := (h.kept.docks r.dock (by simpa using hne)).1
  refine ⟨k, ?_, fun houtd => ?_, ?_, hrgrant hspec.grant, ?_, fun _ hi => ?_, fun hquiet => ?_⟩
  · rw [k.dock_pending d, hcd]
  · rw [(k.idle d (hleave d (by rwa [hqueues, h.queue]))).1, hidle houtd]
  · rw [hrd, hspec.dock, hvdock]
  · exact ((h.kept.docks.mono (by simp)).trans (hspec.kept.mono (by simp))).trans (k.docks.mono (List.nil_subset _))
  · have hbefore := h.kept.stand hi
    exact hbefore.movedBeside (.closed k (hissued hi)) (hspec.moved (hbefore.issued hi))
  · obtain ⟨hfree, -, hlist⟩ := h.pool hquiet
    rw [k.pool.1, k.pool.2.2, hspec.pool, hfree, hlist, Ride.settled_number, hr']

end Housed

end Sys2Proof.Machine

namespace Sys2Proof.Proofs

open Sys2Proof.Machine

/-- Settles O33: the bike is docked, and the ride of its tag closed, from OPEN or at once with its take-up. -/
theorem returnClosesRide : Obligations.ReturnClosesRide := by
  intro s l x r e rel rep d hdue hnone hseen hreal hr hrel he hcase f early late
  obtain ⟨u, t, before, hexec, hhandled⟩ := hdue.handled rep
  have hw := hhandled.unbound hnone
  change Unbound s _ t d x.cmd rep at hw
  clear_value d
  obtain ⟨v, hv⟩ := hw.housed hseen
  rcases hcase with ho | ⟨hstate, hne, hout⟩
  · obtain ⟨k, hsame, hidle, hdocks, hstand, hlist, hfree⟩ := hv.opened hreal hr ho
    obtain ⟨hgone, hothers, hcred, hcreds, hposted, hlength, hbase, hports⟩ := hv.settled hrel he k
    obtain ⟨hdock, hpending⟩ := hv.dock_final hsame hidle
    exact ⟨t, hexec, hdock, hpending, hgone, hothers, hcred, hcreds, hposted, hlength, hbase, hports,
      fun _ => ⟨hdocks, hstand, hlist, hfree⟩, fun hnot => absurd ho hnot⟩
  · have ho : r.state ≠ .opened := by rcases hstate with hs | hs <;> rw [hs] <;> nofun
    have hq : r.state ≠ .queued := by rcases hstate with hs | hs <;> rw [hs] <;> nofun
    obtain ⟨k, hsame, hidle, hrdock, hgrant, hdocks, hmoved, hpool⟩ := hv.early hreal hr hq ho hne hout
    obtain ⟨hgone, hothers, hcred, hcreds, hposted, hlength, hbase, hports⟩ := hv.settled hrel he k
    obtain ⟨hdock, hpending⟩ := hv.dock_final hsame hidle
    exact ⟨t, hexec, hdock, hpending, hgone, hothers, hcred, hcreds, hposted, hlength, hbase, hports,
      fun hopen => absurd hopen ho, fun _ => ⟨hrdock, hgrant, hdocks, hmoved, hpool⟩⟩

end Sys2Proof.Proofs
end

section
/-! PROOFS. What the handling of a reply leaves of the nodes' fields, the turns, how far OPEN has come, and the lines: a
pending command of the dock may go first, and the lines follow those that are set after it (R87, R109, R120, R137). -/

namespace Sys2Proof.Machine

/-! ## What no handling of bike and latch writes -/

/-- Two dock records agree on link, hold, failed turns, busy streak, mismatches and power. -/
def Dock.SameNode (x y : Dock) : Prop :=
  y = { x with
    state := y.state, tag := y.tag, since := y.since, pending := y.pending, ack := y.ack, relatch := y.relatch }

theorem Dock.SameNode.trans {x y z : Dock} (h : x.SameNode y) (k : y.SameNode z) : x.SameNode z := by
  unfold Dock.SameNode at h k ⊢
  rw [h] at k
  exact k

/-- Every ride of t was one of s, with OPEN as far. -/
def RidesFrom (s t : State) : Prop := ∀ y ∈ t.rides, ∃ x ∈ s.rides, x.number = y.number ∧ x.progress = y.progress

/-- Every dock that a ride of t binds was bound by a ride of s. -/
def BoundFrom (s t : State) : Prop :=
  ∀ y ∈ t.rides, y.state ≠ .opened → ∃ x ∈ s.rides, x.state ≠ .opened ∧ x.dock = y.dock

theorem RidesFrom.trans {s t u : State} (h : RidesFrom s t) (k : RidesFrom t u) : RidesFrom s u := by
  intro z hz
  obtain ⟨y, hy, k1, k2⟩ := k z hz
  obtain ⟨x, hx, h1, h2⟩ := h y hy
  exact ⟨x, hx, h1.trans k1, h2.trans k2⟩

theorem BoundFrom.trans {s t u : State} (h : BoundFrom s t) (k : BoundFrom t u) : BoundFrom s u := by
  intro z hz ho
  obtain ⟨y, hy, k1, k2⟩ := k z hz ho
  obtain ⟨x, hx, h1, h2⟩ := h y hy k1
  exact ⟨x, hx, h1, h2.trans k2⟩

theorem ridesFrom_of_subset {s t : State} (h : t.rides ⊆ s.rides) : RidesFrom s t ∧ BoundFrom s t :=
  ⟨fun y hy => ⟨y, h hy, rfl, rfl⟩, fun y hy ho => ⟨y, h hy, ho, rfl⟩⟩

theorem ridesFrom_of_eq {s t : State} (h : t.rides = s.rides) : RidesFrom s t ∧ BoundFrom s t :=
  ridesFrom_of_subset (h ▸ List.Subset.refl _)

theorem BoundFrom.settled {s t : State} {d : DockIx} {p : OpenProgress}
    (h : t.rides = s.rides.map (fun r => r.settled d p)) : BoundFrom s t := by
  intro y hy ho
  rw [h] at hy
  obtain ⟨x, hx, rfl⟩ := List.mem_map.mp hy
  rw [Ride.settled_eq] at ho ⊢
  exact ⟨x, hx, ho, rfl⟩

theorem RidesFrom.updRide (s : State) (n : RideNo) {f : Ride → Ride}
    (hf : ∀ r, (f r).number = r.number ∧ (f r).progress = r.progress) : RidesFrom s (s.updRide n f) := by
  intro y hy
  obtain ⟨x, hx, rfl⟩ := List.mem_map.mp hy
  refine ⟨x, hx, ?_⟩
  split
  · exact ⟨(hf x).1.symm, (hf x).2.symm⟩
  · exact ⟨rfl, rfl⟩

/-- Nodes, turns and error counts stand, and no ride is new. -/
structure NodeKept (s t : State) : Prop where
  node  : ∀ j : DockIx, (s.dock j).SameNode (t.dock j)
  turn  : ∀ l : Line, (t.line l).turn = (s.line l).turn ∧ (t.line l).errors = (s.line l).errors
  rides : RidesFrom s t

namespace NodeKept

variable {s t u : State}

theorem trans (h : NodeKept s t) (k : NodeKept t u) : NodeKept s u :=
  ⟨fun j => (h.node j).trans (k.node j),
    fun l => ⟨(k.turn l).1.trans (h.turn l).1, (k.turn l).2.trans (h.turn l).2⟩, h.rides.trans k.rides⟩

theorem of_same (hdock : ∀ j, t.dock j = s.dock j) (hline : ∀ l, t.line l = s.line l) (hrides : RidesFrom s t) :
    NodeKept s t :=
  ⟨fun j => by rw [hdock]; rfl, fun l => by rw [hline]; exact ⟨rfl, rfl⟩, hrides⟩

theorem pool (h : PoolFrame s t) : NodeKept s t := of_same h.dock h.line (ridesFrom_of_eq h.rides).1

theorem line (h : LineFrame s t) : NodeKept s t := by
  refine ⟨fun j => ?_, fun l => ⟨(h.line l).2.1, (h.line l).2.2.1⟩, (ridesFrom_of_eq h.rides).1⟩
  have hdock := h.dock j
  unfold Dock.SameNode
  rw [hdock]

theorem updDock (s : State) (d : DockIx) {f : Dock → Dock} (hf : ∀ x : Dock, x.SameNode (f x)) : NodeKept s (s.updDock d f) := by
  refine ⟨fun j => ?_, fun l => by rw [State.updDock_line]; exact ⟨rfl, rfl⟩, (ridesFrom_of_eq rfl).1⟩
  rw [State.dock_updDock]
  split
  · next hj => rw [hj]; exact hf _
  · rfl

end NodeKept

/-! ## Commands that go, and lines that follow -/

/-- The dock is fitted, and so is every dock that a ride binds (R66, R86). -/
def FitAt (s : State) (d : DockIx) : Prop :=
  s.fitted d = true ∧ ∀ r ∈ s.rides, r.state ≠ .opened → s.fitted r.dock = true

theorem FitAt.next {s t : State} {d : DockIx} (h : FitAt s d) (hfit : ∀ j, t.fitted j = s.fitted j)
    (hrides : BoundFrom s t) : FitAt t d := by
  refine ⟨(hfit d).trans h.1, fun y hy ho => ?_⟩
  obtain ⟨x, hx, hbound, hdock⟩ := hrides y hy ho
  rw [hfit, ← hdock]
  exact h.2 x hx hbound

/-- A step after which the lines follow the pending commands that it sets. -/
structure Follows (s t : State) (d : DockIx) : Prop where
  kept  : NodeKept s t
  bound : BoundFrom s t
  trace : FitAt s d → LineTrace s t

/-- A step in which pending commands may go, on which the lines do nothing. -/
structure Drops (s t : State) (d : DockIx) : Prop where
  kept    : NodeKept s t
  line    : ∀ l, t.line l = s.line l
  pending : s.fitted d = true → PendingDropped s t

/-- Commands may go first, at m; the lines follow those that are set after it. -/
structure DropsAt (s m t : State) (d : DockIx) : Prop where
  drops : Drops s m d
  kept  : NodeKept m t
  trace : FitAt s d → LineTrace m t

theorem LineTrace.pool {s t : State} (h : PoolFrame s t) (hl : Latching s t) : LineTrace s t where
  fitted j := State.fitted_of_dock (by rw [h.dock])
  filled j := .inl (by rw [h.dock])
  stands l _ := h.line l
  quiet l _ := .inl ⟨h.line l, fun a => by rw [h.dock]⟩
  latched he := hl.keepsN he

theorem State.updDock_fitted {s : State} {d : DockIx} {f : Dock → Dock} (hfit : s.fitted d = true)
    (hf : (f (s.dock d)).state ≠ .unfitted) (j : DockIx) : (s.updDock d f).fitted j = s.fitted j := by
  by_cases hj : j = d
  · subst hj
    rw [hfit]
    exact decide_eq_true (by rwa [State.dock_updDock, if_pos rfl])
  · exact State.fitted_of_dock (by rw [State.dock_updDock, if_neg hj])

namespace Follows

variable {s t u : State} {d : DockIx}

theorem trans (h : Follows s t d) (k : Follows t u d) : Follows s u d :=
  ⟨h.kept.trans k.kept, h.bound.trans k.bound, fun hfit =>
    (h.trace hfit).trans (k.trace (hfit.next (h.trace hfit).fitted h.bound))⟩

theorem of_same (hdock : ∀ j, t.dock j = s.dock j) (hline : ∀ l, t.line l = s.line l) (hport : t.portN = s.portN)
    (hrides : t.rides ⊆ s.rides) : Follows s t d :=
  ⟨.of_same hdock hline (ridesFrom_of_subset hrides).1, (ridesFrom_of_subset hrides).2,
    fun _ => .of_same hline (fun j => State.fitted_of_dock (by rw [hdock])) (fun j => by rw [hdock]) hport⟩

theorem refl (s : State) (d : DockIx) : Follows s s d :=
  of_same (fun _ => rfl) (fun _ => rfl) rfl (List.Subset.refl _)

theorem pool (h : PoolFrame s t) (hl : Latching s t) : Follows s t d :=
  ⟨.pool h, (ridesFrom_of_eq h.rides).2, fun _ => .pool h hl⟩

theorem notice (s : State) (sub : Subject) (b : NoticeBody) : Follows s (s.notice sub b) d :=
  pool (s.notice_pool sub b) (s.notice_latching sub b)

theorem line (h : LineFrame s t) (k : LineTrace s t) : Follows s t d :=
  ⟨.line h, (ridesFrom_of_eq h.rides).2, fun _ => k⟩

theorem updDock (s : State) {f : Dock → Dock} (hf : ∀ x : Dock, x.SameNode (f x)) (hp : (f (s.dock d)).pending = (s.dock d).pending)
    (hstate : s.fitted d = true → (f (s.dock d)).state ≠ .unfitted) : Follows s (s.updDock d f) d := by
  refine ⟨.updDock s d hf, (ridesFrom_of_eq rfl).2, fun hfit => .of_same (fun l => State.updDock_line ..)
    (State.updDock_fitted hfit.1 (hstate hfit.1)) (fun j => ?_) rfl⟩
  rw [State.dock_updDock]
  split
  · next hj => rw [hp, hj]
  · rfl

/-- A change of the record that leaves the state, like the stored tag. -/
theorem updDock_still (s : State) {f : Dock → Dock} (hf : ∀ x : Dock, x.SameNode (f x))
    (hp : (f (s.dock d)).pending = (s.dock d).pending) (hstate : (f (s.dock d)).state = (s.dock d).state) :
    Follows s (s.updDock d f) d :=
  updDock s hf hp (fun hfit => by rw [hstate]; exact of_decide_eq_true hfit)

theorem returnGrant (s : State) (j : DockIx) : Follows s (s.returnGrant j) d :=
  line (s.returnGrant_frame j) (s.returnGrant_trace j)

theorem relatchDock (s : State) {j : DockIx} (hj : FitAt s d → s.fitted j = true) : Follows s (s.relatchDock j) d :=
  ⟨(NodeKept.updDock s j (f := fun x => { x with state := .relatching, relatch := 0 }) (fun _ => rfl)).trans
      (.line (s.relatchDock_frame j)),
    (ridesFrom_of_eq (s.relatchDock_frame j).rides).2, fun hfit => State.relatchDock_trace (hj hfit)⟩

theorem linkNotices (s : State) (before : Dock) (r : StatusReply) : Follows s (s.linkNotices d before r) d := by
  have hback : Follows s (if before.link = .lost then s.notice (.dock d) (.nodeBack .status) else s) d := by
    split
    · exact notice s _ _
    · exact refl s d
  unfold State.linkNotices
  dsimp only
  split
  · exact hback.trans (notice _ _ _)
  · exact hback

theorem openAfterShow (s : State) (j : DockIx) : Follows s (s.openAfterShow j) d := by
  unfold State.openAfterShow
  split
  · exact line (s.setPending_frame j .openCmd) (s.setPending_trace j Pending.noConfusion)
  · exact refl s d

theorem bikeGone (s : State) (n : Option RideNo) : Follows s (s.bikeGone d n) d :=
  (updDock s (f := Dock.toEmpty) (fun _ => rfl) rfl nofun).trans (notice _ _ _)

/-- A close, its dock relatched where the ride still bound it (R80, R81). -/
theorem finishRide (s : State) {r : Ride} (hr : r ∈ s.rides) (k : TripKind) (returnAt : Option DockIx) (m : Minute) :
    Follows s (s.finishRide r k returnAt m) d := by
  by_cases ho : r.state = .opened
  · have hspec := s.closeRide_spec r k returnAt m false
    rw [State.finishRide_opened ho]
    refine of_same (fun j => ?_) (State.line_of_eq hspec.lineA hspec.lineB) hspec.portN
      (hspec.rides ▸ List.filter_subset_self _)
    unfold State.dock
    rw [hspec.docks]
  · obtain ⟨hdocks, -, -, hlines, hport⟩ := s.closedEarly_tables r k returnAt m
    have hdock : ∀ j, (s.closedEarly r k returnAt m).dock j = s.dock j := fun j => by
      unfold State.dock
      rw [hdocks]
    have hrides : (s.closedEarly r k returnAt m).rides ⊆ s.rides := by
      rw [State.closedEarly, (State.postK_pool _ _).rides,
        (s.closeRide_spec (r.takenEarly s.minute) k returnAt m true).rides]
      exact List.filter_subset_self _
    have hclosed : Follows s ((s.closedEarly r k returnAt m).returnGrant r.dock) d :=
      (of_same hdock hlines hport hrides).trans (returnGrant _ r.dock)
    rw [State.finishRide_early ho]
    have hframe := State.relatchDock_frame ((s.closedEarly r k returnAt m).returnGrant r.dock) r.dock
    refine ⟨hclosed.kept.trans ((NodeKept.updDock _ r.dock
      (f := fun x => { x with state := .relatching, relatch := 0 }) (fun _ => rfl)).trans (.line hframe)),
      hclosed.bound.trans (ridesFrom_of_eq hframe.rides).2,
      fun hfit => (hclosed.trace hfit).trans (State.relatchDock_trace ?_)⟩
    rw [(hclosed.trace hfit).fitted]
    exact hfit.2 r hr ho

theorem foreignReturn (s : State) (g : BikeTag) : Follows s (s.foreignReturn d g) d :=
  pool (s.foreignReturn_pool d g) (State.postFree_latching _ _ _)

theorem returnBike (s : State) (g : BikeTag) : Follows s (s.returnBike d g) d := by
  unfold State.returnBike
  split
  · exact foreignReturn s g
  · split
    · exact foreignReturn s g
    · next r hr =>
      split
      · exact foreignReturn s g
      · exact finishRide s (State.rideOfTag_some hr).1 _ _ _

theorem retag (s : State) (g : BikeTag) : Follows s (s.retag d g) d := by
  have hset : Follows s (s.updDock d (fun x => { x with tag := g, since := s.minute })) d :=
    updDock_still s (fun _ => rfl) rfl rfl
  unfold State.retag
  dsimp only
  split
  · exact refl s d
  · split
    · exact hset.trans (returnBike _ g)
    · exact hset

theorem clearFault (s : State) (r : StatusReply) : Follows s (s.clearFault d r) d := by
  unfold State.clearFault
  split
  · exact (updDock s (f := fun x => { x with state := .docked }) (fun _ => rfl) rfl nofun).trans (retag _ _)
  · split
    · exact updDock s (f := Dock.toEmpty) (fun _ => rfl) rfl nofun
    · exact bikeGone s _

end Follows

/-! ## The ways of a reply (R90) -/

theorem Pending.dropLatch_dropped (p : Pending) : p.dropLatch = p ∨ p.dropLatch = .none := by
  cases p
  · exact .inl rfl
  · exact .inr rfl
  · exact .inr rfl
  · exact .inl rfl

theorem Pending.dropClose_dropped (p : Pending) : p.dropClose = p ∨ p.dropClose = .none := by
  rw [Pending.dropClose_eq]
  split
  · exact .inr rfl
  · exact .inl rfl

theorem State.cancelled_rides (s : State) (r : Ride) (o : RideOutcome) : (s.cancelled r o).rides ⊆ s.rides := by
  have hspec := (s.cancelRide_spec r o).rides
  rw [State.cancelRide_eq, (State.returnGrant_frame (s.cancelled r o) r.dock).rides] at hspec
  rw [hspec]
  exact List.filter_subset_self _

namespace Drops

variable {s t u : State} {d : DockIx}

theorem refl (s : State) (d : DockIx) : Drops s s d :=
  ⟨.of_same (fun _ => rfl) (fun _ => rfl) (ridesFrom_of_eq rfl).1, fun _ => rfl,
    fun _ => ⟨fun _ => rfl, fun _ => .inl rfl⟩⟩

/-- A step of the record pool before or after. -/
theorem pool (h : PoolFrame s t) : Drops s t d :=
  ⟨.pool h, h.line, fun _ => ⟨fun j => State.fitted_of_dock (by rw [h.dock]), fun j => .inl (by rw [h.dock])⟩⟩

theorem trans (h : Drops s t d) (k : Drops t u d) : Drops s u d := by
  refine ⟨h.kept.trans k.kept, fun l => (k.line l).trans (h.line l), fun hfit => ?_⟩
  obtain ⟨hfitted, hpending⟩ := h.pending hfit
  obtain ⟨kfitted, kpending⟩ := k.pending ((hfitted d).trans hfit)
  refine ⟨fun j => (kfitted j).trans (hfitted j), fun j => ?_⟩
  rcases kpending j with e | e
  · rw [e]
    exact hpending j
  · exact .inr e

theorem updDock (s : State) {f : Dock → Dock} (hf : ∀ x : Dock, x.SameNode (f x))
    (hp : (f (s.dock d)).pending = (s.dock d).pending ∨ (f (s.dock d)).pending = .none)
    (hstate : (f (s.dock d)).state ≠ .unfitted) : Drops s (s.updDock d f) d := by
  refine ⟨.updDock s d hf, fun l => State.updDock_line .., fun hfit => ⟨State.updDock_fitted hfit hstate, fun j => ?_⟩⟩
  rw [State.dock_updDock]
  split
  · next hj => rw [hj]; exact hp
  · exact .inl rfl

/-- The rides, or the release queue, change with the record of the dock. -/
theorem beside (h : Drops s t d) (hdock : ∀ j, u.dock j = t.dock j) (hline : ∀ l, u.line l = t.line l)
    (hrides : RidesFrom t u) : Drops s u d := by
  refine ⟨h.kept.trans (.of_same hdock hline hrides), fun l => (hline l).trans (h.line l), fun hfit => ?_⟩
  obtain ⟨hfitted, hpending⟩ := h.pending hfit
  refine ⟨fun j => (State.fitted_of_dock (by rw [hdock])).trans (hfitted j), fun j => ?_⟩
  rw [hdock]
  exact hpending j

theorem cancelled (s : State) (r : Ride) (o : RideOutcome) : Drops s (s.cancelled r o) r.dock := by
  have hbefore := s.cancelled_beforeReturn r o
  refine ⟨⟨fun j => ?_, fun l => by rw [hbefore.line]; exact ⟨rfl, rfl⟩, (ridesFrom_of_subset (s.cancelled_rides r o)).1⟩, hbefore.line,
    fun hfit => ⟨fun j => ?_, fun j => ?_⟩⟩
  · rw [hbefore.dock]
    split
    · next hj => rw [hj]; rfl
    · rfl
  · by_cases hj : j = r.dock
    · rw [hj, hfit]
      exact decide_eq_true (by rw [hbefore.dock, if_pos rfl]; nofun)
    · exact State.fitted_of_dock (by rw [hbefore.dock, if_neg hj])
  · rw [hbefore.dock]
    split
    · next hj => rw [hj]; exact Pending.dropLatch_dropped _
    · exact .inl rfl

end Drops

namespace DropsAt

variable {s m t u : State} {d : DockIx}

theorem of_bound (h : Drops s m d) (hbound : BoundFrom s m) (k : Follows m t d) : DropsAt s m t d :=
  ⟨h, k.kept, fun hfit => k.trace (hfit.next (h.pending hfit.1).fitted hbound)⟩

theorem of_follows (k : Follows s t d) : DropsAt s s t d := of_bound (.refl s d) (ridesFrom_of_eq rfl).2 k

theorem of_drops (h : Drops s m d) : DropsAt s m m d :=
  ⟨h, .of_same (fun _ => rfl) (fun _ => rfl) (ridesFrom_of_eq rfl).1, fun _ => .refl m⟩

/-- A step that needs nothing of the docks bound. -/
theorem next (h : DropsAt s m t d) (hkept : NodeKept t u) (htrace : LineTrace t u) : DropsAt s m u d :=
  ⟨h.drops, h.kept.trans hkept, fun hfit => (h.trace hfit).trans htrace⟩

theorem jamDock (s : State) (c : JamCause) (n : Option RideNo) : ∃ m, DropsAt s m (s.jamDock d c n) d := by
  by_cases hstate : (s.dock d).state = .faulted .jammed
  · refine ⟨s, ?_⟩
    rw [State.jamDock_again hstate]
    exact of_follows (.refl s d)
  · refine ⟨s.updDock d Dock.toJammed, ?_⟩
    rw [State.jamDock_eq hstate]
    exact of_bound (.updDock s (fun _ => rfl) (Pending.dropLatch_dropped _) nofun) (ridesFrom_of_eq rfl).2 (.notice _ _ _)

/-- The bike taken out of the dock of a ride (R69, R72). -/
theorem takeUp (s : State) (r : Ride) (late : Bool) :
    ∃ m, Drops s m r.dock ∧ NodeKept m (s.takeUp r late) ∧ LineTrace m (s.takeUp r late) := by
  have hopened : RidesFrom s (s.updRide r.number (fun x => { x with
      state := .opened, takeUp := some s.minute, late := x.late || late, windowLeft := none })) :=
    .updRide s r.number (fun _ => ⟨rfl, rfl⟩)
  have htaken : Drops s ((s.updRide r.number (fun x => { x with
      state := .opened, takeUp := some s.minute, late := x.late || late, windowLeft := none })).updDock r.dock Dock.toTaken)
      r.dock :=
    (Drops.updDock s (d := r.dock) (f := Dock.toTaken) (fun _ => rfl) (Pending.dropClose_dropped _) nofun).beside
      (fun _ => rfl) (fun l => by cases l <;> rfl) hopened
  have hgrant := State.returnGrant_frame ((s.updRide r.number (fun x => { x with
      state := .opened, takeUp := some s.minute, late := x.late || late, windowLeft := none })).updDock r.dock Dock.toTaken)
    r.dock
  have hpool := s.takeUp_pool r late
  have hlatching : Latching (s.takenUp r late) (s.takeUp r late) :=
    (State.postK_latching _ _).trans (State.notice_latching _ _ _)
  exact ⟨_, htaken, (NodeKept.line hgrant).trans (.pool hpool),
    (State.returnGrant_trace _ r.dock).trans (.pool hpool hlatching)⟩

theorem acknowledged (s : State) (r : Ride) : Drops s (s.acknowledge r) r.dock := by
  have hset := Drops.updDock s (d := r.dock) (f := fun x => { x with state := .releasing, pending := .none })
    (fun _ => rfl) (.inr rfl) nofun
  refine hset.beside (fun _ => rfl) (fun l => by cases l <;> rfl) ?_
  exact RidesFrom.updRide s r.number (fun _ => ⟨rfl, rfl⟩)

theorem relatchAttempt (s : State) (c : Bool) (n : Option RideNo) : ∃ m, DropsAt s m (s.relatchAttempt d c n) d := by
  unfold State.relatchAttempt
  split
  · split
    · exact jamDock s .relatch n
    · exact ⟨s, of_follows (.updDock_still s (fun _ => rfl) rfl rfl)⟩
  · exact ⟨s, of_follows (.refl s d)⟩

/-- A reply that does not cancel the ride at its dock (R68 to R70, R72, R73). -/
theorem rideReply (s : State) (r : Ride) (rep : StatusReply) (c : Bool) :
    ∃ m, DropsAt s m (s.rideReply r.dock r rep c) r.dock := by
  have htake : ∀ late, ∃ m, DropsAt s m (s.takeUp r late) r.dock := fun late => by
    obtain ⟨m, hdrops, hkept, htrace⟩ := takeUp s r late
    exact ⟨m, hdrops, hkept, fun _ => htrace⟩
  unfold State.rideReply
  split
  · split
    · split
      · exact ⟨_, of_drops (acknowledged s r)⟩
      · obtain ⟨m, hdrops, hkept, htrace⟩ :=
          takeUp (s.acknowledge r) { r with state := .releasing, release := some s.minute } false
        exact ⟨m, (acknowledged s r).trans hdrops, hkept, fun _ => htrace⟩
    · exact ⟨s, of_follows (.refl s _)⟩
  · split
    · exact ⟨s, of_follows (.refl s _)⟩
    · exact htake false
  · split
    · exact relatchAttempt s c none
    · exact htake true
  · exact ⟨s, of_follows (.refl s _)⟩

end DropsAt

/-- A jam at a dock without OPEN or CLOSE pending. -/
theorem Follows.jamDock {s : State} {d : DockIx} (h : (s.dock d).pending.dropLatch = (s.dock d).pending) (c : JamCause)
    (n : Option RideNo) : Follows s (s.jamDock d c n) d := by
  by_cases hstate : (s.dock d).state = .faulted .jammed
  · rw [State.jamDock_again hstate]
    exact .refl s d
  · rw [State.jamDock_eq hstate]
    exact (Follows.updDock s (f := Dock.toJammed) (fun _ => rfl) h nofun).trans (.notice _ _ _)

theorem Follows.afterCancel {s : State} {d : DockIx} (h : (s.dock d).pending.dropLatch = (s.dock d).pending) (r : Ride)
    (rep : StatusReply) : Follows s (s.afterCancel d r rep) d := by
  unfold State.afterCancel
  split
  · exact .jamDock h _ _
  · split
    · split
      · exact .retag s _
      · exact .jamDock h _ _
    · exact .bikeGone s _

namespace DropsAt

variable {s : State} {d : DockIx}

/-- Bike and latch at a dock that no ride names (R91 to R94, R96, R99). -/
theorem plainReply (s : State) (rep : StatusReply) (c : Bool) : ∃ m, DropsAt s m (s.plainReply d rep c) d := by
  have hstand : ∃ m, DropsAt s m s d := ⟨s, of_follows (.refl s d)⟩
  have hdocked : Follows s (s.dockBike d rep.tag) d :=
    .updDock s (f := fun x => { x with state := .docked, tag := rep.tag, since := s.minute }) (fun _ => rfl) rfl nofun
  have hempty : Follows s (s.updDock d Dock.toEmpty) d := .updDock s (fun _ => rfl) rfl nofun
  have hrelatch : ∀ t : State, Follows t (t.relatchDock d) d := fun t => .relatchDock t (fun hfit => hfit.1)
  unfold State.plainReply
  split
  · split
    · exact ⟨s, of_follows hempty⟩
    · split
      · exact ⟨s, of_follows hdocked⟩
      · exact ⟨s, of_follows (hdocked.trans (hrelatch _))⟩
  · split
    · exact ⟨s, of_follows (hdocked.trans (.returnBike _ _))⟩
    · exact hstand
  · split
    · exact ⟨s, of_follows (.bikeGone s none)⟩
    · split
      · exact ⟨s, of_follows (.retag s _)⟩
      · exact ⟨s, of_follows (hrelatch s)⟩
  · split
    · exact ⟨_, of_drops (.updDock s (f := Dock.toTaken) (fun _ => rfl) (Pending.dropClose_dropped _) nofun)⟩
    · split
      · exact ⟨_, of_bound (.updDock s (f := Dock.toLatched) (fun _ => rfl) (Pending.dropClose_dropped _) nofun)
          (ridesFrom_of_eq rfl).2 (.retag _ _)⟩
      · exact relatchAttempt s c none
  · split
    · exact hstand
    · exact ⟨s, of_follows (.clearFault s rep)⟩
  all_goals exact hstand

theorem dockReply (s : State) (rep : StatusReply) (c : Bool) : ∃ m, DropsAt s m (s.dockReply d rep c) d := by
  unfold State.dockReply
  split
  · exact jamDock s .node none
  · split
    · exact ⟨s, of_follows ((Follows.updDock s (f := fun x => { x with state := .faulted .reader }) (fun _ => rfl) rfl
        nofun).trans (.notice _ _ _))⟩
    · exact plainReply s rep c

theorem after_pool {s t u m : State} (h : PoolFrame s t) (k : DropsAt t m u d) : DropsAt s m u d := by
  have hpool : Drops s t d := .pool h
  refine ⟨hpool.trans k.drops, k.kept, fun hfit => k.trace (hfit.next (fun j => ?_) (ridesFrom_of_eq h.rides).2)⟩
  exact State.fitted_of_dock (by rw [h.dock])

/-- Everything that a good STATUS reply does at its dock (R90). -/
theorem settleReply (s : State) (before : Dock) (rep : StatusReply) (c : Bool) :
    ∃ m, DropsAt s m (s.settleReply d before rep c) d := by
  have hlink := fun t : State => t.linkNotices_pool d before rep
  unfold State.settleReply
  split
  · next r hr =>
    obtain ⟨-, rfl, -⟩ := State.rideAt_some hr
    split
    · next o _ =>
      have hcancel : Follows (s.cancelled r o) (s.cancelRide r o) r.dock := .returnGrant _ r.dock
      refine ⟨_, of_bound (.cancelled s r o) (ridesFrom_of_subset (s.cancelled_rides r o)).2
        ((hcancel.trans (.linkNotices _ before rep)).trans (.afterCancel ?_ r rep))⟩
      rw [(hlink _).dock, (s.cancelRide_spec r o).dock]
      show (s.dock r.dock).pending.dropLatch.dropLatch = (s.dock r.dock).pending.dropLatch
      cases (s.dock r.dock).pending <;> rfl
    · obtain ⟨m, hm⟩ := rideReply (s.linkNotices r.dock before rep) r rep c
      exact ⟨m, after_pool (hlink s) hm⟩
  · obtain ⟨m, hm⟩ := dockReply (d := d) (s.linkNotices d before rep) rep c
    exact ⟨m, after_pool (hlink s) hm⟩

end DropsAt

end Sys2Proof.Machine
end

section
/-! PROOFS. The line of a good STATUS reply: the end of its turn, quiet activity, and the return from QUIET (R119, R120, R122,
R135 to R137). -/

namespace Sys2Proof.Machine

/-! ## The end of the turn (R119, R136) -/

theorem State.endTurn_afterTurn {s : State} {l : Line} {x : Turn} (h : (s.line l).turn = some x) :
    (s.endTurn l).line l = afterTurn (s.line l) (s.nextFitted l (x.addr.val + 1)) (s.nextFitted l 0) := by
  unfold State.endTurn afterTurn
  rw [h]
  dsimp only
  split
  · rw [State.line_updLine, if_pos rfl]
  · split
    · have hround : ∀ f : LineCtl → LineCtl, (s.updLine l f).nextFitted l 0 = s.nextFitted l 0 := fun f => by
        unfold State.nextFitted State.fitted
        simp only [State.updLine_dock]
      rw [State.startRound, hround, State.line_updLine, if_pos rfl, State.line_updLine, if_pos rfl]
    · rw [State.line_updLine, if_pos rfl]

theorem turnEnded_endTurn {s : State} {l : Line} {x : Turn} (h : (s.line l).turn = some x) (b : Bool) :
    TurnEnded s l x (((settleOpen s (dockIx l x.addr) b).endTurn l).line l) := by
  refine ⟨_, _, s.nextFitted_lowestFrom l (x.addr.val + 1), s.nextFitted_lowestFrom l 0, ?_⟩
  exact State.endTurn_afterTurn (s := settleOpen s (dockIx l x.addr) b) ((settleOpen_line ..).symm ▸ h)

/-- The lines once a reply is heard: its turn has ended, and the other line stands. -/
theorem State.heard_line (s : State) (l : Line) (x : Turn) (rep : StatusReply) (m : Line) :
    (s.heard l x rep).line m = ((settleOpen s (dockIx l x.addr) true).endTurn l).line m := by
  unfold State.heard
  rw [State.updDock_line, State.offerToken_line, State.beforeOffer, State.updDock_line]
  unfold State.turnOver State.clearCounts
  rw [State.updDock_line]

/-- Fitted docks stand when a reply is heard, and a delivered SHOW may go. -/
theorem Heard.dropped {s u : State} {d : DockIx} {sent : Pending} {rep : StatusReply} (h : Heard s u d sent rep) :
    PendingDropped s u := by
  have hstate : ∀ j, (u.dock j).state = (s.dock j).state ∧
      ((u.dock j).pending = (s.dock j).pending ∨ (u.dock j).pending = .none) := by
    intro j
    by_cases hj : j = d
    · rw [hj, h.dock]
      refine ⟨rfl, ?_⟩
      unfold replied clearedPending
      cases sent with
      | showCmd c q =>
        dsimp only
        split
        · exact .inr rfl
        · exact .inl rfl
      | _ => exact .inl rfl
    · rw [h.others j hj]
      exact ⟨rfl, .inl rfl⟩
  exact ⟨fun j => State.fitted_of_dock (hstate j).1, fun j => (hstate j).2⟩

theorem PendingDropped.trans {s t u : State} (h : PendingDropped s t) (k : PendingDropped t u) : PendingDropped s u := by
  refine ⟨fun j => (k.fitted j).trans (h.fitted j), fun j => ?_⟩
  rcases k.pending j with e | e
  · rw [e]
    exact h.pending j
  · exact .inr e

/-! ## Quiet activity (R135, R137) -/

/-- What the record says of a bike is what it compares with, where it says anything (R135). -/
theorem present_of_known {x : Dock} {b : Bool} (h : knownPresence x = some b) : x.present = b := by
  unfold knownPresence at h
  unfold Dock.present
  split at h
  · next htag => rw [if_pos htag]; exact Option.some.inj h
  · next htag =>
    rw [if_neg htag]
    cases hs : x.state with
    | unknown => rw [hs] at h; exact absurd h nofun
    | faulted _ => rw [hs] at h; exact absurd h nofun
    | _ => rw [hs] at h; exact Option.some.inj h

/-- Does a reply carry a new token or show a bike change: what the model asks. -/
def quietBroken (x : Dock) (rep : StatusReply) : Bool := newToken x rep || bikeChange x rep

theorem quietBroken_of_broken {x : Dock} {rep : StatusReply} (h : QuietBroken x rep) : quietBroken x rep = true := by
  unfold quietBroken bikeChange
  rcases h with ⟨k, hk, hnew⟩ | ⟨hbike, htag⟩ | hpresent
  · have hnewToken : newToken x rep = true := by
      unfold newToken
      rw [show rep.token = some k from hk]
      exact decide_eq_true hnew
    rw [hnewToken, Bool.true_or]
  · rw [hbike, decide_eq_true htag, Bool.and_self, Bool.or_true, Bool.or_true]
  · rw [present_of_known hpresent, decide_eq_true (by cases rep.bike <;> decide), Bool.true_or, Bool.or_true]

theorem quietBroken_of_holds {x : Dock} {rep : StatusReply} (h : QuietHolds x rep) : quietBroken x rep = false := by
  obtain ⟨htoken, htag, hpresent⟩ := h
  have hnew : newToken x rep = false := by
    unfold newToken
    cases hk : rep.token with
    | none => rfl
    | some k => exact decide_eq_false (not_not.mpr (htoken k hk))
  unfold quietBroken bikeChange
  rw [hnew, present_of_known hpresent, decide_eq_false (not_not.mpr rfl), Bool.false_or, Bool.false_or]
  cases hbike : rep.bike
  · rfl
  · rw [htag hbike, decide_eq_false (not_not.mpr rfl), Bool.and_false]

/-- Quiet activity of a line in RUNNING or QUIET, up to the grants that its return issues: y is the station then. -/
structure Wakes (s y t : State) (l : Line) : Prop where
  dock    : ∀ j, y.dock j = s.dock j
  other   : y.line (otherLine l) = s.line (otherLine l)
  latched : s.portN.latched &&& evLine = evLine → y.portN.latched &&& evLine = evLine
  stays   : (s.line l).state ≠ .quiet → y.line l = { s.line l with quietTimer := 0, quietDue := false }
  leaves  : (s.line l).state = .quiet → Returned s y l (s.line l)
  trace   : LineTrace y t

theorem State.quietActivity_wakes (s : State) (l : Line) : ∃ y, Wakes s y (s.quietActivity l) l := by
  have hline : (s.updLine l (fun c => { c with quietTimer := 0, quietDue := false })).line l =
      { s.line l with quietTimer := 0, quietDue := false } := by rw [State.line_updLine, if_pos rfl]
  have hother : (s.updLine l (fun c => { c with quietTimer := 0, quietDue := false })).line (otherLine l) =
      s.line (otherLine l) := by rw [State.line_updLine, if_neg (otherLine_ne l)]
  have hdock : ∀ j, (s.updLine l (fun c => { c with quietTimer := 0, quietDue := false })).dock j = s.dock j :=
    fun j => State.updLine_dock ..
  have hlatch := (s.updLine_latching l (fun c => { c with quietTimer := 0, quietDue := false })).keepsN (e := evLine)
  unfold State.quietActivity State.quietReturn
  generalize s.updLine l (fun c => { c with quietTimer := 0, quietDue := false }) = a at hline hother hdock hlatch
  by_cases hq : (s.line l).state = .quiet
  · have haq : (a.line l).state = .quiet := by rw [hline]; exact hq
    rw [if_pos haq]
    have hleft : ∀ j, (a.leaveQuiet l).dock j = s.dock j := fun j => by
      rw [← hdock]
      unfold State.dock
      rw [State.leaveQuiet_docks]
    refine ⟨a.leaveQuiet l, hleft, (State.leaveQuiet_line_ne _ (otherLine_ne l)).trans hother,
      fun _ => a.leaveQuiet_latched l, fun hne => absurd hq hne, fun _ => ?_, State.issueGrants_trace _⟩
    obtain ⟨first, hlow, hret, hlatched⟩ := a.leaveQuiet_returned l
    refine ⟨first, hlow.congr (fun j => State.fitted_of_dock (by rw [hdock])), ?_, hlatched⟩
    rw [hret, hline]
    rfl
  · have haq : (a.line l).state ≠ .quiet := by rw [hline]; exact hq
    rw [if_neg haq]
    exact ⟨a, hdock, hother, hlatch, fun _ => hline, fun h => absurd h hq, .refl a⟩

theorem eq_otherLine {k l : Line} (h : k ≠ l) : k = otherLine l := by
  cases k <;> cases l
  · exact absurd rfl h
  · rfl
  · rfl
  · exact absurd rfl h

/-- The lines before a change of one line that leaves it RUNNING, and after it. -/
theorem LineTrace.withLine {m z y : State} (h : LineTrace m z) {l : Line} (hdock : ∀ j, y.dock j = z.dock j)
    (hother : y.line (otherLine l) = z.line (otherLine l)) (hrun : (y.line l).state ≠ .quiet)
    (hlatched : z.portN.latched &&& evLine = evLine → y.portN.latched &&& evLine = evLine) :
    LineTrace (m.setLine l (y.line l)) y := by
  have hline : ∀ k, (m.setLine l (y.line l)).line k = if k = l then y.line l else m.line k := fun k => by
    rw [State.line_setLine]
  have hm : ∀ k, k ≠ l → y.line k = z.line k := by
    intro k hk
    rw [eq_otherLine hk, hother]
  refine ⟨fun j => ?_, fun j => ?_, fun k hk => ?_, fun k hk => ?_, fun he => ?_⟩
  · rw [State.setLine_fitted, State.fitted_of_dock (s := z) (by rw [hdock]), h.fitted]
  · rw [State.setLine_dock, hdock]
    exact h.filled j
  · rw [hline] at hk ⊢
    by_cases hkl : k = l
    · rw [if_pos hkl, hkl]
    · rw [if_neg hkl] at hk ⊢
      rw [hm k hkl, h.stands k hk]
  · rw [hline] at hk ⊢
    by_cases hkl : k = l
    · rw [if_pos hkl] at hk
      exact absurd hk hrun
    · rw [if_neg hkl] at hk ⊢
      rcases h.quiet k hk with ⟨hsame, hpend⟩ | ⟨⟨first, hlow, hret, hlatch⟩, a, ha⟩
      · refine .inl ⟨(hm k hkl).trans hsame, fun a => ?_⟩
        rw [hdock, State.setLine_dock]
        exact hpend a
      · refine .inr ⟨⟨first, hlow.congr (fun j => (State.setLine_fitted ..).symm), (hm k hkl).trans hret, hlatched hlatch⟩,
          a, ?_⟩
        rw [hdock]
        exact ha
  · rw [State.setLine_portN] at he
    exact hlatched (h.latched he)

/-! ## The line after the reply -/

section
variable {s m z y t : State} {l : Line} (k : PendingDropped s m) (h : LineTrace m z) (w : Wakes z y t l)
include k h w

/-- Quiet activity on a line that has not returned from QUIET yet, or has. -/
theorem Wakes.line (hon : (m.line l).state = .running ∨ (m.line l).state = .quiet) :
    (y.line l).state ≠ .quiet ∧
    ((m.line l).state = .running → t.line l = { m.line l with quietTimer := 0, quietDue := false }) ∧
    ((m.line l).state = .quiet → Returned s t l (m.line l)) := by
  rcases hon with hrun | hq
  · have hz := h.stands l (by rw [hrun]; nofun)
    have hy := w.stays (by rw [hz, hrun]; nofun)
    rw [hz] at hy
    have hyrun : (y.line l).state ≠ .quiet := by rw [hy]; show (m.line l).state ≠ _; rw [hrun]; nofun
    exact ⟨hyrun, fun _ => (w.trace.stands l hyrun).trans hy, fun hq => absurd (hrun.symm.trans hq) nofun⟩
  · have hret : ∃ first, LowestFrom s l 0 first ∧ y.line l = lineReturned (m.line l) first ∧
        y.portN.latched &&& evLine = evLine := by
      rcases h.quiet l hq with ⟨hz, -⟩ | ⟨⟨first, hlow, hz, hlatch⟩, -⟩
      · obtain ⟨first, hlow, hy, hlatch⟩ := w.leaves (by rw [hz, hq])
        exact ⟨first, (hlow.congr h.fitted).congr k.fitted, by rw [hy, hz], hlatch⟩
      · refine ⟨first, hlow.congr k.fitted, ?_, w.latched hlatch⟩
        rw [w.stays (by rw [hz]; nofun), hz]
        rfl
    obtain ⟨first, hlow, hy, hlatch⟩ := hret
    have hyrun : (y.line l).state ≠ .quiet := by rw [hy]; nofun
    exact ⟨hyrun, fun hrun => absurd (hq.symm.trans hrun) nofun,
      fun _ => ⟨first, hlow, (w.trace.stands l hyrun).trans hy, w.trace.latched hlatch⟩⟩

/-- The other line goes on as if the activity were not there. -/
theorem Wakes.otherFollows (hon : (m.line l).state = .running ∨ (m.line l).state = .quiet) :
    LineFollows s t (otherLine l) (m.line (otherLine l)) := by
  obtain ⟨hrun, -, -⟩ := w.line k h hon
  have htrace := (h.withLine w.dock w.other hrun w.latched).trans w.trace
  have hdropped : PendingDropped s (m.setLine l (y.line l)) :=
    ⟨fun j => (State.setLine_fitted ..).trans (k.fitted j), fun j => by rw [State.setLine_dock]; exact k.pending j⟩
  have hfollows := htrace.follows hdropped (otherLine l)
  rwa [State.line_setLine, if_neg (otherLine_ne l)] at hfollows

end

/-- What the station does after a reply was heard, and before its turn's quiet activity: m stands between the commands that
go and those that are set. -/
theorem Heard.settles {s u : State} {d : DockIx} {sent : Pending} {rep : StatusReply} (h : Heard s u d sent rep)
    (hrel : ReleaseInv s) (hfit : s.fitted d = true) (before : Dock) (c : Bool) :
    ∃ m, PendingDropped s m ∧ (∀ l, m.line l = u.line l) ∧
      LineTrace m ((u.settleReply d before rep c).openAfterShow d) := by
  have hdropped := h.dropped
  have hfitu : FitAt u d := FitAt.next ⟨hfit, fun r hr ho => hrel.1.fitted hr ho⟩ hdropped.fitted (.settled h.rides)
  obtain ⟨m, hm⟩ := DropsAt.settleReply (d := d) u before rep c
  refine ⟨m, hdropped.trans (hm.drops.pending hfitu.1), hm.drops.line, (hm.trace hfitu).trans ?_⟩
  unfold State.openAfterShow
  split
  · exact State.setPending_trace _ d Pending.noConfusion
  · exact .refl _

theorem ReplyDue.lineReplied {s : State} {l : Line} {x : Turn} (h : ReplyDue s l x) (rep : StatusReply)
    (hrel : ReleaseInv s) (hfit : s.fitted (dockIx l x.addr) = true) :
    LineReplied s (latchStoreLow s.free.length (s.endStatus l x rep)) l x rep ∧
    LineFollows s (latchStoreLow s.free.length (s.endStatus l x rep)) (otherLine l) (s.line (otherLine l)) := by
  obtain ⟨hon, hturn, -⟩ := h
  have hend := turnEnded_endTurn hturn true
  have hother : ((settleOpen s (dockIx l x.addr) true).endTurn l).line (otherLine l) = s.line (otherLine l) :=
    (s.turnOver_own l x).other
  have hstate : (((settleOpen s (dockIx l x.addr) true).endTurn l).line l).state = (s.line l).state := by
    have hline := (State.endTurn_line (s := settleOpen s (dockIx l x.addr) true) ((settleOpen_line ..).symm ▸ hturn)).2.1
    rwa [settleOpen_line] at hline
  obtain ⟨m, hdropped, hm, htrace⟩ := (State.heard_heard hturn rep).settles hrel hfit
    ((s.turnOver l x).dock (dockIx l x.addr)) (decide (x.cmd = .closeCmd))
  have hline : m.line l = ((settleOpen s (dockIx l x.addr) true).endTurn l).line l := (hm l).trans (s.heard_line l x rep l)
  have hmother : m.line (otherLine l) = s.line (otherLine l) :=
    ((hm _).trans (s.heard_line l x rep _)).trans hother
  rw [← hline] at hend hstate
  rw [← hmother, State.endStatus_eq]
  generalize ((s.heard l x rep).settleReply (dockIx l x.addr) ((s.turnOver l x).dock (dockIx l x.addr)) rep
    (decide (x.cmd = .closeCmd))).openAfterShow (dockIx l x.addr) = z at htrace
  dsimp only
  change let t := latchStoreLow s.free.length (if quietBroken (s.dock (dockIx l x.addr)) rep then z.quietActivity l else z)
    LineReplied s t l x rep ∧ LineFollows s t (otherLine l) (m.line (otherLine l))
  cases hbroken : quietBroken (s.dock (dockIx l x.addr)) rep
  · have hlow := htrace.storeLow s.free.length
    rw [if_neg Bool.false_ne_true]
    exact ⟨⟨m.line l, hend, fun hb => absurd ((quietBroken_of_broken hb).symm.trans hbroken) nofun,
      fun _ => hlow.follows hdropped l⟩, hlow.follows hdropped _⟩
  · obtain ⟨y, hwakes⟩ := z.quietActivity_wakes l
    have hlow : Wakes z y (latchStoreLow s.free.length (z.quietActivity l)) l :=
      { hwakes with trace := hwakes.trace.storeLow s.free.length }
    have hon' : (m.line l).state = .running ∨ (m.line l).state = .quiet := by rwa [hstate]
    obtain ⟨-, hrun, hquiet⟩ := hlow.line hdropped htrace hon'
    rw [if_pos rfl]
    exact ⟨⟨m.line l, hend, fun _ => ⟨hrun, hquiet⟩,
      fun hh => absurd ((quietBroken_of_holds hh).symm.trans hbroken) nofun⟩, hlow.otherFollows hdropped htrace hon'⟩

end Sys2Proof.Machine
end

section
/-! PROOFS. Every good STATUS reply: link, counts and power, its link notices, and the first reply of an UNKNOWN dock (R78,
R87, R91, R92, R100, R122, R155). -/

namespace Sys2Proof.Machine

/-! ## Fields of the node, the turn and how far OPEN has come -/

theorem State.quietActivity_nodeKept (s : State) (l : Line) : NodeKept s (s.quietActivity l) := by
  refine NodeKept.trans (t := s.updLine l (fun c => { c with quietTimer := 0, quietDue := false })) ?_
    (.line (State.quietReturn_frame _ l))
  refine ⟨fun j => by rw [State.updLine_dock]; rfl, fun k => ?_, (ridesFrom_of_eq (State.updLine_rides ..)).1⟩
  rw [State.line_updLine]
  split
  · next hk => rw [hk]; exact ⟨rfl, rfl⟩
  · exact ⟨rfl, rfl⟩

theorem State.endStatus_nodeKept (s : State) (l : Line) (x : Turn) (rep : StatusReply) :
    NodeKept (s.heard l x rep) (latchStoreLow s.free.length (s.endStatus l x rep)) := by
  obtain ⟨m, hm⟩ := DropsAt.settleReply (d := dockIx l x.addr) (s.heard l x rep) ((s.turnOver l x).dock (dockIx l x.addr)) rep
    (decide (x.cmd = .closeCmd))
  have hopen := (hm.drops.kept.trans hm.kept).trans (.line (State.openAfterShow_frame _ (dockIx l x.addr)))
  refine NodeKept.trans ?_ (.pool (latchStoreLow_pool _ _))
  rw [State.endStatus_eq]
  dsimp only
  split
  · exact hopen.trans (State.quietActivity_nodeKept _ l)
  · exact hopen

theorem Dock.SameNode.of_replied {x y : Dock} {rep : StatusReply} {a : Byte} {p : Pending}
    (h : (replied x rep a p).SameNode y) :
    y = { replied y rep y.ack y.pending with hold := x.hold, mismatch := x.mismatch } := by
  unfold Dock.SameNode at h
  exact h.trans (by rw [h]; rfl)

theorem RidesFrom.progressSettled {s u t : State} {d : DockIx} {p : OpenProgress} (h : RidesFrom u t)
    (hu : u.rides = s.rides.map (fun r => r.settled d p)) : ProgressSettled s t d p := by
  intro hsorted r hr y hy hnumber
  obtain ⟨x, hx, hxn, hxp⟩ := h y hy
  rw [hu] at hx
  obtain ⟨r', hr', rfl⟩ := List.mem_map.mp hx
  rw [Ride.settled_number] at hxn
  rw [hsorted.unique hr hr' (hnumber.symm.trans hxn.symm), hxp]

/-- A bike of another tag than the stored one leaves the line RUNNING (R135, R137). -/
theorem ReplyDue.tagChanges {s : State} {l : Line} {x : Turn} (h : ReplyDue s l x) {rep : StatusReply}
    (hbike : rep.bike = true) (htag : rep.tag ≠ (s.dock (dockIx l x.addr)).tag) :
    ((latchStoreLow s.free.length (s.endStatus l x rep)).line l).state = .running ∧
    ((latchStoreLow s.free.length (s.endStatus l x rep)).line l).quietTimer = 0 := by
  have hbroken : quietBroken (s.dock (dockIx l x.addr)) rep = true := quietBroken_of_broken (.inr (.inl ⟨hbike, htag⟩))
  have hreply := (ReplyFrame.handleStatus (s.turnOver l x) (dockIx l x.addr) rep (decide (x.cmd = .closeCmd))).trans
    (ReplyFrame.openAfterShow _ (dockIx l x.addr))
  have hon := hreply.runs (l := l) (by
    rw [State.offerToken_line]
    exact (State.beforeOffer_state h.2.1).symm ▸ h.1)
  rw [State.handleStatus_eq] at hon
  rw [(latchStoreLow_pool _ _).line, State.endStatus_eq]
  dsimp only
  rw [show (newToken (s.dock (dockIx l x.addr)) rep || bikeChange (s.dock (dockIx l x.addr)) rep) = true from hbroken,
    if_pos rfl]
  exact State.quietActivity_line hon

/-! ## NODE_BACK and NODE_POWER_LOW (R87, R100, R155) -/

/-- A record of another kind suppresses nothing. -/
theorem State.suppressed_insertTail (s : State) (x : Posted) (free : List Nat) (sub : Subject) (k : Kind)
    (hx : x.suppresses sub k = false) :
    State.suppressed { s with free := free, listN := insertTail x s.listN } sub k = s.suppressed sub k := by
  unfold State.suppressed
  dsimp only
  rw [List.any_append, List.any_append, (perm_insertTail x s.listN).any_eq, List.any_cons, hx, Bool.false_or]

/-- The link notices of a reply, by what the record before it says. -/
theorem State.linkNotices_eq (s : State) (d : DockIx) (before : Dock) (r : StatusReply) :
    s.linkNotices d before r =
      let s1 := if before.link = .lost then s.notice (.dock d) (.nodeBack .status) else s
      if r.powerLow = true ∧ before.powerLow = false then s1.notice (.dock d) .nodePowerLow else s1 := by
  unfold State.linkNotices
  cases r.powerLow <;> cases before.powerLow <;> rfl

/-- Both link notices, each at its level and with a slot (R87, R100, R155). -/
theorem State.linkNotices_both {s : State} {d : DockIx} {n1 n2 : Nat} {rest : List Nat} (hfree : s.free = n1 :: n2 :: rest)
    (hback : s.level .nodeBack ≠ 0) (hpower : s.level .nodePowerLow ≠ 0) (hback' : s.suppressed (.dock d) .nodeBack = false)
    (hpower' : s.suppressed (.dock d) .nodePowerLow = false) :
    let t := (s.notice (.dock d) (.nodeBack .status)).notice (.dock d) .nodePowerLow
    t.free = rest ∧
    PostedN s t n1 .nodeBack (.notice (.dock d) s.minute s.second (.nodeBack .status)) ∧
    PostedN s t n2 .nodePowerLow (.notice (.dock d) s.minute s.second .nodePowerLow) := by
  intro t
  have hfirst := State.notice_posts (b := .nodeBack .status) hback hback' hfree
  have hsup : (s.notice (.dock d) (.nodeBack .status)).suppressed (.dock d) .nodePowerLow = false := by
    rw [hfirst, State.suppressed_insertTail, hpower']
    exact decide_eq_false (fun h => nomatch h.2)
  have hsecond := State.notice_posts (s := s.notice (.dock d) (.nodeBack .status)) (b := .nodePowerLow) (n := n2)
    (rest := rest) (by rw [hfirst]; exact hpower) hsup (by rw [hfirst])
  rw [hfirst] at hsecond
  have ht : t = _ := (congrArg (fun u : State => u.notice (.dock d) .nodePowerLow) hfirst).trans hsecond
  rw [ht]
  exact ⟨rfl, mem_insertTail.mpr (.inr (mem_insertTail.mpr (.inl rfl))), mem_insertTail.mpr (.inl rfl)⟩

/-! ## A reply that posts nothing but its link notices (R91, R92) -/

/-- The dock is left a record, and what the link notices have posted stands. -/
structure FirstReply (s w t : State) (d : DockIx) (sent : Pending) (rep : StatusReply) (f : Dock → Dock) : Prop where
  replies : Replies s t d sent rep f
  free    : t.free = w.free
  listN   : t.listN = w.listN
  latched : ∀ e : Byte, w.portN.latched &&& e = e → t.portN.latched &&& e = e

theorem State.dockReply_sound {s : State} {d : DockIx} {rep : StatusReply} (c : Bool) (hjam : rep.latch ≠ .jammed)
    (hreader : rep.readerFault = false) : s.dockReply d rep c = s.plainReply d rep c :=
  State.dockReply_plain c hjam (fun hf => absurd (hf.symm.trans hreader) (by decide))

theorem State.relatchDock_latching (s : State) (d : DockIx) : Latching s (s.relatchDock d) := by
  have hset : Latching s (s.updDock d (fun x => { x with state := .relatching, relatch := 0 })) := .of_ports rfl rfl
  exact hset.trans (State.setPending_latching _ d .closeCmd)

section
variable {s w v v' t : State} {d : DockIx} {sent : Pending} {rep : StatusReply}

theorem Heeded.firstReply (h : Heeded s w v t d sent rep) {f : Dock → Dock} (hf : ∀ x, (f x).ack = x.ack) (hv : v = v')
    (k : DockSet w v' d (f (w.dock d))) (hl : Latching w v') (hq : (f (w.dock d)).state ≠ .queued) :
    FirstReply s w t d sent rep f := by
  have hclosed := h.settled hv (by rw [k.dock]; exact hq)
  exact ⟨h.replies hf k.kept k.dock hclosed, hclosed.pool.1.trans k.pool.1, hclosed.pool.2.1.trans k.pool.2.1,
    fun e he => hclosed.latchedN e (hl.keepsN he)⟩

variable (h : Unbound s w t d sent rep) (hjam : rep.latch ≠ .jammed) (hreader : rep.readerFault = false)
include h hjam hreader

theorem Unbound.empty_stays (hstate : (s.dock d).state = .empty) (hbike : ¬ (rep.bike = true ∧ rep.latch = .locked)) :
    FirstReply s w t d sent rep id := by
  refine h.firstReply (fun _ => rfl) ((State.dockReply_sound _ hjam hreader).trans ?_) (.refl w d) (.refl w)
    (by rw [id, h.state, hstate]; nofun)
  unfold State.plainReply
  rw [h.state, hstate]
  refine if_neg (fun hboth => hbike ?_)
  obtain ⟨hb, hl⟩ := Bool.and_eq_true_iff.mp hboth
  exact ⟨hb, of_decide_eq_true hl⟩

section
variable (hstate : (s.dock d).state = .unknown)
include hstate

theorem Unbound.unknown_empty (hbike : rep.bike = false) : FirstReply s w t d sent rep Dock.toEmpty := by
  refine h.firstReply (fun _ => rfl) ((State.dockReply_sound _ hjam hreader).trans ?_) (.updDock w d Dock.toEmpty) ?_ nofun
  · unfold State.plainReply
    rw [h.state, hstate, hbike]
    rfl
  · exact .of_ports rfl rfl

theorem Unbound.unknown_docked (hbike : rep.bike = true) (hlatch : rep.latch = .locked) :
    FirstReply s w t d sent rep (fun x => { x with state := .docked, tag := rep.tag, since := s.minute }) := by
  refine h.firstReply (fun _ => rfl) ((State.dockReply_sound _ hjam hreader).trans ?_)
    (.updDock w d (fun x => { x with state := .docked, tag := rep.tag, since := s.minute })) ?_ nofun
  · unfold State.plainReply State.dockBike
    rw [h.state, hstate, hbike, hlatch, h.minute]
    rfl
  · exact .of_ports rfl rfl

theorem Unbound.unknown_open (hbike : rep.bike = true) (hlatch : rep.latch = .unlatched) :
    FirstReply s w t d sent rep (fun x => { x with
      state := .relatching, tag := rep.tag, since := s.minute, relatch := 0, pending := .closeCmd }) := by
  have hset := DockSet.updDock w d (fun x => { x with state := .docked, tag := rep.tag, since := s.minute })
  have hrelatch := DockSet.relatchDock (w.updDock d (fun x => { x with
    state := .docked, tag := rep.tag, since := s.minute })) d
  rw [hset.dock] at hrelatch
  refine h.firstReply (fun _ => rfl) ((State.dockReply_sound _ hjam hreader).trans ?_) (hset.trans hrelatch) ?_ nofun
  · unfold State.plainReply State.dockBike
    rw [h.state, hstate, hbike, hlatch, h.minute]
    rfl
  · have hdocked : Latching w (w.updDock d (fun x => { x with
        state := .docked, tag := rep.tag, since := s.minute })) := .of_ports rfl rfl
    exact hdocked.trans (State.relatchDock_latching _ d)

end

end

/-! ## The link notices alone (R87, R100, R155) -/

section
variable {s u t : State} {d : DockIx} {sent : Pending} {rep : StatusReply} {before : Dock}
  (h : Handled s u t d sent rep before) (hfree : t.free = (u.linkNotices d before rep).free)
  (hlist : t.listN = (u.linkNotices d before rep).listN)
  (hlatched : ∀ e : Byte, (u.linkNotices d before rep).portN.latched &&& e = e → t.portN.latched &&& e = e)
include h hfree hlist hlatched

/-- One notice, which nothing but the heard reply precedes. -/
theorem Handled.linkNotified {b : NoticeBody} (hone : u.linkNotices d before rep = u.notice (.dock d) b) :
    Notified s t s.free (.dock d) b := by
  rw [hone] at hfree hlist hlatched
  have hkept := AtDock.heard h.heard
  have hnotice := (u.notice_notified (.dock d) b).seen hkept.base hkept.ports h.heard.pool.2.1
  rw [h.heard.pool.1] at hnotice
  exact hnotice.carry hfree hlist (hlatched _)

theorem Handled.linkNoticed (hlistK : t.listK = s.listK) :
    ((s.dock d).link ≠ .lost → (rep.powerLow = true → (s.dock d).powerLow = true) → SamePool s t) ∧
    ((s.dock d).link = .lost → (rep.powerLow = true → (s.dock d).powerLow = true) →
      Notified s t s.free (.dock d) (.nodeBack .status)) ∧
    ((s.dock d).link ≠ .lost → rep.powerLow = true → (s.dock d).powerLow = false →
      Notified s t s.free (.dock d) .nodePowerLow) ∧
    (∀ (n1 n2 : Nat) (rest : List Nat), (s.dock d).link = .lost → rep.powerLow = true →
      (s.dock d).powerLow = false → s.free = n1 :: n2 :: rest → s.level .nodeBack ≠ 0 →
      s.level .nodePowerLow ≠ 0 → s.suppressed (.dock d) .nodeBack = false →
      s.suppressed (.dock d) .nodePowerLow = false →
      t.free = rest ∧
      PostedN s t n1 .nodeBack (.notice (.dock d) s.minute s.second (.nodeBack .status)) ∧
      PostedN s t n2 .nodePowerLow (.notice (.dock d) s.minute s.second .nodePowerLow)) := by
  have hrise : (rep.powerLow = true → (s.dock d).powerLow = true) → ¬ (rep.powerLow = true ∧ before.powerLow = false) :=
    fun himp hboth => absurd ((h.power.symm.trans hboth.2).symm.trans (himp hboth.1)) nofun
  have hwhole := u.linkNotices_eq d before rep
  refine ⟨fun hlink hpower => ?_, fun hlink hpower => h.linkNotified hfree hlist hlatched ?_,
    fun hlink hlow hnot => h.linkNotified hfree hlist hlatched ?_,
    fun n1 n2 rest hlink hlow hnot hslots hback hpower hback' hpower' => ?_⟩
  · rw [NoLinkNotice.linkNotices ⟨hlink, hpower⟩ h.link h.power] at hfree hlist
    exact ⟨hfree.trans h.heard.pool.1, hlist.trans h.heard.pool.2.1, hlistK⟩
  · rw [hwhole]
    dsimp only
    rw [if_neg (hrise hpower), if_pos (h.link.trans hlink)]
  · rw [hwhole]
    dsimp only
    rw [if_pos ⟨hlow, h.power.trans hnot⟩, if_neg (h.link.symm ▸ hlink)]
  · dsimp only at hwhole
    rw [if_pos ⟨hlow, h.power.trans hnot⟩, if_pos (h.link.trans hlink)] at hwhole
    have hbase := h.heard.base
    have hsup : ∀ k, u.suppressed (.dock d) k = s.suppressed (.dock d) k := fun k => by
      unfold State.suppressed
      rw [h.heard.pool.2.1, h.heard.portN]
    obtain ⟨hrest, hfirst, hsecond⟩ := State.linkNotices_both (s := u) (h.heard.pool.1.trans hslots)
      ((SameBase.level hbase _).symm ▸ hback) ((SameBase.level hbase _).symm ▸ hpower) ((hsup _).trans hback')
      ((hsup _).trans hpower')
    obtain ⟨hminute, hsecondOf, hclock, -⟩ := id hbase
    rw [PostedN, SameBase.level hbase, hclock, hminute, hsecondOf] at hfirst hsecond
    rw [PostedN, PostedN, hfree, hlist, hwhole]
    exact ⟨hrest, hfirst, hsecond⟩

end

/-- An UNKNOWN dock, or an EMPTY one without a latched bike: its record changes, and no return is looked up. -/
theorem Unbound.first {s w t : State} {d : DockIx} {sent : Pending} {rep : StatusReply} (h : Unbound s w t d sent rep)
    (hjam : rep.latch ≠ .jammed) (hreader : rep.readerFault = false)
    (hstate : (s.dock d).state = .unknown ∨ (s.dock d).state = .empty ∧ ¬ (rep.bike = true ∧ rep.latch = .locked)) :
    ∃ f, FirstReply s w t d sent rep f := by
  rcases hstate with hunknown | ⟨hempty, hbike⟩
  · cases hbike : rep.bike
    · exact ⟨_, h.unknown_empty hjam hreader hunknown hbike⟩
    · cases hlatch : rep.latch with
      | jammed => exact absurd hlatch hjam
      | locked => exact ⟨_, h.unknown_docked hjam hreader hunknown hbike hlatch⟩
      | unlatched => exact ⟨_, h.unknown_open hjam hreader hunknown hbike hlatch⟩
  · exact ⟨_, h.empty_stays hjam hreader hempty hbike⟩

/-- Base and ports after any good STATUS reply. -/
theorem ReplyDue.replyFrame {s : State} {l : Line} {x : Turn} (h : ReplyDue s l x) (rep : StatusReply) :
    SameBase s (latchStoreLow s.free.length (s.endStatus l x rep)) ∧
    PortsKept s (latchStoreLow s.free.length (s.endStatus l x rep)) := by
  obtain ⟨hride, -⟩ := State.endStatus_offered h.1 h.2.1 rep
  have hall := hride.trans (latchStoreLow_pool s.free.length (s.endStatus l x rep)).ride
  have hheard := AtDock.heard (State.heard_heard h.2.1 rep)
  exact ⟨SameBase.trans hheard.base hall.station.1, PortsKept.trans hheard.ports hall.ports⟩

/-- Turn and error count after any good STATUS reply (R120, R128). -/
theorem ReplyDue.turnOver {s : State} {l : Line} {x : Turn} (h : ReplyDue s l x) (rep : StatusReply) :
    ((latchStoreLow s.free.length (s.endStatus l x rep)).line l).turn = none ∧
    ((latchStoreLow s.free.length (s.endStatus l x rep)).line l).errors = (s.line l).errors := by
  obtain ⟨hturn, -, -, herrors, -⟩ :=
    State.endTurn_line (s := settleOpen s (dockIx l x.addr) true) (l := l) ((settleOpen_line ..).symm ▸ h.2.1)
  obtain ⟨hkept, hsame⟩ := (s.endStatus_nodeKept l x rep).turn l
  rw [s.heard_line] at hkept hsame
  rw [settleOpen_line] at herrors
  exact ⟨hkept.trans hturn, hsame.trans herrors⟩

end Sys2Proof.Machine

namespace Sys2Proof.Proofs

open Sys2Proof.Machine

/-- Settles O35: the fields that no handling of bike and latch writes, the line after the end of the turn, and the reply of
a dock whose bike is not looked up. -/
theorem linkAndFirstReply : Obligations.LinkAndFirstReply := by
  intro s l x rep d hdue
  have hhandled := hdue.handledAt rep
  have hnode := s.endStatus_nodeKept l x rep
  obtain ⟨hbase, hports⟩ := hdue.replyFrame rep
  obtain ⟨hturn, herrors⟩ := hdue.turnOver rep
  have hlines := hdue.lineReplied rep
  refine ⟨_, exec_statusReply_due hdue rep, ?_, hturn, herrors, hbase, hports,
    hnode.rides.progressSettled hhandled.heard.rides, fun hrel hfit => hlines hrel hfit,
    fun hbike htag => hdue.tagChanges hbike htag, ?_⟩
  · have hsame := hnode.node d
    rw [hhandled.heard.dock] at hsame
    exact hsame.of_replied
  · intro hnone hjam hreader hout pending
    have hw := hhandled.unbound hnone
    have hnotes := fun f (hf : FirstReply s _ _ d x.cmd rep f) =>
      hhandled.linkNoticed hf.free hf.listN hf.latched hf.replies.kept.listK
    refine ⟨fun hstate => ?_, fun hstate hbike => ?_, fun hstate hbike hlatch => ?_, fun hstate hbike hlatch => ?_,
      fun hstate hbike => ?_⟩
    · obtain ⟨f, hf⟩ := hw.first hjam hreader hstate
      have hat := hf.replies.kept
      exact ⟨hat.docks, hat.grantsStand, hat.rides, hat.creds, hat.listK, hnotes f hf⟩
    · exact (hw.unknown_empty hjam hreader hstate hbike).replies.dock hout
    · exact (hw.unknown_docked hjam hreader hstate hbike hlatch).replies.dock hout
    · exact (hw.unknown_open hjam hreader hstate hbike hlatch).replies.dock hout
    · exact (hw.empty_stays hjam hreader hstate hbike).replies.dock hout

end Sys2Proof.Proofs
end

section
/-! PROOFS. Turns that fail: the events, the end of such a turn, the loss of the link, and the line error after it (R120,
R121, R123, R124, R128 to R130). -/

namespace Sys2Proof.Machine

/-! ## The events (R121, R123, R137) -/

theorem State.phase_inTurn {s : State} {l : Line} {x : Turn}
    (hon : (s.line l).state = .running ∨ (s.line l).state = .quiet) (hturn : (s.line l).turn = some x) : s.phase l = some x.phase := by
  unfold State.phase State.lineOn
  rw [if_pos (decide_eq_true hon), hturn]
  rfl

theorem FailsTurn.exec_fails {s : State} {l : Line} {x : Turn} {i : Instr} {isError : Bool} (h : FailsTurn s l x i isError) :
    exec i s = .next (latchStoreLow s.free.length (s.endFailed l x isError)) := by
  obtain ⟨hon, hturn, hevent⟩ := h
  have hphase := State.phase_inTurn hon hturn
  rcases hevent with ⟨m, rest, rfl, rfl, hwhen, hbad⟩ | ⟨m, rfl, rfl, hwhen⟩ | ⟨rfl, rfl, hwhen⟩ | ⟨rfl, hwhen, rfl⟩
  · have hopen : s.replyOpen l m = true := by
      unfold State.replyOpen
      rw [hphase]
      exact decide_eq_true (hwhen.imp (congrArg some) (congrArg some))
    show execBadReply l m rest s = _
    rw [execBadReply, event_eq, hturn]
    dsimp only
    rw [if_pos ⟨hopen, hbad⟩]
  · show execReplyGapTimeout l s = _
    rw [execReplyGapTimeout, event_eq, hturn, hphase, hwhen]
  · show execWake l s = _
    rw [execWake, event_eq, hturn]
    dsimp only
    rw [if_pos (hphase.trans (congrArg some hwhen))]
  · show execReplyWindowExpiry l s = _
    rw [execReplyWindowExpiry, event_eq, hturn]
    dsimp only
    rw [if_pos (hphase.trans (congrArg some hwhen))]

theorem ReplyDue.exec_busy {s : State} {l : Line} {x : Turn} (h : ReplyDue s l x) :
    exec (.busyReply l) s = .next (latchStoreLow s.free.length (s.endBusy l x)) := by
  obtain ⟨-, hturn, -⟩ := id h
  show execBusyReply l s = _
  rw [execBusyReply, event_eq, hturn]
  dsimp only
  rw [if_pos h.replyOpen]

/-! ## The end of the turn (R119, R120, R124) -/

/-- The turn is over and how far OPEN has come is settled; of the dock record only link, failed turns and busy streak may
differ. -/
structure Struck (s a : State) (l : Line) (x : Turn) (p : OpenProgress) : Prop where
  frame : RideFrame s a
  prior : Prior s a (dockIx l x.addr) p
  dock  : a.dock (dockIx l x.addr) = { s.dock (dockIx l x.addr) with
    link := (a.dock (dockIx l x.addr)).link
    failed := (a.dock (dockIx l x.addr)).failed
    busy := (a.dock (dockIx l x.addr)).busy }
  ended : TurnEnded s l x (a.line l)
  line  : (a.line l).turn = none ∧ (a.line l).state = (s.line l).state ∧ (a.line l).errors = (s.line l).errors
  other : a.line (otherLine l) = s.line (otherLine l)

namespace Struck

variable {s a : State} {l : Line} {x : Turn} {p : OpenProgress}

/-- A write of the dock's link, failed turns or busy streak. -/
theorem updDock (h : Struck s a l x p) {f : Dock → Dock}
    (hf : ∀ y : Dock, f y = { y with link := (f y).link, failed := (f y).failed, busy := (f y).busy }) :
    Struck s (a.updDock (dockIx l x.addr) f) l x p where
  frame := h.frame.trans (State.updDock_ride a _ f)
  prior := ⟨h.prior.rides, h.prior.creds, h.prior.pool, h.prior.agree.trans (.updDock a _ f)⟩
  dock := by
    rw [State.dock_updDock, if_pos rfl, hf, h.dock]
  ended := by rw [State.updDock_line]; exact h.ended
  line := by rw [State.updDock_line]; exact h.line
  other := by rw [State.updDock_line]; exact h.other

end Struck

theorem State.struck {s : State} {l : Line} {x : Turn} (h : (s.line l).turn = some x) (b : Bool) :
    Struck s ((settleOpen s (dockIx l x.addr) b).endTurn l) l x (if b then .delivered else .notSent) := by
  have hown := (settleOpen_own s (dockIx l x.addr) b l).trans (State.endTurn_own _ l)
  have hturn : ((settleOpen s (dockIx l x.addr) b).line l).turn = some x := (settleOpen_line ..).symm ▸ h
  obtain ⟨hover, hstate, -, herrors, -⟩ := State.endTurn_line hturn
  rw [settleOpen_line] at hstate herrors
  have hended := turnEnded_endTurn h b
  have hrides : ((settleOpen s (dockIx l x.addr) b).endTurn l).rides =
      s.rides.map (fun r => r.settled (dockIx l x.addr) (if b then .delivered else .notSent)) := State.endTurn_rides _ l
  have hframe : RideFrame s ((settleOpen s (dockIx l x.addr) b).endTurn l) :=
    (settleOpen_ride s _ b).trans (State.endTurn_ride _ l)
  generalize (settleOpen s (dockIx l x.addr) b).endTurn l = a at *
  have hruns : ∀ j, a.lineRuns j = s.lineRuns j := by
    intro j
    unfold State.lineRuns
    by_cases hl : lineOf j = l
    · rw [hl, hstate]
    · rw [eq_otherLine hl, hown.other]
  have hagree : AgreeBut s a (dockIx l x.addr) := ⟨hown.settings, hruns, hown.releaseQ, hown.grants, fun j _ => hown.dock j⟩
  refine ⟨hframe, ⟨hrides, hown.creds, hown.pool, hagree⟩, ?_, hended, ⟨hover, hstate, herrors⟩, hown.other⟩
  rw [hown.dock]

/-- The end of a turn writes no dock record. -/
theorem State.struck_dock (s : State) (l : Line) (d j : DockIx) (b : Bool) :
    ((settleOpen s d b).endTurn l).dock j = s.dock j :=
  ((settleOpen_own s d b l).trans (State.endTurn_own _ l)).dock j

/-! ## Failed turns (R87, R124) -/

/-- What the loss of the link does to the ride of the dock, and its NODE_LOST (R75, R76, R166). -/
def State.lostRide (s : State) (d : DockIx) (r : Ride) : State :=
  match r.state with
  | .queued => (s.cancelRide r .dockLost).notice (.dock d) (.nodeLost (some (r.number, .cancelled)))
  | .releasing => (s.relatchRide r).notice (.dock d) (.nodeLost (some (r.number, .toRelatching)))
  | .relatching => s.notice (.dock d) (.nodeLost (some (r.number, .unchanged)))
  | .opened => s

/-- What the change of a link to LOST does once it is stored. -/
def State.linkLost (s : State) (d : DockIx) : State :=
  match s.rideAt d with
  | none => s.notice (.dock d) (.nodeLost none)
  | some r => s.lostRide d r

theorem State.loseLink_eq (s : State) (d : DockIx) :
    s.loseLink d = (s.updDock d (fun y => { y with link := .lost })).linkLost d := rfl

theorem State.failTurn_third {s : State} {d : DockIx} (h : (s.dock d).failed = 2) (hlink : (s.dock d).link ≠ .lost) :
    s.failTurn d = ((s.updDock d (fun y => { y with failed := 3 })).updDock d (fun y => { y with link := .lost })).linkLost
      d := by
  unfold State.failTurn
  rw [h]
  exact (if_neg (by decide)).trans ((if_pos ⟨rfl, hlink⟩).trans (State.loseLink_eq _ d))

theorem State.failTurn_early {s : State} {d : DockIx} (h : (s.dock d).failed < 2) :
    s.failTurn d = s.updDock d (fun y => { y with failed := (s.dock d).failed + 1 }) := by
  unfold State.failTurn Config.lostAt
  dsimp only
  rw [if_neg (by omega), if_neg (fun hboth => absurd hboth.1 (by omega))]

theorem State.failTurn_late {s : State} {d : DockIx} (h : (s.dock d).failed = 3) : s.failTurn d = s := by
  unfold State.failTurn
  rw [h]
  exact if_pos (Nat.le_refl 3)

end Sys2Proof.Machine
end

section
/-! PROOFS. The line error that a failed turn counts after the loss of its link, and the break at the threshold (R128 to R130,
R169). -/

namespace Sys2Proof.Machine

theorem State.enterBreak_rides {s : State} {l : Line} (h : (s.line l).turn = none) (c : BreakCause) :
    (s.enterBreak l c).rides = s.rides := by
  have habandon : s.abandonTurn l = s := by
    unfold State.abandonTurn
    rw [h]
  unfold State.enterBreak State.latchLineIf
  rw [habandon]
  dsimp only
  split
  · rw [State.latch_rides, State.updLine_rides]
  · exact State.updLine_rides ..

/-- What follows a failed turn of s that has left v: the error it counts, if any, and the break that this brings. -/
structure AfterError (s v t : State) (l : Line) (isError : Bool) : Prop where
  frame   : RideFrame v t
  rides   : t.rides = v.rides
  creds   : t.creds = v.creds
  docks   : t.docks = v.docks
  queue   : t.releaseQ = v.releaseQ
  grants  : t.grants = v.grants
  listK   : t.listK = v.listK
  other   : t.line (otherLine l) = v.line (otherLine l)
  latched : ∀ e : Byte, v.portN.latched &&& e = e → t.portN.latched &&& e = e
  below   : ¬ RestartsItself s l isError →
    t.line l = { v.line l with errors := (v.line l).errors + (if isError then 1 else 0) } ∧
    t.free = v.free ∧ t.listN = v.listN
  broken  : RestartsItself s l isError →
    t.line l = inBreak (s.settings.rate l) .errors ∧ t.portN.latched &&& evLine = evLine ∧
    Notified v t v.free (.line l) (.lineDegraded ((s.line l).errors + 1) s.settings.errThreshold)

/-- The line error is counted where it does not reach the threshold. -/
theorem State.lineError_below {v : State} {l : Line} (h : ¬ v.settings.errThreshold ≤ (v.line l).errors + 1) :
    v.lineError l = v.updLine l (fun c => { c with errors := (v.line l).errors + 1 }) := by
  unfold State.lineError
  exact if_neg h

theorem State.lineError_broken {v : State} {l : Line} (h : v.settings.errThreshold ≤ (v.line l).errors + 1) :
    v.lineError l = ((v.updLine l (fun c => { c with errors := (v.line l).errors + 1 })).notice (.line l)
      (.lineDegraded ((v.line l).errors + 1) v.settings.errThreshold)).enterBreak l .errors := by
  unfold State.lineError
  exact if_pos h

section
variable {s v : State} {l : Line} {isError : Bool} (hset : v.settings = s.settings) (herr : (v.line l).errors = (s.line l).errors)
include hset herr

theorem AfterError.counted (hbelow : ¬ RestartsItself s l isError) :
    AfterError s v (if isError then v.lineError l else v) l isError := by
  cases isError with
  | false =>
    exact ⟨.refl v, rfl, rfl, rfl, rfl, rfl, rfl, rfl, fun _ => id, fun _ => ⟨rfl, rfl, rfl⟩, fun h => absurd h hbelow⟩
  | true =>
    rw [if_pos rfl, State.lineError_below (by rw [hset, herr]; exact fun h => hbelow ⟨rfl, h⟩)]
    have hown := v.updLine_own l (fun c => { c with errors := (v.line l).errors + 1 })
    obtain ⟨hfree, hlistN, hlistK⟩ := hown.pool
    refine ⟨v.updLine_ride l _, State.updLine_rides .., hown.creds, hown.docks, hown.releaseQ, hown.grants, hlistK,
      hown.other, fun e he => by rwa [hown.portN], fun _ => ⟨?_, hfree, hlistN⟩, fun h => absurd h hbelow⟩
    rw [State.line_updLine, if_pos rfl]
    rfl

theorem AfterError.broke (hbroken : RestartsItself s l isError) (hturn : (v.line l).turn = none)
    (hon : (v.line l).state ≠ .brk) : AfterError s v (if isError then v.lineError l else v) l isError := by
  obtain ⟨rfl, hreached⟩ := hbroken
  rw [if_pos rfl, State.lineError_broken (by rwa [hset, herr])]
  have hframe := v.updLine_ride l (fun c => { c with errors := (v.line l).errors + 1 })
  have hown := v.updLine_own l (fun c => { c with errors := (v.line l).errors + 1 })
  have hline : (v.updLine l (fun c => { c with errors := (v.line l).errors + 1 })).line l =
      { v.line l with errors := (v.line l).errors + 1 } := by rw [State.line_updLine, if_pos rfl]
  have hrides : (v.updLine l (fun c => { c with errors := (v.line l).errors + 1 })).rides = v.rides :=
    State.updLine_rides ..
  generalize v.updLine l (fun c => { c with errors := (v.line l).errors + 1 }) = a at *
  have hpool := a.notice_pool (.line l) (.lineDegraded ((v.line l).errors + 1) v.settings.errThreshold)
  have hlistK := a.notice_listK (.line l) (.lineDegraded ((v.line l).errors + 1) v.settings.errThreshold)
  have hlatching := a.notice_latching (.line l) (.lineDegraded ((v.line l).errors + 1) v.settings.errThreshold)
  have hnotified := (a.notice_notified (.line l) (.lineDegraded ((v.line l).errors + 1) v.settings.errThreshold)).seen
    hframe.station.1 hframe.ports hown.pool.2.1
  generalize a.notice (.line l) (.lineDegraded ((v.line l).errors + 1) v.settings.errThreshold) = c at *
  have hcline : c.line l = { v.line l with errors := (v.line l).errors + 1 } := (hpool.line l).trans hline
  have hbreak := c.enterBreak_spec l .errors
  have hlatchedN : ∀ e : Byte, c.portN.latched &&& e = e → (c.enterBreak l .errors).portN.latched &&& e = e := by
    intro e he
    rw [hbreak.portN]
    split
    · exact byte_or_keeps he
    · exact he
  obtain ⟨hfree, hlistN, hlistKB⟩ := hbreak.pool
  have hall : RideFrame v (c.enterBreak l .errors) := (hframe.trans hpool.ride).trans hbreak.frame
  refine ⟨hall, ?_, ?_, ?_, ?_, ?_, ?_, ?_, ?_, fun h => absurd ⟨rfl, hreached⟩ h, fun _ => ⟨?_, ?_, ?_⟩⟩
  · exact (State.enterBreak_rides (by rw [hcline]; exact hturn) _).trans (hpool.rides.trans hrides)
  · exact hbreak.creds.trans (hpool.creds.trans hown.creds)
  · exact hbreak.docks.trans (hpool.docks.trans hown.docks)
  · exact hbreak.queue.trans (hpool.releaseQ.trans hown.releaseQ)
  · exact hbreak.grants.trans (hpool.grants.trans hown.grants)
  · exact hlistKB.trans (hlistK.trans hown.pool.2.2)
  · exact hbreak.other.trans ((hpool.line _).trans hown.other)
  · exact fun e he => hlatchedN e (hlatching.keepsN (by rwa [hown.portN]))
  · have hcset : c.settings = v.settings := (hframe.trans hpool.ride).station.1.2.2.2.2.2.2.2.1
    rw [hbreak.line, hcset, hset]
  · rw [hbreak.portN, if_pos (decide_eq_true (by rw [hcline]; exact hon))]
    exact c.latch_latched_self evLine
  · rw [← hset, ← herr]
    rw [hown.free] at hnotified
    exact hnotified.carry hfree hlistN (hlatchedN _)

end

namespace AfterError

variable {s v t : State} {l : Line} {isError : Bool}

theorem storeLow (h : AfterError s v t l isError) (n : Nat) : AfterError s v (latchStoreLow n t) l isError := by
  have hsame := latchStoreLow_sameTables n t
  have hpool := latchStoreLow_pool n t
  refine ⟨h.frame.trans hpool.ride, hsame.rides.trans h.rides, hsame.creds.trans h.creds, hsame.docks.trans h.docks,
    hsame.releaseQ.trans h.queue, hsame.grants.trans h.grants, hsame.listK.trans h.listK, (hpool.line _).trans h.other,
    fun e he => latchStoreLow_latched (h.latched e he) n, fun hb => ?_, fun hb => ?_⟩
  · obtain ⟨hline, hfree, hlist⟩ := h.below hb
    exact ⟨(hpool.line l).trans hline, hsame.free.trans hfree, hsame.listN.trans hlist⟩
  · obtain ⟨hline, hlatched, hnotified⟩ := h.broken hb
    exact ⟨(hpool.line l).trans hline, latchStoreLow_latched hlatched n,
      hnotified.carry hsame.free hsame.listN (fun ho => latchStoreLow_latched ho n)⟩

theorem dock (h : AfterError s v t l isError) (j : DockIx) : t.dock j = v.dock j := by
  unfold State.dock
  rw [h.docks]

/-- LINE_DEGRADED, where the line restarts itself, after another notice. -/
theorem notifiedThen (h : AfterError s v t l isError) (hframe : RideFrame s v) {free : List Nat} {sub : Subject}
    {b : NoticeBody} (hn : Notified s v free sub b) :
    NotifiedThen s t free sub b (if RestartsItself s l isError then
      some (.line l, .lineDegraded ((s.line l).errors + 1) s.settings.errThreshold) else none) := by
  obtain ⟨⟨hmin, hsec, hclock, -, -, -, hlevels, -⟩, -⟩ := hframe.station
  refine ⟨v, hn, h.latched _, hmin, hsec, hclock, hlevels, hframe.ports.1.2.2.1, ?_⟩
  by_cases hb : RestartsItself s l isError
  · rw [if_pos hb]
    exact (h.broken hb).2.2
  · rw [if_neg hb]
    exact (h.below hb).2

/-- Where grants stand before the error they stand after it. -/
theorem grantsStand (h : AfterError s v t l isError) {d : DockIx} (k : GrantsStand s v d) : GrantsStand s t d := by
  intro hinv hissued
  obtain ⟨hqueue, hgrants, hdocks⟩ := k hinv hissued
  exact ⟨h.queue.trans hqueue, h.grants.trans hgrants, fun j hj => (h.dock j).trans (hdocks j hj)⟩

theorem grantsMoved (h : AfterError s v t l isError) {gone but : List DockIx} (k : GrantsMoved s v gone but) :
    GrantsMoved s t gone but := by
  intro hinv hissued
  obtain ⟨⟨hqueue, hgrants⟩, hdocks⟩ := k hinv hissued
  exact ⟨⟨h.queue.trans hqueue, h.grants.trans hgrants⟩, fun j hj => (h.dock j).trans (hdocks j hj)⟩

theorem findRide (h : AfterError s v t l isError) (n : RideNo) : t.findRide n = v.findRide n := by
  unfold State.findRide
  rw [h.rides]

theorem rideEnded (h : AfterError s v t l isError) {r : Ride} {e : Cred} {o : RideOutcome} (k : RideEnded s v r e o) :
    RideEnded s t r e o := by
  obtain ⟨hgone, hothers, hcred, hcreds, hlist, hqueue, hgrant, hmoved⟩ := k
  have hfind := State.findCred_congr h.creds
  exact ⟨(h.findRide _).trans hgone, hothers.trans (.of_eq h.rides _), (hfind _).trans hcred,
    fun c hc => (hfind c).trans (hcreds c hc), h.listK.trans hlist, h.queue ▸ hqueue, h.grants ▸ hgrant,
    h.grantsMoved hmoved⟩

/-- A line that follows its pending commands goes on doing so when its errors are counted. -/
theorem follows (h : AfterError s v t l isError) {j : Line} {c : LineCtl} {k : Nat} (hf : LineFollows s v j c)
    (hline : t.line j = { v.line j with errors := (v.line j).errors + k }) :
    LineFollows s t j { c with errors := c.errors + k } := by
  obtain ⟨hstands, hreturns, hquiet⟩ := hf
  refine ⟨fun hs => ?_, fun hs hset => ?_, fun hs hnone => ?_⟩
  · rw [hline, hstands hs]
  · simp only [h.dock] at hset
    obtain ⟨first, hlow, hret, hlatched⟩ := hreturns hs hset
    exact ⟨first, hlow, by rw [hline, hret]; rfl, h.latched _ hlatched⟩
  · simp only [h.dock] at hnone
    rw [hline, hquiet hs hnone]

end AfterError

end Sys2Proof.Machine
end

section
/-! PROOFS. The third failed turn and the loss of the link (R75, R76, R108, R110, R124, R137, R166). -/

namespace Sys2Proof.Machine

/-! ## The dock before its loss -/

namespace Struck

variable {s b : State} {l : Line} {x : Turn} {p : OpenProgress}

theorem atDock (h : Struck s b l x p) : AtDock s b (dockIx l x.addr) := by
  refine .of_same h.frame (.settled h.prior.rides) h.prior.creds h.prior.pool.2.2 (fun j hj => ?_) h.prior.agree
  rw [h.prior.agree.others j (fun he => hj (List.mem_singleton.mpr he))]
  exact ⟨rfl, .inl rfl⟩

/-- No dock's state or pending command has changed. -/
theorem stands (h : Struck s b l x p) (j : DockIx) :
    (b.dock j).state = (s.dock j).state ∧ (b.dock j).pending = (s.dock j).pending := by
  by_cases hj : j = dockIx l x.addr
  · rw [hj, h.dock]
    exact ⟨rfl, rfl⟩
  · rw [h.prior.agree.others j hj]
    exact ⟨rfl, rfl⟩

theorem dropped (h : Struck s b l x p) : PendingDropped s b :=
  ⟨fun j => State.fitted_of_dock (h.stands j).1, fun j => .inl (h.stands j).2⟩

theorem settings (h : Struck s b l x p) : b.settings = s.settings := h.frame.station.1.2.2.2.2.2.2.2.1

end Struck

/-! ## What every loss of a link keeps -/

/-- The loss of the link of a dock: other docks, nodes, turns and lines. -/
structure LinkGone (b v : State) (d : DockIx) : Prop where
  frame : RideFrame b v
  on    : ReplyFrame b v
  docks : DocksKept b v [d]
  drops : ∃ m, DropsAt b m v d

namespace LinkGone

variable {b v : State} {d : DockIx}

theorem notice (h : LinkGone b v d) (sub : Subject) (x : NoticeBody) : LinkGone b (v.notice sub x) d := by
  have hpool := v.notice_pool sub x
  obtain ⟨m, hm⟩ := h.drops
  exact ⟨h.frame.trans hpool.ride, h.on.trans (.pool hpool), h.docks.trans (.of_docks hpool.dock _),
    m, hm.next (.pool hpool) (.pool hpool (v.notice_latching sub x))⟩

theorem refl (b : State) (d : DockIx) : LinkGone b b d :=
  ⟨.refl b, .refl b, .refl b _, b, .of_follows (.refl b d)⟩

theorem cancelRide (b : State) (r : Ride) (o : RideOutcome) : LinkGone b (b.cancelRide r o) r.dock := by
  refine ⟨(b.cancelRide_spec r o).frame, .cancelRide b r o, b.cancelRide_docksKept r o, b.cancelled r o, ?_⟩
  exact .of_bound (.cancelled b r o) (ridesFrom_of_subset (b.cancelled_rides r o)).2 (.returnGrant _ r.dock)

theorem relatchRide (b : State) (r : Ride) : LinkGone b (b.relatchRide r) r.dock := by
  have hgrant := State.returnGrant_frame (b.updRide r.number Ride.relatched) r.dock
  have hset := NodeKept.updDock ((b.updRide r.number Ride.relatched).returnGrant r.dock) r.dock
    (f := fun x => { x with state := .relatching, relatch := 0 }) (fun _ => rfl)
  have hrelatch := State.relatchDock_frame ((b.updRide r.number Ride.relatched).returnGrant r.dock) r.dock
  have hride : ReplyFrame b (b.updRide r.number Ride.relatched) := .of_eq
  have hupd : NodeKept b (b.updRide r.number Ride.relatched) :=
    .of_same (fun _ => rfl) (fun l => by cases l <;> rfl) (.updRide b r.number (fun _ => ⟨rfl, rfl⟩))
  refine ⟨(b.relatchRide_spec r).frame, (hride.trans (.line hgrant)).trans (.relatchDock _ r.dock),
    b.relatchRide_docksKept r, b, .refl b r.dock, ?_, fun hfit => State.relatchRide_trace hfit.1⟩
  exact ((hupd.trans (.line hgrant)).trans hset).trans (.line hrelatch)

end LinkGone

theorem State.linkLost_gone (b : State) (d : DockIx) : LinkGone b (b.linkLost d) d := by
  unfold State.linkLost
  split
  · exact (LinkGone.refl b d).notice _ _
  · next r hr =>
    have hdock := (State.rideAt_some hr).2.1
    unfold State.lostRide
    split
    · exact (hdock ▸ LinkGone.cancelRide b r .dockLost).notice _ _
    · exact (hdock ▸ LinkGone.relatchRide b r).notice _ _
    · exact (LinkGone.refl b d).notice _ _
    · exact .refl b d

/-! ## The third failed turn (R123, R124) -/

/-- The record of a dock with the third failed turn. -/
def Dock.lost (x : Dock) : Dock := { x with busy := 0, failed := 3, link := .lost }

/-- The turn is struck in b, its dock's link lost in v, and the line error, if any, counted in t. -/
structure LostTurn (s b t : State) (l : Line) (x : Turn) (isError : Bool) (p : OpenProgress) : Prop where
  struck : Struck s b l x p
  dock   : b.dock (dockIx l x.addr) = (s.dock (dockIx l x.addr)).lost
  error  : AfterError s (b.linkLost (dockIx l x.addr)) t l isError

/-- The line error of a failed turn, from a station whose line is on and without a turn. -/
theorem AfterError.of_on {s v : State} {l : Line} {isError : Bool} (hset : v.settings = s.settings)
    (herr : (v.line l).errors = (s.line l).errors) (hturn : (v.line l).turn = none)
    (hon : (v.line l).state = .running ∨ (v.line l).state = .quiet) (n : Nat) :
    AfterError s v (latchStoreLow n (if isError then v.lineError l else v)) l isError := by
  by_cases hb : RestartsItself s l isError
  · refine (AfterError.broke hset herr hb hturn ?_).storeLow n
    rcases hon with h | h <;> rw [h] <;> nofun
  · exact (AfterError.counted hset herr hb).storeLow n

theorem Struck.lostTurn {s b : State} {l : Line} {x : Turn} {p : OpenProgress} (h : Struck s b l x p)
    (hdock : b.dock (dockIx l x.addr) = (s.dock (dockIx l x.addr)).lost)
    (hon : (s.line l).state = .running ∨ (s.line l).state = .quiet) (n : Nat) (isError : Bool) :
    LostTurn s b (latchStoreLow n (if isError then (b.linkLost (dockIx l x.addr)).lineError l
      else b.linkLost (dockIx l x.addr))) l x isError p := by
  have hgone := b.linkLost_gone (dockIx l x.addr)
  obtain ⟨m, hm⟩ := hgone.drops
  obtain ⟨hturn, herrors⟩ := (hm.drops.kept.trans hm.kept).turn l
  obtain ⟨hover, hstate, hcount⟩ := h.line
  refine ⟨h, hdock, .of_on (hgone.frame.station.1.2.2.2.2.2.2.2.1.trans h.settings) (herrors.trans hcount)
    (hturn.trans hover) (hgone.on.runs (by rwa [hstate])) n⟩

theorem Struck.lose {s a : State} {l : Line} {x : Turn} {p : OpenProgress} (h : Struck s a l x p)
    (hbusy : (a.dock (dockIx l x.addr)).busy = 0) (hfailed : (a.dock (dockIx l x.addr)).failed = 2)
    (hlink : (a.dock (dockIx l x.addr)).link ≠ .lost) :
    ∃ b, Struck s b l x p ∧ b.dock (dockIx l x.addr) = (s.dock (dockIx l x.addr)).lost ∧
      a.failTurn (dockIx l x.addr) = b.linkLost (dockIx l x.addr) := by
  have hthree := h.updDock (f := fun y => { y with failed := 3 }) (fun _ => rfl)
  have hlost := hthree.updDock (f := fun y => { y with link := .lost }) (fun _ => rfl)
  refine ⟨_, hlost, ?_, State.failTurn_third hfailed hlink⟩
  rw [State.dock_updDock, if_pos rfl, State.dock_updDock, if_pos rfl, h.dock, hbusy]
  rfl

/-- The eighth BUSY in a row of a dock whose link is not LOST is a failed turn without a line error (R123). -/
theorem State.endBusy_eighth {s : State} {l : Line} {x : Turn} (hlink : (s.dock (dockIx l x.addr)).link ≠ .lost)
    (hbusy : 7 ≤ (s.dock (dockIx l x.addr)).busy) :
    s.endBusy l x = ((((settleOpen s (dockIx l x.addr) false).endTurn l).updDock (dockIx l x.addr) (fun y => { y with
      link := .online, failed := if y.link = .lost then 0 else y.failed })).updDock (dockIx l x.addr) (fun y => { y with
      busy := 0 })).failTurn (dockIx l x.addr) := by
  unfold State.endBusy
  dsimp only
  rw [if_neg hlink, if_pos (show Config.busyLimit ≤ _ from Nat.succ_le_succ hbusy)]

theorem ThirdFailure.lostTurn {s : State} {l : Line} {x : Turn} {i : Instr} {isError : Bool} {p : OpenProgress}
    (h : ThirdFailure s l x i isError p) : ∃ b t, exec i s = .next t ∧ LostTurn s b t l x isError p := by
  obtain ⟨hfailed, hlink, hcause⟩ := h
  rcases hcause with ⟨hfails, rfl⟩ | ⟨hdue, rfl, hbusy, rfl, rfl⟩
  · have hstruck := (State.struck hfails.2.1 true).updDock (f := fun y => { y with busy := 0 }) (fun _ => rfl)
    obtain ⟨b, hb, hdock, hfail⟩ := hstruck.lose (by rw [State.dock_updDock, if_pos rfl])
      (by rw [State.dock_updDock, if_pos rfl, State.struck_dock]; exact hfailed)
      (by rw [State.dock_updDock, if_pos rfl, State.struck_dock]; exact hlink)
    have hend := hb.lostTurn hdock hfails.1 s.free.length isError
    rw [← hfail] at hend
    exact ⟨b, _, hfails.exec_fails, hend⟩
  · have hanswered := (State.struck hdue.2.1 false).updDock (f := fun y => { y with
      link := .online, failed := if y.link = .lost then 0 else y.failed }) (fun _ => rfl)
    have hstruck := hanswered.updDock (f := fun y => { y with busy := 0 }) (fun _ => rfl)
    obtain ⟨b, hb, hdock, hfail⟩ := hstruck.lose (by rw [State.dock_updDock, if_pos rfl])
      (by rw [State.dock_updDock, if_pos rfl, State.dock_updDock, if_pos rfl, State.struck_dock]
          exact (if_neg hlink).trans hfailed)
      (by rw [State.dock_updDock, if_pos rfl, State.dock_updDock, if_pos rfl]; nofun)
    have hend := hb.lostTurn hdock hdue.1 s.free.length false
    rw [← hfail, if_neg Bool.false_ne_true, ← State.endBusy_eighth hlink hbusy] at hend
    exact ⟨b, _, hdue.exec_busy, hend⟩

end Sys2Proof.Machine
end

section
/-! PROOFS. The third failed turn by the ride of its dock, and the line error that breaks the line at any other failed turn
(R75, R76, R108, R110, R119, R120, R124, R128 to R130, R166, R169). -/

namespace Sys2Proof.Machine

theorem Ride.settled_state (r : Ride) (d : DockIx) (p : OpenProgress) : (r.settled d p).state = r.state := by
  rw [Ride.settled_eq]

/-! ## What every third failure leaves -/

namespace LostTurn

variable {s b t : State} {l : Line} {x : Turn} {isError : Bool} {p : OpenProgress}

theorem lossFrame (h : LostTurn s b t l x isError p) : RideFrame s (b.linkLost (dockIx l x.addr)) :=
  h.struck.frame.trans (b.linkLost_gone (dockIx l x.addr)).frame

theorem frame (h : LostTurn s b t l x isError p) : RideFrame s t := h.lossFrame.trans h.error.frame

theorem docksKept (h : LostTurn s b t l x isError p) : DocksKept s t [dockIx l x.addr] :=
  (h.struck.atDock.docks.trans (b.linkLost_gone _).docks).trans (.of_docks h.error.dock _)

theorem progress (h : LostTurn s b t l x isError p) : ProgressSettled s t (dockIx l x.addr) p := by
  obtain ⟨m, hm⟩ := (b.linkLost_gone (dockIx l x.addr)).drops
  exact ((hm.drops.kept.trans hm.kept).rides.trans (ridesFrom_of_eq h.error.rides).1).progressSettled h.struck.prior.rides

theorem errors (h : LostTurn s b t l x isError p) (hb : ¬ RestartsItself s l isError) :
    (t.line l).errors = (s.line l).errors + (if isError then 1 else 0) := by
  obtain ⟨m, hm⟩ := (b.linkLost_gone (dockIx l x.addr)).drops
  rw [(h.error.below hb).1, ← h.struck.line.2.2, ← ((hm.drops.kept.trans hm.kept).turn l).2]

/-! ## The loss of the link by the ride of the dock -/

theorem lost_unbound (h : LostTurn s b t l x isError p) (hnone : s.rideAt (dockIx l x.addr) = none) :
    b.linkLost (dockIx l x.addr) = b.notice (.dock (dockIx l x.addr)) (.nodeLost none) := by
  unfold State.linkLost
  rw [rideAt_settled h.struck.prior.rides, hnone, Option.map_none]

theorem lost_bound (h : LostTurn s b t l x isError p) {r : Ride} (hr : s.rideAt (dockIx l x.addr) = some r) :
    b.linkLost (dockIx l x.addr) = b.lostRide (dockIx l x.addr) (r.settled (dockIx l x.addr) p) := by
  unfold State.linkLost
  rw [rideAt_settled h.struck.prior.rides, hr, Option.map_some]

/-- Where the tables agree, both lines follow the pending commands that the loss of the link sets. -/
theorem lossFollows (h : LostTurn s b t l x isError p) (hrel : ReleaseInv s) (j : Line) :
    LineFollows s (b.linkLost (dockIx l x.addr)) j (b.line j) := by
  cases hr : s.rideAt (dockIx l x.addr) with
  | none =>
    rw [h.lost_unbound hr]
    exact (LineTrace.pool (b.notice_pool _ _) (b.notice_latching _ _)).follows h.struck.dropped j
  | some r =>
    obtain ⟨hmem, hdock, ho⟩ := State.rideAt_some hr
    obtain ⟨m, hm⟩ := (b.linkLost_gone (dockIx l x.addr)).drops
    have hfit : FitAt s (dockIx l x.addr) := ⟨hdock ▸ hrel.1.fitted hmem ho, fun r hr ho => hrel.1.fitted hr ho⟩
    have hfitb : FitAt b (dockIx l x.addr) := hfit.next h.struck.dropped.fitted (.settled h.struck.prior.rides)
    have hfollows := (hm.trace hfitb).follows (h.struck.dropped.trans (hm.drops.pending hfitb.1)) j
    rwa [hm.drops.line] at hfollows

theorem lines (h : LostTurn s b t l x isError p) (hrel : ReleaseInv s) :
    (¬ RestartsItself s l isError → ∃ c : LineCtl, TurnFailed s l x isError c ∧ LineFollows s t l c) ∧
    LineFollows s t (otherLine l) (s.line (otherLine l)) := by
  refine ⟨fun hb => ⟨_, ⟨b.line l, h.struck.ended, rfl⟩, h.error.follows (h.lossFollows hrel l) (h.error.below hb).1⟩, ?_⟩
  have hother := h.error.follows (k := 0) (h.lossFollows hrel (otherLine l)) h.error.other
  rw [h.struck.other] at hother
  exact hother

/-- NODE_LOST where no ride ends or changes: with no ride at the dock, or a RELATCHING one (R76). -/
theorem noticed (h : LostTurn s b t l x isError p) {n : NoticeBody}
    (hlost : b.linkLost (dockIx l x.addr) = b.notice (.dock (dockIx l x.addr)) n) :
    t.dock (dockIx l x.addr) = (s.dock (dockIx l x.addr)).lost ∧
    NotifiedThen s t s.free (.dock (dockIx l x.addr)) n (if RestartsItself s l isError then
      some (.line l, .lineDegraded ((s.line l).errors + 1) s.settings.errThreshold) else none) ∧
    GrantsStand s t (dockIx l x.addr) ∧ t.rides = s.rides.map (fun r => r.settled (dockIx l x.addr) p) ∧
    t.creds = s.creds ∧ t.listK = s.listK := by
  have herror := h.error
  have hframe := h.lossFrame
  have hnotice := b.notice_pool (.dock (dockIx l x.addr)) n
  have hlistK := b.notice_listK (.dock (dockIx l x.addr)) n
  have hat := h.struck.atDock.trans (.notice b (dockIx l x.addr) (.dock (dockIx l x.addr)) n)
  have hnotified := (b.notice_notified (.dock (dockIx l x.addr)) n).seen h.struck.frame.station.1 h.struck.frame.ports
    h.struck.prior.pool.2.1
  rw [h.struck.prior.pool.1] at hnotified
  rw [hlost] at herror hframe
  exact ⟨by rw [herror.dock, hnotice.dock, h.dock], herror.notifiedThen hframe hnotified, herror.grantsStand hat.grantsStand,
    herror.rides.trans (hnotice.rides.trans h.struck.prior.rides), herror.creds.trans (hnotice.creds.trans h.struck.prior.creds),
    herror.listK.trans (hlistK.trans h.struck.prior.pool.2.2)⟩

/-- A QUEUED ride is cancelled with DOCK_LOST before NODE_LOST is posted (R75). -/
theorem cancelled (h : LostTurn s b t l x isError p) {r : Ride} {e : Cred} (hr : s.rideAt (dockIx l x.addr) = some r)
    (he : s.findCred r.cred = some e) (hq : r.state = .queued) :
    RideEnded s t r e .dockLost ∧
    t.dock (dockIx l x.addr) = { s.dock (dockIx l x.addr) with
      busy := 0, failed := 3, link := .lost, state := .docked, relatch := 0
      pending := withoutLatch (s.dock (dockIx l x.addr)).pending } ∧
    NotifiedThen s t (cancelPool s.free s.listK r .dockLost).1 (.dock (dockIx l x.addr))
      (.nodeLost (some (r.number, .cancelled))) (if RestartsItself s l isError then
        some (.line l, .lineDegraded ((s.line l).errors + 1) s.settings.errThreshold) else none) := by
  have hlost : b.linkLost (dockIx l x.addr) = (b.cancelRide (r.settled (dockIx l x.addr) p) .dockLost).notice
      (.dock (dockIx l x.addr)) (.nodeLost (some (r.number, .cancelled))) := by
    rw [h.lost_bound hr, State.lostRide, Ride.settled_state, Ride.settled_number, hq]
  have hdock := (State.rideAt_some hr).2.1
  have herror := h.error
  have hframe := h.lossFrame
  have hprior := h.struck.prior
  have hrecord := h.dock
  rw [hlost] at herror hframe
  rw [← hdock] at hprior hrecord herror hframe ⊢
  have hsettled := r.settled_eq r.dock p
  have hspec := b.cancelRide_spec (r.settled r.dock p) .dockLost
  have hnotified := ((b.cancelRide (r.settled r.dock p) .dockLost).notice_notified (.dock r.dock)
    (.nodeLost (some (r.number, .cancelled)))).seen
    (SameBase.trans h.struck.frame.station.1 hspec.frame.station.1) (PortsKept.trans h.struck.frame.ports hspec.frame.ports)
    (hprior.cancelled_listN .dockLost _)
  rw [hprior.cancelled_free hsettled] at hnotified
  refine ⟨herror.rideEnded (hprior.ended hsettled .dockLost he (.notice _ r.dock _ _)), ?_, herror.notifiedThen hframe hnotified⟩
  have hdocked := hspec.dock
  rw [show (r.settled r.dock p).dock = r.dock by rw [hsettled], hrecord] at hdocked
  rw [herror.dock, State.notice_dock, hdocked, ← Pending.dropLatch_eq]
  rfl

/-- A RELEASING ride goes to RELATCHING with its dock before NODE_LOST is posted (R76). -/
theorem relatched (h : LostTurn s b t l x isError p) (hsorted : RidesSorted s) {r : Ride}
    (hr : s.rideAt (dockIx l x.addr) = some r) (hrel : r.state = .releasing)
    (hout : ∀ y ∈ s.releaseQ, y.dock ≠ dockIx l x.addr) :
    t.findRide r.number = some { r.settled (dockIx l x.addr) p with state := .relatching, windowLeft := none } ∧
    OtherRidesKept s t r.number ∧
    t.dock (dockIx l x.addr) = { s.dock (dockIx l x.addr) with
      busy := 0, failed := 3, link := .lost, state := .relatching, relatch := 0, pending := .closeCmd } ∧
    dockIx l x.addr ∉ t.grants ∧ GrantsMoved s t [dockIx l x.addr] [dockIx l x.addr] ∧
    NotifiedThen s t s.free (.dock (dockIx l x.addr)) (.nodeLost (some (r.number, .toRelatching)))
      (if RestartsItself s l isError then
        some (.line l, .lineDegraded ((s.line l).errors + 1) s.settings.errThreshold) else none) ∧
    t.creds = s.creds ∧ t.listK = s.listK := by
  have hlost : b.linkLost (dockIx l x.addr) = (b.relatchRide (r.settled (dockIx l x.addr) p)).notice
      (.dock (dockIx l x.addr)) (.nodeLost (some (r.number, .toRelatching))) := by
    rw [h.lost_bound hr, State.lostRide, Ride.settled_state, Ride.settled_number, hrel]
  obtain ⟨hmem, hdock, -⟩ := State.rideAt_some hr
  have herror := h.error
  have hframe := h.lossFrame
  have hprior := h.struck.prior
  have hrecord := h.dock
  rw [hlost] at herror hframe
  rw [← hdock] at hprior hrecord herror hframe hout ⊢
  have hsettled := r.settled_eq r.dock p
  have hspec := b.relatchRide_spec (r.settled r.dock p)
  have hnotice := (b.relatchRide (r.settled r.dock p)).notice_pool (.dock r.dock) (.nodeLost (some (r.number, .toRelatching)))
  have hlistK := (b.relatchRide (r.settled r.dock p)).notice_listK (.dock r.dock) (.nodeLost (some (r.number, .toRelatching)))
  have hnotified := ((b.relatchRide (r.settled r.dock p)).notice_notified (.dock r.dock)
    (.nodeLost (some (r.number, .toRelatching)))).seen
    (SameBase.trans h.struck.frame.station.1 hspec.frame.station.1) (PortsKept.trans h.struck.frame.ports hspec.frame.ports)
    (hspec.pool.2.1.trans hprior.pool.2.1)
  rw [hspec.pool.1, hprior.pool.1] at hnotified
  have hsame : (r.settled r.dock p).dock = r.dock ∧ (r.settled r.dock p).number = r.number := by
    rw [hsettled]
    exact ⟨rfl, rfl⟩
  have hrides : t.rides = (b.updRide r.number Ride.relatched).rides := by
    rw [herror.rides, hnotice.rides, hspec.rides, hsame.2]
    rfl
  have hmoved : GrantsMoved s ((b.relatchRide (r.settled r.dock p)).notice (.dock r.dock)
      (.nodeLost (some (r.number, .toRelatching)))) [r.dock] [r.dock] := by
    intro _ hissued
    have hupd : AgreeBut s (b.updRide r.number Ride.relatched) r.dock :=
      hprior.agree.trans ⟨rfl, fun _ => rfl, rfl, rfl, fun _ _ => rfl⟩
    have hreturned := State.returnRelatch_moved (d := r.dock) (hupd.releaseQ ▸ hout) (hupd.issued hissued)
    refine hupd.moved (.pool hnotice) ?_
    rw [State.relatchRide, hsame.1, hsame.2]
    exact hreturned
  refine ⟨?_, ?_, ?_, ?_, herror.grantsMoved hmoved, herror.notifiedThen hframe hnotified, ?_, ?_⟩
  · have hfind : t.findRide r.number = (b.updRide r.number Ride.relatched).findRide r.number := by
      unfold State.findRide
      rw [hrides]
    rw [hfind, findRide_updRide_self, findRide_settled hprior.rides, State.findRide_of_mem hsorted hmem]
    rfl
  · exact ((OtherRidesKept.settled hprior.rides r.number).trans (.updRide b r.number)).trans (.of_eq hrides _)
  · have hset := hspec.dock
    rw [hsame.1, hrecord] at hset
    rw [herror.dock, hnotice.dock, hset]
    rfl
  · have hgone := hspec.grant
    rw [hsame.1, hprior.agree.releaseQ] at hgone
    rw [herror.grants, hnotice.grants]
    exact hgone hout
  · exact herror.creds.trans (hnotice.creds.trans (hspec.creds.trans hprior.creds))
  · exact herror.listK.trans (hlistK.trans (hspec.pool.2.2.trans hprior.pool.2.2))

end LostTurn

end Sys2Proof.Machine
end

section
/-! PROOFS. The statement of the third failure, and the break at any other failed turn (R75, R76, R124, R128 to R130, R166). -/

namespace Sys2Proof.Machine

/-- A failed turn that leaves the link: the dock counts it, at most to 3 (R124). -/
theorem Struck.counts {s a : State} {l : Line} {x : Turn} {p : OpenProgress} (h : Struck s a l x p)
    (hbusy : (a.dock (dockIx l x.addr)).busy = 0)
    (hfailed : (a.dock (dockIx l x.addr)).failed = (s.dock (dockIx l x.addr)).failed)
    (hlink : (a.dock (dockIx l x.addr)).link = (s.dock (dockIx l x.addr)).link)
    (hcount : (s.dock (dockIx l x.addr)).failed < 2 ∨ (s.dock (dockIx l x.addr)).failed = 3) :
    Struck s (a.failTurn (dockIx l x.addr)) l x p ∧
    (a.failTurn (dockIx l x.addr)).dock (dockIx l x.addr) = { s.dock (dockIx l x.addr) with
      busy := 0, failed := min ((s.dock (dockIx l x.addr)).failed + 1) 3 } := by
  have hrecord := h.dock
  rw [hbusy, hlink] at hrecord
  rcases hcount with hearly | hlate
  · rw [State.failTurn_early (by rwa [hfailed])]
    refine ⟨h.updDock (fun _ => rfl), ?_⟩
    rw [State.dock_updDock, if_pos rfl, hfailed, Nat.min_eq_left (by omega), hrecord]
  · rw [State.failTurn_late (hfailed.trans hlate)]
    refine ⟨h, ?_⟩
    rw [hrecord, hfailed, hlate]
    rfl

/-- A failed turn that is not the third, and the line error after it. -/
theorem FailsTurn.counted {s : State} {l : Line} {x : Turn} {i : Instr} {isError : Bool} (h : FailsTurn s l x i isError)
    (hcount : (s.dock (dockIx l x.addr)).failed < 2 ∨ (s.dock (dockIx l x.addr)).failed = 3) :
    ∃ b t, exec i s = .next t ∧ Struck s b l x .delivered ∧ AfterError s b t l isError ∧
      b.dock (dockIx l x.addr) = { s.dock (dockIx l x.addr) with
        busy := 0, failed := min ((s.dock (dockIx l x.addr)).failed + 1) 3 } := by
  have hstruck := (State.struck h.2.1 true).updDock (f := fun y => { y with busy := 0 }) (fun _ => rfl)
  have hrecord : ((((settleOpen s (dockIx l x.addr) true).endTurn l).updDock (dockIx l x.addr) (fun y => { y with
      busy := 0 })).dock (dockIx l x.addr)) = { s.dock (dockIx l x.addr) with busy := 0 } := by
    rw [State.dock_updDock, if_pos rfl, State.struck_dock]
  obtain ⟨hb, hdock⟩ := hstruck.counts (by rw [hrecord]) (by rw [hrecord]) (by rw [hrecord]) hcount
  obtain ⟨hover, hstate, herrors⟩ := hb.line
  exact ⟨_, _, h.exec_fails, hb, .of_on hb.settings herrors hover (by rw [hstate]; exact h.1) s.free.length, hdock⟩

end Sys2Proof.Machine

namespace Sys2Proof.Proofs

open Sys2Proof.Machine

/-- Settles O38: the loss of the link by the ride of its dock, and after it the line error with the break that it may bring. -/
theorem lossAndRestart : Obligations.LossAndRestart := by
  refine ⟨?_, ?_⟩
  · intro s l x i isError p d hthird hsorted degraded
    obtain ⟨b, t, hexec, h⟩ := hthird.lostTurn
    refine ⟨t, hexec, h.docksKept, h.frame.station, h.frame.ports, h.progress, fun hb => ?_, h.errors, h.lines, fun hnone => ?_,
      fun r e hr he hq => h.cancelled hr he hq, fun r hr hrel hout => h.relatched hsorted hr hrel hout, fun r hr hrel => ?_⟩
    · obtain ⟨hline, hlatched, -⟩ := h.error.broken hb
      exact ⟨hline, hlatched⟩
    · exact h.noticed (h.lost_unbound hnone)
    · exact h.noticed (by rw [h.lost_bound hr, State.lostRide, Ride.settled_state, Ride.settled_number, hrel])
  · intro s l x i isError d hfails hfailed hb
    obtain ⟨b, t, hexec, hstruck, herror, hdock⟩ := hfails.counted hfailed
    obtain ⟨hline, hlatched, hnotified⟩ := herror.broken hb
    have hprior := hstruck.prior
    have hframe := hstruck.frame.trans herror.frame
    have hseen := hnotified.seen hstruck.frame.station.1 hstruck.frame.ports hprior.pool.2.1
    rw [hprior.pool.1] at hseen
    exact ⟨t, hexec, hline, herror.other.trans hstruck.other, hlatched, hseen, (herror.dock d).trans hdock,
      fun j hj => (herror.dock j).trans (hprior.agree.others j hj), herror.rides.trans hprior.rides,
      herror.queue.trans hprior.agree.releaseQ, herror.grants.trans hprior.agree.grants, herror.creds.trans hprior.creds,
      herror.listK.trans hprior.pool.2.2, hframe.station, hframe.ports⟩

end Sys2Proof.Proofs
end
